-- ==== Sys2Proof/Word.lean ====
section
/-! DEFINITION. The words, numbers and sets the Q440 deals in (00_scope.md, Terms; R4, R170). -/

namespace Sys2Proof

/-- A byte of a management frame. -/
abbrev Byte := BitVec 8

/-- The 64 bytes of a line: byte n (the byte at line address plus n) is bits 8n+7 to 8n
(DESIGN CHOICE, log 20). -/
abbrev LineData := BitVec 512

/-- The byte mask of a write: bit n set means byte n of the line is to be written (ch. 1.1). -/
abbrev ByteMask := BitVec 64

/-- A byte address on the host channel, below 2^40. -/
abbrev UpAddr := BitVec 40

/-- A byte address on one memory port, below 2^38. -/
abbrev DownAddr := BitVec 38

/-- Memory ports M0 to M3. -/
abbrev Port := Fin 4

/-- Regions 0 to 15. -/
abbrev RegionIx := Fin 16

/-- Host tags 0 to 31. -/
abbrev Tag := Fin 32

/-- Slots 0 to 15 of a port queue. -/
abbrev SlotIx := Fin 16

/-- A set of ports, bit n standing for port n (R170). -/
abbrev PortSet := BitVec 4

end Sys2Proof
end

