-- ==== Sys2Proof/Config.lean ====
section
/-! DEFINITION. The numbers the part fixes. The spec leaves no value of an instruction undefined, so
there is no free value here. -/

namespace Sys2Proof.Config

/-- Slots of a port queue (R87). -/
def slotCount : Nat := 16
/-- Records the event queue holds (R157). -/
def eventCapacity : Nat := 32
/-- Runs a divergence list holds (R103). -/
def runCapacity : Nat := 64
/-- Replies that may await transmission (R150). -/
def replyCapacity : Nat := 2
/-- Compare jobs the job queue takes (R118). -/
def compareCapacity : Nat := 4
/-- Longest command body in bytes (R143). -/
def bodyCapacity : Nat := 206
/-- Bytes of a granule, 16 MiB. -/
def granuleBytes : Nat := 16777216
/-- Bytes of an extent, 64 KiB. -/
def extentBytes : Nat := 65536
/-- Bytes of a line. -/
def lineBytes : Nat := 64
/-- Lines of an extent. -/
def linesPerExtent : Nat := 1024
/-- Extents of a granule. -/
def extentsPerGranule : Nat := 256
/-- Granules of the upstream address space (R30 check 2). -/
def upGranules : Nat := 65536
/-- Granules of a memory device (R30 check 2). -/
def downGranules : Nat := 16384
/-- Largest region size in granules (R23). -/
def maxRegionGranules : Nat := 16384
/-- The overtake count that places a line claim (R132). -/
def overtakeLimit : Nat := 8
/-- The training timer, in microseconds (R80). -/
def trainingMicros : Nat := 5000
/-- The wake timer, in microseconds (R83). -/
def wakeMicros : Nat := 1000
/-- The compared-line count is held at its maximum (R118). -/
def comparedMax : Nat := 4294967295
/-- The mismatch count is held at its maximum (R118). -/
def mismatchMax : Nat := 65535
/-- Power-on timeout index: 160 microseconds (R101). -/
def powerOnTimeoutIx : Nat := 2
/-- Power-on copy weight (R101). -/
def powerOnWeight : Nat := 4
/-- Power-on management key, 5Ch (R156). -/
def powerOnKey : Byte := 0x5C#8
/-- Vendor code (R154). -/
def vendorCode : Nat := 0x3D52
/-- Part code (R154). -/
def partCode : Nat := 0x0440
/-- Revision (R154). -/
def revision : Nat := 0x01

/-- The boot region's size in granules, by BOOTSZ[1:0] (R41). -/
def bootGranules (bootsz : BitVec 2) : Nat :=
  if bootsz = 0#2 then 64 else if bootsz = 1#2 then 256 else if bootsz = 2#2 then 1024 else 4096

end Sys2Proof.Config
end

