-- ==== Sys2Proof/Syntax.lean ====
section
/-! DEFINITION. The commands of the Q440: one constructor for each row of spec/opcode_table.json, with the
operands the row's rule gives it. The twenty management commands carry the sequence number of the frame
they arrive in and the payload fields of R171; a byte the layout reserves is an operand too, since the
part checks it. -/

namespace Sys2Proof

/-- What a request or a transaction asks for: a READ, or a WRITE with its byte mask and data (ch. 1.1, R87). -/
inductive Op where
  | read
  | write (mask : ByteMask) (data : LineData)
deriving DecidableEq, Repr

/-- What a response of a memory device carries: OK, OK with 64 bytes of data, or ERROR (R89). -/
inductive DevResponse where
  | ok
  | okData (data : LineData)
  | error
deriving DecidableEq, Repr

/-- One member slot of a staging record: port byte and downstream base (R172). -/
structure MemberSlot where
  port : Byte
  base : BitVec 16
deriving DecidableEq, Repr

/-- The 20-byte staging record of REGION_STAGE, offsets 0 to 19 of R172. -/
structure StageRecord where
  region    : Byte
  mode      : Byte
  base      : BitVec 16
  size      : BitVec 16
  policy    : Byte
  preferred : Byte
  count     : Byte
  slot0     : MemberSlot
  slot1     : MemberSlot
  slot2     : MemberSlot
  reserved  : BitVec 16
deriving DecidableEq, Repr

/-- The commands, in the order of the table. -/
inductive Instr where
  /-- ADMISSION (R6): the request record the host channel carries. -/
  | admission (tag : Tag) (op : Op) (line : UpAddr)
  /-- GRANT (R94): the port whose arbiter grants, and the free slot it hands over (log 7). -/
  | grant (port : Port) (slot : SlotIx)
  /-- HOST_OUTCOME (R16): the dispatcher takes the oldest outcome the port has handed it. -/
  | hostOutcome (port : Port)
  | hrstNAssert
  | hrstNDeassert
  | porstNAssert
  /-- PORST_N_DEASSERT (R41): with the straps as sampled while PORST_N was asserted. -/
  | porstNDeassert (bootsz : BitVec 2) (mbaud : Bool)
  | deviceReady (port : Port)
  | trainingTimerExpiry (port : Port)
  | silenceTimerExpiry (port : Port)
  | wakeTimerExpiry (port : Port)
  | linkError (port : Port)
  | deviceResponse (port : Port) (slot : SlotIx) (resp : DevResponse)
  | responseTimerExpiry (port : Port)
  /-- LINK_LOSS_CLAIM (R68): the membership machine takes the port's oldest claim. -/
  | linkLossClaim (port : Port)
  /-- COPY_OUTCOME (R127): the copy engine takes the oldest outcome the port has handed it. -/
  | copyOutcome (port : Port)
  /-- MGMT_CHARACTER (R144): the byte, and whether its stop bit was high (R142). -/
  | mgmtCharacter (byte : Byte) (stopHigh : Bool)
  | replySent
  | ident (seq : Byte)
  | status (seq : Byte)
  | setKey (seq : Byte) (key : Byte)
  | regionStage (seq : Byte) (record : StageRecord)
  | regionCommit (seq : Byte) (region init primary reserved : Byte)
  | regionRetire (seq : Byte) (region reserved : Byte)
  | regionRead (seq : Byte) (region reserved : Byte)
  | portEnable (seq : Byte) (port reserved : Byte)
  | portDisable (seq : Byte) (port reserved : Byte)
  | portSetup (seq : Byte) (port timeout silence weight : Byte)
  | portRead (seq : Byte) (port : Byte)
  | detach (seq : Byte) (port reserved : Byte)
  | rejoin (seq : Byte) (port reserved : Byte)
  | divergenceRead (seq : Byte) (port start : Byte)
  | compare (seq : Byte) (region : Byte) (first count : BitVec 24)
  | jobRead (seq : Byte)
  | jobCancel (seq : Byte) (position : Byte)
  | eventFetch (seq : Byte) (n : Byte)
  | faultClear (seq : Byte) (flags : BitVec 16)
  | faultMask (seq : Byte) (flags : BitVec 16)
deriving DecidableEq, Repr

end Sys2Proof
end

