-- ==== Sys2Proof/WellFormed.lean ====
section
/-! DEFINITION. Which commands are well formed. Operand ranges are carried by the types; the one relation
left is that a host request names a line. Every payload of a management command is well formed: the part
itself checks it and answers. -/

namespace Sys2Proof

/-- A line address is a multiple of 64 (ch. 1.1: "an upstream address below 2^40 and a multiple of 64"). -/
def lineAligned (a : UpAddr) : Bool := a.toNat % Config.lineBytes == 0

/-- The commands the outside world can give. -/
def Instr.wellFormed : Instr → Bool
  | .admission _ _ line => lineAligned line
  | .grant _ _ => true
  | .hostOutcome _ => true
  | .hrstNAssert => true
  | .hrstNDeassert => true
  | .porstNAssert => true
  | .porstNDeassert _ _ => true
  | .deviceReady _ => true
  | .trainingTimerExpiry _ => true
  | .silenceTimerExpiry _ => true
  | .wakeTimerExpiry _ => true
  | .linkError _ => true
  | .deviceResponse _ _ _ => true
  | .responseTimerExpiry _ => true
  | .linkLossClaim _ => true
  | .copyOutcome _ => true
  | .mgmtCharacter _ _ => true
  | .replySent => true
  | .ident _ => true
  | .status _ => true
  | .setKey _ _ => true
  | .regionStage _ _ => true
  | .regionCommit _ _ _ _ _ => true
  | .regionRetire _ _ _ => true
  | .regionRead _ _ _ => true
  | .portEnable _ _ _ => true
  | .portDisable _ _ _ => true
  | .portSetup _ _ _ _ _ => true
  | .portRead _ _ => true
  | .detach _ _ _ => true
  | .rejoin _ _ _ => true
  | .divergenceRead _ _ _ => true
  | .compare _ _ _ _ => true
  | .jobRead _ => true
  | .jobCancel _ _ => true
  | .eventFetch _ _ => true
  | .faultClear _ _ => true
  | .faultMask _ _ => true

end Sys2Proof
end

