-- ==== Sys2Proof/Decode.lean ====
section
/-! DEFINITION. The table's words. spec/opcode_table.json gives no row of this block any bits (its rows are
steps of the part, not encoded words), so no word spells a command. The bytes of a management frame, which
do spell one, are taken apart in Machine/Receiver.lean. -/

namespace Sys2Proof

/-- The command a word spells by the table's bits: none, since no row of the table gives bits. -/
def decodeTableWord (_nbits _w : Nat) : Option Instr := none

end Sys2Proof
end

