-- ==== Sys2Proof/Machine/State.lean ====
section
/-! DEFINITION. Everything the spec gives the Q440 to hold, as plain data, and its values right after reset.
Sets of ports are four bits. Where two names of the spec share storage it is held once: an entry's held set
is read from the port queues (R13, R87), UP_READY and FLT_N are computed (R2, R167). -/

namespace Sys2Proof.Machine

/-! ## Reasons, statuses, events -/

/-- The reason codes of R158, codes 1 to 6 in this order. Failure reasons of requests and reports are the
first three (R4, R63). -/
inductive Reason where
  | media | timeout | link | training | source | target
deriving DecidableEq, Repr

/-- Status of a response record (ch. 1.1). -/
inductive RespStatus where
  | ok | unmapped | media | portDown
deriving DecidableEq, Repr

/-- A response record of the host channel (ch. 1.1, R3). -/
structure Response where
  tag    : Tag
  status : RespStatus
  data   : Option LineData
deriving DecidableEq, Repr

/-- The event kinds of R159. -/
inductive EventKind where
  | portLinkUp | portLinkFailed | wakeFailed
  | memberEjected | memberInService | lastReplicaError
  | readRedirected | unmappedAccess | tagCollision | hostReset
  | regionLive | regionRetired
  | divergenceCoalesced
  | copyStarted | copyDone | copyAborted | compareMismatch | compareDone
  | keyRefused
deriving DecidableEq, Repr

/-- The address of an event record: absent, a LINE or an EXTENT (R157). -/
inductive EventAddr where
  | absent
  | line (a : UpAddr)
  | extent (n : Nat)
deriving DecidableEq, Repr

/-- What a block posts: a record before the event unit numbers it (R157, R159). -/
structure EventBody where
  kind   : EventKind
  port   : Option Port := none
  region : Option RegionIx := none
  detail : Nat := 0
  addr   : EventAddr := .absent
  second : Nat := 0
deriving DecidableEq, Repr

/-- A record of the event queue (R157). -/
structure EventRec where
  seq  : BitVec 16
  body : EventBody
deriving DecidableEq, Repr

/-- The event unit (ch. 9): queue, sequence counter, fault summary and mask. Bits 13 to 15 of the two-byte
summary and mask carry no flag and read as 0 (R164). -/
structure EventUnit where
  queue   : List EventRec
  next    : BitVec 16
  summary : BitVec 13
  mask    : BitVec 13
deriving DecidableEq, Repr

/-! ## The request table -/

/-- Kind of a request or of a claimed transaction. -/
inductive Kind where
  | read | write
deriving DecidableEq, Repr

/-- The states of a request table entry (R4). -/
inductive EntryState where
  | waitingLine | waitingSlot | issued | orphaned
deriving DecidableEq, Repr

/-- An entry of the request table (R4). Its admission order is its place in the table (R5). -/
structure Entry where
  tag      : Tag
  kind     : Kind
  /-- WRITE only, until placement (R1). -/
  payload  : Option (ByteMask × LineData)
  line     : UpAddr
  region   : RegionIx
  state    : EntryState
  target   : PortSet
  tried    : PortSet
  ack      : PortSet
  fail     : PortSet
  counted  : PortSet
  /-- The targets IN_SERVICE at placement: a write's status is OK by the acknowledgement of one of these (R55 step 2,
  R57, log 9). -/
  inServiceAtPlacement : PortSet
  /-- At most one reason for each port. -/
  reasons  : List (Port × Reason)
  readData : Option LineData
deriving DecidableEq, Repr

/-! ## The region map -/

/-- State of a region entry (R23). -/
inductive RegionState where
  | free | staged | live | retiring
deriving DecidableEq, Repr

/-- Mode of a region (R23). -/
inductive Mode where
  | direct | mirror
deriving DecidableEq, Repr

/-- Read policy of a region (R23). -/
inductive Policy where
  | balance | preferred | alternate
deriving DecidableEq, Repr

/-- Membership states (R61). -/
inductive MState where
  | inService | faulted | detached | rejoining
deriving DecidableEq, Repr

/-- A membership record (R24). The state is absent for a DIRECT member and in a STAGED entry. -/
structure Member where
  port  : Port
  base  : Nat
  state : Option MState
deriving DecidableEq, Repr

/-- A region entry (R23). A FREE entry holds the cleared fields of `Region.cleared`. -/
structure Region where
  state     : RegionState
  base      : Nat
  size      : Nat
  mode      : Mode
  members   : List Member
  policy    : Policy
  preferred : Option Port
  alternate : Option Port
  inFlight  : Nat
deriving DecidableEq, Repr

/-- A FREE entry: no field but its state means anything, and the in-flight count is 0 (R23, R38). -/
def Region.cleared : Region where
  state := .free
  base := 0
  size := 0
  mode := .direct
  members := []
  policy := .balance
  preferred := none
  alternate := none
  inFlight := 0

/-- The boot region (R41). -/
def Region.boot (bootsz : BitVec 2) : Region where
  state := .live
  base := 0
  size := Config.bootGranules bootsz
  mode := .direct
  members := [{ port := 0, base := 0, state := none }]
  policy := .balance
  preferred := none
  alternate := none
  inFlight := 0

/-! ## The memory ports -/

/-- Link states (R78), coded 0 to 5 in this order (R98). -/
inductive Link where
  | off | training | active | drowsy | waking | failed
deriving DecidableEq, Repr

/-- A COPY transaction's part in the copy window (R87, R127, R133). -/
inductive CopyPart where
  | sourceRead | targetWrite | compareRead
deriving DecidableEq, Repr

/-- Origin of a transaction: HOST with the request's tag, or COPY (R87). There is at most one copy window,
so the reference to it is the part alone. -/
inductive Origin where
  | host (tag : Tag)
  | copy (part : CopyPart)
deriving DecidableEq, Repr

/-- A transaction entry of a port queue (R87). PENDING entries have no sent time. -/
structure QEntry where
  slot   : SlotIx
  origin : Origin
  op     : Op
  addr   : DownAddr
  sentAt : Option Nat
deriving DecidableEq, Repr

/-- One memory port (R78). `queue` is in entry order (R88); `held` lists the held slots with the tag of the
entry that holds each (R13, R87); every other slot is free. A timer is stopped, or running since a time. -/
structure PortState where
  link          : Link
  queue         : List QEntry
  held          : List (SlotIx × Tag)
  trainingSince : Option Nat
  wakeSince     : Option Nat
  silenceSince  : Option Nat
  timeoutIx     : Nat
  silence       : Nat
  weight        : Nat
  passOver      : Nat
deriving DecidableEq, Repr

/-- A port that is OFF with its power-on settings (R101). -/
def PortState.powerOff : PortState where
  link := .off
  queue := []
  held := []
  trainingSince := none
  wakeSince := none
  silenceSince := none
  timeoutIx := Config.powerOnTimeoutIx
  silence := 0
  weight := Config.powerOnWeight
  passOver := 0

/-- The outcome a transaction gives its owner (R91). -/
inductive TxnResult where
  | ok (data : Option LineData)
  | error
  | failed (why : Reason)
deriving DecidableEq, Repr

/-- An outcome a port has handed over and its owner has not yet taken (R91). -/
structure Handed where
  port   : Port
  origin : Origin
  result : TxnResult
deriving DecidableEq, Repr

/-! ## Divergence lists and copy engine -/

/-- A run of a divergence list (R103). -/
structure Run where
  region : RegionIx
  first  : Nat
  count  : Nat
deriving DecidableEq, Repr

/-- A compare job's fields (R118). -/
structure CompareJob where
  region     : RegionIx
  first      : Nat
  count      : Nat
  nextExtent : Nat
  nextLine   : Nat
  compared   : Nat
  mismatches : Nat
deriving DecidableEq, Repr

/-- The two kinds of job (R118). -/
inductive JobKind where
  | catchUp (target : Port)
  | compare (c : CompareJob)
deriving DecidableEq, Repr

/-- A record of the job queue (R118). -/
structure Job where
  kind    : JobKind
  started : Bool
deriving DecidableEq, Repr

/-- The job kind a window carries: catch-up with its target, or compare (R121). -/
inductive WindowJob where
  | catchUp (target : Port)
  | compare
deriving DecidableEq, Repr

/-- Phases of the copy window (R121). -/
inductive Phase where
  | claiming | reading | writing | closing
deriving DecidableEq, Repr

/-- A slot claim of the copy engine not yet granted: the transaction already formed (R122). -/
structure Claim where
  port : Port
  part : CopyPart
  op   : Op
  addr : DownAddr
deriving DecidableEq, Repr

/-- The copy window (R121). `source` is the read set of a compare line, and holds the one chosen source of a
catch-up line. `data` holds the line data by port. The window's transactions stand in the port queues. -/
structure Window where
  job       : WindowJob
  region    : RegionIx
  extent    : Nat
  lineNo    : Nat
  addr      : UpAddr
  source    : PortSet
  phase     : Phase
  overtake  : Nat
  cancelled : Bool
  reread    : Bool
  data      : List (Port × LineData)
  claims    : List Claim
deriving DecidableEq, Repr

/-! ## The management port -/

/-- States of the receiver (R144). -/
inductive RxState where
  | hunting | inFrame | escaped
deriving DecidableEq, Repr

/-- The management port (ch. 8). The transmitter works on the oldest reply whenever there is one (R150). -/
structure Mgmt where
  rx      : RxState
  buffer  : List Byte
  key     : Byte
  cache   : Option (Byte × List Byte)
  replies : List (List Byte)
deriving DecidableEq, Repr

/-- The management port's power-on state (R156). -/
def Mgmt.powerOn : Mgmt where
  rx := .hunting
  buffer := []
  key := Config.powerOnKey
  cache := none
  replies := []

/-- The event unit's power-on state (R169). -/
def EventUnit.powerOn : EventUnit where
  queue := []
  next := 0#16
  summary := 0#13
  mask := 0x1FFF#13

/-! ## Outputs -/

/-- What the part puts out: a response record, a transaction sent to a device with its slot number (R99), a
link control action (R100), a reply frame as the levels of MGMT_TX at the line's rate in bit/s (R142, R150). -/
inductive Output where
  | response (r : Response)
  | send (port : Port) (slot : SlotIx) (op : Op) (addr : DownAddr)
  | bringUp (port : Port)
  | powerDown (port : Port)
  | wakeUp (port : Port)
  | shutDown (port : Port)
  | replyFrame (rate : Nat) (levels : List Bool)
deriving DecidableEq, Repr

/-! ## The part -/

/-- Everything the block holds but the queue of waiting commands. `now` (microseconds, log 2) and `trace` (the
outputs so far, oldest first, log 11) are the model's own. -/
structure Part where
  porst      : Bool
  hrst       : Bool
  bootsz     : BitVec 2
  mbaud      : Bool
  now        : Nat
  table      : List Entry
  lineClaim  : Option UpAddr
  regions    : Vector Region 16
  lossClaims : List (Port × Reason)
  ports      : Vector PortState 4
  handed     : List Handed
  lists      : Vector (List Run) 4
  jobs       : List Job
  window     : Option Window
  mgmt       : Mgmt
  events     : EventUnit
  trace      : List Output
deriving DecidableEq, Repr

/-- The part while PORST_N is asserted: everything abandoned, with the pins, the time and the record of outputs
kept (R22, R42, R101, R117, R141, R156, R169; the values nothing can see are log 14's). -/
def Part.abandoned (hrst : Bool) (bootsz : BitVec 2) (mbaud : Bool) (now : Nat) (trace : List Output) : Part where
  porst := true
  hrst := hrst
  bootsz := bootsz
  mbaud := mbaud
  now := now
  table := []
  lineClaim := none
  regions := Vector.replicate 16 Region.cleared
  lossClaims := []
  ports := Vector.replicate 4 PortState.powerOff
  handed := []
  lists := Vector.replicate 4 []
  jobs := []
  window := none
  mgmt := Mgmt.powerOn
  events := EventUnit.powerOn
  trace := trace

/-- The part right after the deassertion of PORST_N: the boot region LIVE, M0 TRAINING with its timer started
and bring-up begun, everything else as abandoned (R41, R42, R101, R156, R169). -/
def Part.powerOn (hrst : Bool) (bootsz : BitVec 2) (mbaud : Bool) (now : Nat) (trace : List Output) : Part :=
  { Part.abandoned hrst bootsz mbaud now (trace ++ [.bringUp 0]) with
    porst := false
    regions := (Vector.replicate 16 Region.cleared).set 0 (Region.boot bootsz)
    ports := (Vector.replicate 4 PortState.powerOff).set 0
      { PortState.powerOff with link := .training, trainingSince := some now } }

/-- The machine's state: the block, and the commands waiting for it, first in first out. -/
structure State where
  part    : Part
  pending : List Instr
deriving DecidableEq, Repr

/-- The machine right after power-on reset with HRST_N deasserted, BOOTSZ 00 and MBAUD low (DESIGN CHOICE for the
three pins, log 3; the rest as R22, R41, R42, R101, R117, R141, R156, R169 say). -/
def State.reset : State where
  part := Part.powerOn false 0#2 false 0 []
  pending := []

/-- No meaning faults: the spec gives every command an effect in every state. -/
inductive Fault where
deriving DecidableEq, Repr

/-- Why a command would have no meaning. -/
inductive Refusal where
  /-- A command of the table whose meaning is not written yet; raised by `exec` alone; safe. No arm raises it. -/
  | notModelled (mnemonic : String)
deriving DecidableEq, Repr

end Sys2Proof.Machine
end

