-- ==== Sys2Proof/Machine/Flags.lean ====
section
/-! DEFINITION. The event unit: posting, the fault summary and FLT_N (ch. 9). -/

namespace Sys2Proof.Machine

/-- The EVENT_LOST bit (R164). -/
def eventLostBit : BitVec 13 := 0x1000#13

/-- The summary flag a kind sets, as a one-bit set (R164); zero for the kinds that set none. -/
def flagBit (b : EventBody) : BitVec 13 :=
  match b.kind with
  | .portLinkFailed | .wakeFailed =>
    match b.port with
    | some q => 1#13 <<< q.val
    | none => 0#13
  | .memberEjected => 1#13 <<< 4
  | .lastReplicaError => 1#13 <<< 5
  | .copyAborted => 1#13 <<< 6
  | .compareMismatch => 1#13 <<< 7
  | .unmappedAccess => 1#13 <<< 8
  | .tagCollision => 1#13 <<< 9
  | .hostReset => 1#13 <<< 10
  | .keyRefused => 1#13 <<< 11
  | .portLinkUp | .memberInService | .readRedirected | .regionLive | .regionRetired
  | .divergenceCoalesced | .copyStarted | .copyDone | .compareDone => 0#13

/-- The event unit takes a post: the record gets the counter's value, the counter advances, the kind's flag is
set, and the record is appended, or dropped with EVENT_LOST set when 32 are held (R160, R161). -/
def postTo (u : EventUnit) (b : EventBody) : EventUnit :=
  if u.queue.length < Config.eventCapacity then
    { u with queue := u.queue ++ [{ seq := u.next, body := b }], next := u.next + 1#16,
             summary := u.summary ||| flagBit b }
  else
    { u with next := u.next + 1#16, summary := u.summary ||| flagBit b ||| eventLostBit }

/-- Post one event (R160). -/
def post (b : EventBody) (p : Part) : Part := { p with events := postTo p.events b }

/-- Post several events in order (R160: "they are taken in the order its rule gives"). -/
def postAll (bs : List EventBody) (p : Part) : Part := bs.foldl (fun p b => post b p) p

/-- FLT_N is asserted (driven low) while a flag is both set and enabled, and released while PORST_N is asserted
(R167, R169). -/
def fltAsserted (p : Part) : Bool := !p.porst && (p.events.summary &&& p.events.mask) != 0#13

/-- A two-byte flag set as STATUS reports it: bits 13 to 15 read as 0 (R164). -/
def flagWord (f : BitVec 13) : BitVec 16 := f.zeroExtend 16

/-- The bits 13 to 15 of a flag set operand are all clear (R165, R166). -/
def flagsReservedClear (f : BitVec 16) : Bool := (f &&& 0xE000#16) == 0#16

/-- The thirteen flags of a flag set operand. -/
def flagsOf (f : BitVec 16) : BitVec 13 := f.truncate 13

end Sys2Proof.Machine
end

