-- ==== Sys2Proof/Machine/Operands.lean ====
section
/-! DEFINITION. How values are coded in bytes: numbers high byte first (R170), sets of ports, and the codes of
states, kinds and statuses (R98, R146, R155, R158, R159, R172, R173, R175). -/

namespace Sys2Proof.Machine

/-- One byte: a number below 256. -/
def byte1 (n : Nat) : Byte := BitVec.ofNat 8 n

/-- Two bytes, high byte first (R170). -/
def be2 (n : Nat) : List Byte := [byte1 (n / 256), byte1 n]

/-- Three bytes, high byte first (R170). -/
def be3 (n : Nat) : List Byte := [byte1 (n / 65536), byte1 (n / 256), byte1 n]

/-- Four bytes, high byte first (R170). -/
def be4 (n : Nat) : List Byte := be2 (n / 65536) ++ be2 n

/-- Five bytes, high byte first: a line address (R170). -/
def be5 (n : Nat) : List Byte := byte1 (n / 4294967296) :: be4 n

/-- Two bytes read high byte first. -/
def word2 (hi lo : Byte) : BitVec 16 := BitVec.ofNat 16 (hi.toNat * 256 + lo.toNat)

/-- Three bytes read high byte first. -/
def word3 (a b c : Byte) : BitVec 24 := BitVec.ofNat 24 ((a.toNat * 256 + b.toNat) * 256 + c.toNat)

/-- 0FFh: absent (R170). -/
def absentByte : Byte := 0xFF#8

/-- A port number, or 0FFh. -/
def portByte : Option Port → Byte
  | some q => byte1 q.val
  | none => absentByte

/-- A region index, or 0FFh. -/
def regionByte : Option RegionIx → Byte
  | some r => byte1 r.val
  | none => absentByte

/-- A flag as a byte, 0 or 1. -/
def boolByte (b : Bool) : Byte := if b then 1#8 else 0#8

/-- The port a payload byte names: 0 to 3. -/
def portOf (b : Byte) : Option Port := if h : b.toNat < 4 then some ⟨b.toNat, h⟩ else none

/-- The region a payload byte names: 0 to 15. -/
def regionOf (b : Byte) : Option RegionIx := if h : b.toNat < 16 then some ⟨b.toNat, h⟩ else none

/-- Link states as PORT_READ and STATUS code them (R98). -/
def linkCode : Link → Nat
  | .off => 0
  | .training => 1
  | .active => 2
  | .drowsy => 3
  | .waking => 4
  | .failed => 5

/-- Entry states of the region record, offset 20 (R172). -/
def regionStateCode : RegionState → Nat
  | .free => 0
  | .staged => 1
  | .live => 2
  | .retiring => 3

/-- Mode byte, offset 1 of R172. -/
def modeCode : Mode → Nat
  | .direct => 0
  | .mirror => 1

/-- Read policy byte, offset 6 of R172. -/
def policyCode : Policy → Nat
  | .balance => 0
  | .preferred => 1
  | .alternate => 2

/-- Membership state codes (R172). -/
def mstateCode : MState → Nat
  | .inService => 0
  | .faulted => 1
  | .detached => 2
  | .rejoining => 3

/-- The mode a staging byte names (R172). -/
def modeOf (b : Byte) : Option Mode :=
  if b = 0#8 then some .direct else if b = 1#8 then some .mirror else none

/-- The read policy a staging byte names (R172). -/
def policyOf (b : Byte) : Option Policy :=
  if b = 0#8 then some .balance else if b = 1#8 then some .preferred
  else if b = 2#8 then some .alternate else none

/-- Phase codes of JOB_READ, 0 for an absent window (R138). -/
def phaseCode : Option Phase → Nat
  | none => 0
  | some .claiming => 1
  | some .reading => 2
  | some .writing => 3
  | some .closing => 4

/-- Reason codes (R158). -/
def reasonCode : Reason → Nat
  | .media => 1
  | .timeout => 2
  | .link => 3
  | .training => 4
  | .source => 5
  | .target => 6

/-- Event kind codes (R159). -/
def eventCode : EventKind → Nat
  | .portLinkUp => 0x01
  | .portLinkFailed => 0x02
  | .wakeFailed => 0x03
  | .memberEjected => 0x10
  | .memberInService => 0x11
  | .lastReplicaError => 0x12
  | .readRedirected => 0x20
  | .unmappedAccess => 0x21
  | .tagCollision => 0x22
  | .hostReset => 0x23
  | .regionLive => 0x30
  | .regionRetired => 0x31
  | .divergenceCoalesced => 0x38
  | .copyStarted => 0x40
  | .copyDone => 0x41
  | .copyAborted => 0x42
  | .compareMismatch => 0x48
  | .compareDone => 0x49
  | .keyRefused => 0x50

/-- Reply statuses (R146). -/
inductive Status where
  | ok | lengthShort | lengthLong | badCommand | badLength | badValue | badState | overlap | lastReplica | queueFull
deriving DecidableEq, Repr

/-- Status values (R146). -/
def statusCode : Status → Nat
  | .ok => 0
  | .lengthShort => 1
  | .lengthLong => 2
  | .badCommand => 3
  | .badLength => 4
  | .badValue => 5
  | .badState => 6
  | .overlap => 7
  | .lastReplica => 8
  | .queueFull => 9

/-- The twelve bytes of an event record (R175). -/
def eventBytes (r : EventRec) : List Byte :=
  be2 r.seq.toNat ++ [byte1 (eventCode r.body.kind), portByte r.body.port, regionByte r.body.region] ++
  match r.body.addr with
  | .line a => [0x01#8, byte1 r.body.detail] ++ be5 a.toNat
  | .extent n => [0x02#8] ++ be3 r.body.detail ++ be3 n
  | .absent => [0x00#8] ++ be2 r.body.detail ++ be4 r.body.second

/-- The seven bytes of a run (R174). -/
def runBytes (r : Run) : List Byte := byte1 r.region.val :: (be3 r.first ++ be3 r.count)

end Sys2Proof.Machine
end

