-- ==== Sys2Proof/Machine/Ops.lean ====
section
/-! DEFINITION. The named operations over the collections of the part: sets of ports, the four ports and their
queues, the sixteen regions and their memberships, the request table, outcomes handed over, outputs. -/

namespace Sys2Proof.Machine

/-! ## Sets of ports -/

/-- Every port, in ascending port order. -/
def allPorts : List Port := [0, 1, 2, 3]

/-- Every region, in ascending order. -/
def allRegions : List RegionIx := [0, 1, 2, 3, 4, 5, 6, 7, 8, 9, 10, 11, 12, 13, 14, 15]

/-- Whether a set holds a port. -/
def hasPort (s : PortSet) (q : Port) : Bool := s.getLsbD q.val

/-- The set of one port. -/
def onePort (q : Port) : PortSet := 1#4 <<< q.val

/-- A set with a port added. -/
def addPort (s : PortSet) (q : Port) : PortSet := s ||| onePort q

/-- A set with a port taken out. -/
def dropPort (s : PortSet) (q : Port) : PortSet := s &&& ~~~(onePort q)

/-- The ports of a set in ascending order. -/
def portsOf (s : PortSet) : List Port := allPorts.filter (hasPort s)

/-- The set of the ports that satisfy a test. -/
def portSetOf (f : Port → Bool) : PortSet := allPorts.foldl (fun s q => if f q then addPort s q else s) 0#4

/-- Every port of the first set is in the second. -/
def portSubset (s t : PortSet) : Bool := (s &&& ~~~t) == 0#4

/-! ## Accessors -/

def Part.port (p : Part) (q : Port) : PortState := p.ports[q]
def Part.setPort (p : Part) (q : Port) (x : PortState) : Part := { p with ports := p.ports.set q x }
def Part.region (p : Part) (r : RegionIx) : Region := p.regions[r]
def Part.setRegion (p : Part) (r : RegionIx) (x : Region) : Part := { p with regions := p.regions.set r x }
def Part.divList (p : Part) (q : Port) : List Run := p.lists[q]
def Part.setDivList (p : Part) (q : Port) (l : List Run) : Part := { p with lists := p.lists.set q l }
def Part.out (p : Part) (o : Output) : Part := { p with trace := p.trace ++ [o] }
def Part.setTable (p : Part) (t : List Entry) : Part := { p with table := t }
def Part.setWindow (p : Part) (w : Option Window) : Part := { p with window := w }

/-- UP_READY: both reset inputs deasserted and no ORPHANED entry (R2). -/
def upReady (p : Part) : Bool :=
  !p.porst && !p.hrst && p.table.all (fun e => e.state != .orphaned)

/-! ## Ports and queues -/

/-- FAILED or OFF: a port that cannot be chosen and grants nothing (R43, R94). -/
def linkDown (l : Link) : Bool := l == .failed || l == .off

def portDown (p : Part) (q : Port) : Bool := linkDown (p.port q).link

/-- A port's occupancy: its slots that are not free (R43, R78). -/
def occupancy (x : PortState) : Nat := x.queue.length + x.held.length

/-- Whether a slot is free: neither held nor holding a transaction (R87). -/
def slotFree (x : PortState) (k : SlotIx) : Bool :=
  x.queue.all (fun t => t.slot != k) && x.held.all (fun h => h.1 != k)

/-- Whether the port has a free slot: "Occupancy and free slots always add up to 16" (R87). -/
def hasFreeSlot (x : PortState) : Bool := occupancy x < Config.slotCount

/-- Restart the silence timer: it runs while the link is ACTIVE, the setting is not OFF and the occupancy is 0
(R82). -/
def restartSilence (now : Nat) (x : PortState) : PortState :=
  { x with silenceSince :=
      if x.link == .active && x.silence != 0 && occupancy x == 0 then some now else none }

/-- A transaction enters the port queue in a slot, at the end of the entry order; it is sent at once when the link
is ACTIVE (R87, R88, R99). -/
def placeTxn (q : Port) (k : SlotIx) (o : Origin) (op : Op) (addr : DownAddr) (p : Part) : Part :=
  let x := p.port q
  let sends := x.link == .active
  let t : QEntry := { slot := k, origin := o, op := op, addr := addr, sentAt := if sends then some p.now else none }
  let p := p.setPort q { x with queue := x.queue ++ [t], held := x.held.filter (fun h => h.1 != k),
                                silenceSince := none }
  if sends then p.out (.send q k op addr) else p

/-- Held slots of a tag go back to a port's arbiter (R13). -/
def releaseHeldAt (tag : Tag) (p : Part) (q : Port) : Part :=
  let x := p.port q
  if x.held.any (fun h => h.2 == tag) then
    p.setPort q (restartSilence p.now { x with held := x.held.filter (fun h => h.2 != tag) })
  else p

/-- Every slot a tag holds goes back (R18). -/
def releaseHeld (tag : Tag) (p : Part) : Part := allPorts.foldl (releaseHeldAt tag) p

/-- The slot of a port that an entry holds, if any (R13). -/
def heldSlot (p : Part) (tag : Tag) (q : Port) : Option SlotIx :=
  ((p.port q).held.find? (fun h => h.2 == tag)).map (·.1)

/-- An entry's held set (R4). -/
def heldSet (p : Part) (tag : Tag) : PortSet := portSetOf (fun q => (heldSlot p tag q).isSome)

/-- At entry into ACTIVE every PENDING entry is sent, in entry order (R81). -/
def sendPending (q : Port) (p : Part) : Part :=
  let x := p.port q
  let sends := (x.queue.filter (fun t => t.sentAt.isNone)).map (fun t => Output.send q t.slot t.op t.addr)
  let queue := x.queue.map (fun t => if t.sentAt.isNone then { t with sentAt := some p.now } else t)
  { p.setPort q { x with queue := queue } with trace := p.trace ++ sends }

/-- The link enters ACTIVE: the timers of bring-up stop, PENDING entries are sent, and the silence timer is
restarted, which leaves it stopped while a slot is taken (R80, R81, R82, R83). -/
def enterActive (q : Port) (p : Part) : Part :=
  let p := p.setPort q { p.port q with link := .active, trainingSince := none, wakeSince := none }
  let p := sendPending q p
  p.setPort q (restartSilence p.now (p.port q))

/-- The oldest SENT entry of a port: the earliest in entry order (R92). -/
def oldestSent (x : PortState) : Option QEntry := x.queue.find? (fun t => t.sentAt.isSome)

/-- The response timeout of a setting index in microseconds; none for index 0 (R92). -/
def timeoutMicros (ix : Nat) : Option Nat :=
  match ix with
  | 1 => some 20
  | 2 => some 160
  | 3 => some 1300
  | 4 => some 10000
  | 5 => some 80000
  | _ => none

/-- The silence time of a setting in microseconds; none for OFF (R82). -/
def silenceMicros (setting : Nat) : Option Nat :=
  match setting with
  | 1 => some 1000
  | 2 => some 10000
  | 3 => some 100000
  | 4 => some 1000000
  | _ => none

/-- Time stands at least at a deadline (log 2). -/
def reachTime (t : Nat) (p : Part) : Part := { p with now := max p.now t }

/-! ## Outcomes handed over -/

/-- Take the first element that satisfies a test out of a list. -/
def takeFirst {α : Type} (f : α → Bool) : List α → Option (α × List α)
  | [] => none
  | x :: xs =>
    if f x then some (x, xs)
    else match takeFirst f xs with
      | some (y, ys) => some (y, x :: ys)
      | none => none

def isHost : Origin → Bool
  | .host _ => true
  | .copy _ => false

/-- The part in the copy window of an outstanding COPY transaction or outcome. -/
def isCopy (o : Origin) : Bool := !isHost o

/-- The window's transactions that have not given the engine their outcome: in port queues, or handed over and not
yet taken (R121, R123, log 8). -/
def copyInFlight (p : Part) : Nat :=
  (allPorts.map (fun q => (p.port q).queue.countP (fun t => isCopy t.origin))).sum +
  p.handed.countP (fun h => isCopy h.origin)

/-! ## Regions and memberships -/

/-- LIVE or RETIRING (R25, R61). -/
def inUse (r : Region) : Bool := r.state == .live || r.state == .retiring

/-- The membership of a region at a port. -/
def memberAt (r : Region) (q : Port) : Option Member := r.members.find? (fun m => m.port == q)

/-- The membership state of a region at a port, if it has one (R61). -/
def mstate (p : Part) (r : RegionIx) (q : Port) : Option MState :=
  let x := p.region r
  if inUse x then (memberAt x q).bind (·.state) else none

/-- Set the membership state of a region at a port. -/
def setMState (r : RegionIx) (q : Port) (st : MState) (p : Part) : Part :=
  let x := p.region r
  p.setRegion r { x with members := x.members.map (fun m => if m.port == q then { m with state := some st } else m) }

/-- The ports of a region's members, ascending. -/
def memberPorts (r : Region) : List Port := allPorts.filter (fun q => (memberAt r q).isSome)

/-- Another membership of the region is IN_SERVICE. -/
def otherInService (p : Part) (r : RegionIx) (q : Port) : Bool :=
  allPorts.any (fun q' => q' != q && mstate p r q' == some .inService)

/-- The last replica: IN_SERVICE, with no other membership of the region IN_SERVICE (R65). -/
def isLastReplica (p : Part) (r : RegionIx) (q : Port) : Bool :=
  mstate p r q == some .inService && !otherInService p r q

/-- Whether a LIVE or RETIRING region covers an upstream address (R23, R25). -/
def regionCovers (r : Region) (a : UpAddr) : Bool :=
  inUse r && r.base * Config.granuleBytes ≤ a.toNat && a.toNat < (r.base + r.size) * Config.granuleBytes

/-- Region lookup (R25). -/
def lookupRegion (p : Part) (a : UpAddr) : Option RegionIx :=
  allRegions.find? (fun r => regionCovers (p.region r) a)

/-- A line's offset from its region's base (R26). -/
def lineOffset (r : Region) (a : UpAddr) : Nat := a.toNat - r.base * Config.granuleBytes

/-- The extent number of a line (R26). -/
def extentOf (r : Region) (a : UpAddr) : Nat := lineOffset r a / Config.extentBytes

/-- Line k of extent e of a region, as an upstream address (R26). -/
def lineAddr (r : Region) (e k : Nat) : UpAddr :=
  BitVec.ofNat 40 (r.base * Config.granuleBytes + e * Config.extentBytes + k * Config.lineBytes)

/-- The downstream base of a membership in granules; every port the part uses is a member's (log 18). -/
def memberBase (r : Region) (q : Port) : Nat := ((memberAt r q).map (·.base)).getD 0

/-- The downstream address of a line at a membership (R26). -/
def downAddr (r : Region) (q : Port) (a : UpAddr) : DownAddr :=
  BitVec.ofNat 38 (memberBase r q * Config.granuleBytes + lineOffset r a)

/-- The number of extents of a region. -/
def extentCount (r : Region) : Nat := r.size * Config.extentsPerGranule

/-! ## The request table -/

def findEntry (p : Part) (tag : Tag) : Option Entry := p.table.find? (fun e => e.tag == tag)

/-- Change the entry of a tag. -/
def updateEntry (tag : Tag) (f : Entry → Entry) (p : Part) : Part :=
  p.setTable (p.table.map (fun e => if e.tag == tag then f e else e))

/-- Take the entry of a tag out of the table. The others keep their order (R5). -/
def removeEntry (tag : Tag) (p : Part) : Part := p.setTable (p.table.filter (fun e => e.tag != tag))

/-- The entry waits on the port: WAITING_SLOT, the port in its target set and not in its held set (R12). -/
def waitsOn (p : Part) (e : Entry) (q : Port) : Bool :=
  e.state == .waitingSlot && hasPort e.target q && (heldSlot p e.tag q).isNone

/-- The entry the dispatcher presents at a port: the earliest admitted of those that wait on it (R12). -/
def presented (p : Part) (q : Port) : Option Entry := p.table.find? (fun e => waitsOn p e q)

/-- Record a reason for a port, at most one for each. -/
def withReason (q : Port) (why : Reason) (l : List (Port × Reason)) : List (Port × Reason) :=
  l.filter (fun x => x.1 != q) ++ [(q, why)]

/-- Record a failure at a port in an entry (R16). -/
def recordFail (q : Port) (why : Reason) (e : Entry) : Entry :=
  { e with fail := addPort e.fail q, reasons := withReason q why e.reasons }

/-- The region of an entry is a MIRROR region. -/
def isMirrorEntry (p : Part) (e : Entry) : Bool := (p.region e.region).mode == .mirror

/-- The in-flight count of a region rises by one (R8). -/
def raiseInFlight (r : RegionIx) (p : Part) : Part :=
  p.setRegion r { p.region r with inFlight := (p.region r).inFlight + 1 }

/-- The in-flight count of a region falls by one (R27). -/
def lowerInFlight (r : RegionIx) (p : Part) : Part :=
  p.setRegion r { p.region r with inFlight := (p.region r).inFlight - 1 }

/-! ## Commands -/

/-- A command's effect on the part: none while PORST_N is asserted (R22, R156, R169), and never on the queue of
waiting commands. -/
def onPart (f : Part → Part) (s : State) : Host.Outcome State Fault Refusal :=
  .next { s with part := if s.part.porst then s.part else f s.part }

end Sys2Proof.Machine
end

