-- ==== Sys2Proof/Machine/Divergence.lean ====
section
/-! DEFINITION. The divergence store: insertion, merging, coalescing, removal, purge and selection of runs
(ch. 6, R124). -/

namespace Sys2Proof.Machine

/-- One past the last extent of a run. -/
def Run.stop (r : Run) : Nat := r.first + r.count

/-- List order: by region index, then by first extent (R103). -/
def runBefore (a b : Run) : Bool := a.region < b.region || (a.region == b.region && a.first < b.first)

/-- One run covers every extent of the range (R106 case 1). -/
def runCovers (r x : Run) : Bool := r.region == x.region && r.first ≤ x.first && x.stop ≤ r.stop

/-- The run overlaps or touches the range (R106 case 2). -/
def runMeets (r x : Run) : Bool := r.region == x.region && r.first ≤ x.stop && x.first ≤ r.stop

/-- The smallest run that holds both (R107). -/
def runJoin (a b : Run) : Run :=
  let first := min a.first b.first
  { region := a.region, first := first, count := max a.stop b.stop - first }

/-- Put a run at its position in the list order (R103, R107, R108). -/
def placeRun (x : Run) : List Run → List Run
  | [] => [x]
  | r :: rs => if runBefore x r then x :: r :: rs else r :: placeRun x rs

/-- Replace the range and every run that meets it by one run (R107). -/
def mergeRun (x : Run) (l : List Run) : List Run :=
  placeRun ((l.filter (fun r => runMeets r x)).foldl runJoin x) (l.filter (fun r => !runMeets r x))

/-- The number of extents between two consecutive runs (R109). -/
def runGap (a b : Run) : Nat := b.first - a.first - a.count

/-- Of two candidate pairs the one the three keys of R109 choose: smallest gap, then lowest region, then lowest
first extent of A. -/
def pairBefore (x y : Run × Run) : Bool :=
  let gx := runGap x.1 x.2
  let gy := runGap y.1 y.2
  gx < gy || (gx == gy && (x.1.region < y.1.region || (x.1.region == y.1.region && x.1.first < y.1.first)))

/-- The pairs of runs of one region that are consecutive in list order (R109). -/
def candidatePairs : List Run → List (Run × Run)
  | [] => []
  | [_] => []
  | a :: b :: rest =>
    if a.region == b.region then (a, b) :: candidatePairs (b :: rest) else candidatePairs (b :: rest)

/-- The pair to join (R109). -/
def bestPair (l : List Run) : Option (Run × Run) :=
  (candidatePairs l).foldl (fun best x =>
    match best with
    | none => some x
    | some y => if pairBefore x y then some x else some y) none

/-- Replace A by the joined run and take B out (R109). -/
def joinPair (a b : Run) (l : List Run) : List Run :=
  (l.filter (fun r => r != b)).map (fun r =>
    if r == a then { region := a.region, first := a.first, count := b.stop - a.first } else r)

/-- Coalesce a port's list once and post DIVERGENCE_COALESCED (R109, R110). -/
def coalesce (q : Port) (p : Part) : Part :=
  match bestPair (p.divList q) with
  | some (a, b) =>
    post { kind := .divergenceCoalesced, port := some q, region := some a.region, detail := runGap a b,
           addr := .extent a.stop }
      (p.setDivList q (joinPair a b (p.divList q)))
  | none => p

/-- Put the range into a list that is not full, or that needs no new run: covered, merged or placed (R106). -/
def insertOpen (x : Run) (l : List Run) : List Run :=
  if l.any (fun r => runCovers r x) then l
  else if l.any (fun r => runMeets r x) then mergeRun x l
  else placeRun x l

/-- An insertion request, complete within the event. A new run at a full list coalesces once first, and the range is
then compared with the list again (R106, R108). -/
def insertRun (q : Port) (x : Run) (p : Part) : Part :=
  let l := p.divList q
  if l.any (fun r => runMeets r x) || l.length < Config.runCapacity then p.setDivList q (insertOpen x l)
  else
    let p := coalesce q p
    p.setDivList q (insertOpen x (p.divList q))

/-- Insert the extent of a line of a region (R106, one extent). -/
def insertLine (r : RegionIx) (q : Port) (a : UpAddr) (p : Part) : Part :=
  insertRun q { region := r, first := extentOf (p.region r) a, count := 1 } p

/-- Insert a whole region (R106, R33). -/
def insertRegion (r : RegionIx) (q : Port) (p : Part) : Part :=
  insertRun q { region := r, first := 0, count := extentCount (p.region r) } p

/-- Extent removal: it takes the first extent of a run of the named region, and changes nothing else (R112). -/
def removeFromList (r : RegionIx) (e : Nat) : List Run → List Run
  | [] => []
  | x :: xs =>
    if x.region == r && x.first == e then
      if x.count ≤ 1 then xs else { x with first := x.first + 1, count := x.count - 1 } :: xs
    else x :: removeFromList r e xs

/-- The store acts on an extent removal request (R112). -/
def removeExtent (q : Port) (r : RegionIx) (e : Nat) (p : Part) : Part :=
  p.setDivList q (removeFromList r e (p.divList q))

/-- Take every run of a region out of a port's list. -/
def purgeAt (r : RegionIx) (p : Part) (q : Port) : Part :=
  p.setDivList q ((p.divList q).filter (fun x => x.region != r))

/-- Purge a region from the four lists (R115). -/
def purgeRegion (r : RegionIx) (p : Part) : Part := allPorts.foldl (purgeAt r) p

/-- The list of a port holds a run of the region. -/
def hasRunOf (p : Part) (q : Port) (r : RegionIx) : Bool := (p.divList q).any (fun x => x.region == r)

/-- A selection: the first run, in list order, whose region is LIVE with its membership on the port REJOINING
(R124). -/
def selectRun (p : Part) (q : Port) : Option Run :=
  (p.divList q).find? (fun x => (p.region x.region).state == .live && mstate p x.region q == some .rejoining)

end Sys2Proof.Machine
end

