-- ==== Sys2Proof/Machine/Tasks.lean ====
section
/-! DEFINITION. The works that one event of the part can set off inside itself. A block's rule does its own part and names
what follows in the same event; what follows stands on a list, worked from the front, the followers of a work before the
works behind it (Machine/Agenda.lean). So "in this order" of a rule is the order of a list; where no rule gives an order,
the list's is the model's choice (log 28). Three works are turns of the dispatcher at single entries: they come when no
other work of the event is left, one entry at a time, in admission order (R43, R52, log 13). -/

namespace Sys2Proof.Machine

/-- A work still to be done within the present event. -/
inductive Task where
  /-- A turn: R9 for a line, at an admission, after a freeing, and at the release of the line claim; the entry that leaves
  WAITING_LINE makes its target choice (R8, R10, R11, R17, R20). -/
  | leave (line : UpAddr)
  /-- One member of a MIRROR write's first choice, examined for an immediate failure (R53). -/
  | immediateFailure (tag : Tag) (q : Port)
  /-- The target set of a MIRROR write after the immediate failures (R53). -/
  | fixTargets (tag : Tag)
  /-- An entry waits on the port: the give-back of R13. -/
  | giveBack (q : Port)
  /-- A turn: the dispatcher ends the wait of the earliest entry at a lost port, and has the next one follow (R52). -/
  | serveLost
  /-- A turn: a failed MIRROR read makes its new choice (R51 step 3). -/
  | redirect (tag : Tag) (q : Port) (why : Reason)
  /-- What follows the loss of a target of a waiting MIRROR write (R54). -/
  | afterShrink (tag : Tag)
  /-- What follows the report of a failed MIRROR write transaction (R57). -/
  | afterWriteFailure (tag : Tag) (q : Port)
  /-- A failure report to the membership machine, with the abandonment of the port's job for TARGET (R63, R66). -/
  | report (r : RegionIx) (q : Port) (why : Reason) (line : Option UpAddr)
  /-- The drain check of R37. -/
  | drainCheck (r : RegionIx)
  /-- The head starts if R119 allows. -/
  | headStart
  /-- A selection of a catch-up job (R124). -/
  | selection (q : Port)
  /-- The source of a catch-up line (R126). -/
  | chooseSource (q : Port)
  /-- A catch-up line is done (R128). -/
  | lineDone (q : Port)
  /-- After the report of a failed source read (R129). -/
  | afterSourceFailure (target src : Port)
  /-- A line start of a compare job (R133). -/
  | compareStart
  /-- After the report of a failed compare read (R134). -/
  | afterCompareFailure
  /-- After an outcome of a CLOSING window (R123). -/
  | closeCheck
  /-- The copy engine ends its wait at a lost port (R85, R122). -/
  | claimLost (q : Port)
  /-- A failed COPY transaction, or a claim ended by link loss (R129, R134). -/
  | copyFailed (part : CopyPart) (q : Port) (why : Reason)
  /-- A write notice (R56, R131). -/
  | notice (line : UpAddr) (full : Bool)
  /-- A post that has its place after other works of the event. -/
  | posting (b : EventBody)
deriving DecidableEq, Repr

/-- A part with the works that follow in the same event. -/
abbrev Act := Part × List Task

end Sys2Proof.Machine
end

