-- ==== Sys2Proof/Machine/Membership.lean ====
section
/-! DEFINITION. The membership machine: failure reports, link loss, and the changes that job outcomes and commands
make to membership states (ch. 4). -/

namespace Sys2Proof.Machine

/-- A membership enters FAULTED from IN_SERVICE or REJOINING: MEMBER_EJECTED (R75). -/
def ejectMember (r : RegionIx) (q : Port) (why : Reason) (p : Part) : Part :=
  post { kind := .memberEjected, port := some q, region := some r, detail := reasonCode why }
    (setMState r q .faulted p)

/-- LAST_REPLICA_ERROR with the reason and the line, if the claim has one (R65, R75). -/
def postLastReplica (r : RegionIx) (q : Port) (why : Reason) (line : Option UpAddr) (p : Part) : Part :=
  post { kind := .lastReplicaError, port := some q, region := some r, detail := reasonCode why,
         addr := match line with | some a => .line a | none => .absent } p

/-- The port has a REJOINING membership. -/
def hasRejoining (p : Part) (q : Port) : Bool := allRegions.any (fun r => mstate p r q == some .rejoining)

/-- Every REJOINING membership of the port becomes FAULTED, in ascending region order (R66, R74). -/
def takeOutRejoining (q : Port) (why : Reason) (p : Part) : Part :=
  allRegions.foldl (fun p r => if mstate p r q == some .rejoining then ejectMember r q why p else p) p

/-- What a failure report does to the memberships (R64, R65, R66, R67). At a REJOINING one the catch-up job of the port
is abandoned too (`taskReport`). -/
def takeReport (r : RegionIx) (q : Port) (why : Reason) (line : Option UpAddr) (p : Part) : Part :=
  match mstate p r q with
  | some .inService => if otherInService p r q then ejectMember r q why p else postLastReplica r q why line p
  | some .rejoining => takeOutRejoining q why p
  | some .faulted => p
  | some .detached => p
  | none => p

/-- What a link-loss claim does to one region's membership on the port (R68). -/
def linkLossAt (q : Port) (why : Reason) (p : Part) (r : RegionIx) : Part :=
  match mstate p r q with
  | some .inService =>
    if otherInService p r q then ejectMember r q why p else postLastReplica r q why none p
  | some .rejoining => ejectMember r q why p
  | some .faulted => p
  | some .detached => p
  | none => p

/-- What a link-loss claim does to the memberships: every one on the port, in ascending region order (R68). -/
def takeLinkLoss (q : Port) (why : Reason) (p : Part) : Part := allRegions.foldl (linkLossAt q why) p

/-- A catch-up completion claim at one region: IN_SERVICE when its port's list holds no run of the region, DETACHED
otherwise (R73). -/
def completeAt (q : Port) (p : Part) (r : RegionIx) : Part :=
  if mstate p r q == some .rejoining then
    if hasRunOf p q r then setMState r q .detached p
    else post { kind := .memberInService, port := some q, region := some r } (setMState r q .inService p)
  else p

/-- A catch-up completion claim (R73). -/
def takeCompletion (q : Port) (p : Part) : Part := allRegions.foldl (completeAt q) p

/-- An IN_SERVICE membership on the port is the last replica of its region (R70, R86). -/
def holdsLastReplica (p : Part) (q : Port) : Bool := allRegions.any (fun r => isLastReplica p r q)

/-- DETACH at one region (R70 step 1). -/
def detachAt (q : Port) (p : Part) (r : RegionIx) : Part :=
  if mstate p r q == some .inService || mstate p r q == some .rejoining then setMState r q .detached p else p

/-- A waiting MIRROR write adds a port whose membership has entered REJOINING to its targets (R54). The mark of a failure
there before placement goes from the fail set, with its reason, since the port owes an outcome again; the counted set is
kept until the entry is freed (R56; DEDUCED, log 9). -/
def addTarget (r : RegionIx) (q : Port) (e : Entry) : Entry :=
  if e.state == .waitingSlot && e.kind == .write && e.region == r && !hasPort e.target q then
    { e with target := addPort e.target q, fail := dropPort e.fail q,
             reasons := e.reasons.filter (fun x => x.1 != q) }
  else e

/-- REJOIN at one region (R71 step 1, R54). -/
def rejoinAt (q : Port) (p : Part) (r : RegionIx) : Part :=
  if mstate p r q == some .faulted || mstate p r q == some .detached then
    let p := setMState r q .rejoining p
    p.setTable (p.table.map (addTarget r q))
  else p

/-- The port has a FAULTED or DETACHED membership (R71 check 2). -/
def hasOutOfService (p : Part) (q : Port) : Bool :=
  allRegions.any (fun r => mstate p r q == some .faulted || mstate p r q == some .detached)

end Sys2Proof.Machine
end

