-- ==== Sys2Proof/Machine/Routing.lean ====
section
/-! DEFINITION. Read routing and write fan-out: target choice, redirection, placement, outcomes and statuses
(ch. 1.4 to 1.6, ch. 3). -/

namespace Sys2Proof.Machine

/-! ## Choosing one port -/

/-- Link tiers of the BALANCE rule (R47 key 1). -/
def linkTier : Link → Nat
  | .active => 0
  | .drowsy => 1
  | .waking => 1
  | .training => 2
  | .failed => 3
  | .off => 3

/-- The first port comes before the second by the three keys of R47. -/
def balanceBefore (p : Part) (a b : Port) : Bool :=
  let ta := linkTier (p.port a).link
  let tb := linkTier (p.port b).link
  let oa := occupancy (p.port a)
  let ob := occupancy (p.port b)
  ta < tb || (ta == tb && (oa < ob || (oa == ob && a < b)))

/-- The BALANCE rule over a set of candidates (R47). -/
def balance (p : Part) (candidates : List Port) : Option Port :=
  candidates.foldl (fun best q =>
    match best with
    | none => some q
    | some b => if balanceBefore p q b then some q else some b) none

/-- The ports eligible for a MIRROR read (R46). -/
def eligiblePorts (p : Part) (e : Entry) : List Port :=
  allPorts.filter (fun q => mstate p e.region q == some .inService && !hasPort e.tried q && !portDown p q)

/-- The order in which ALTERNATE examines the ports: from the one after the pointer round to the pointer itself, from
port 0 when it is absent (R49). -/
def alternateOrder : Option Port → List Port
  | none => allPorts
  | some q => [q + 1, q + 2, q + 3, q]

/-- The read policy picks one of the eligible ports (R46 to R49). -/
def policyChoice (p : Part) (r : Region) (eligible : List Port) : Option Port :=
  match r.policy with
  | .balance => balance p eligible
  | .preferred =>
    match r.preferred with
    | some q => if eligible.contains q then some q else balance p eligible
    | none => balance p eligible
  | .alternate => (alternateOrder r.alternate).find? (fun q => eligible.contains q)

/-- A MIRROR read chooses: the port, and the part with the alternate pointer moved if the policy is ALTERNATE
(R46, R49, R28). -/
def chooseRead (p : Part) (e : Entry) : Option (Port × Part) :=
  let r := p.region e.region
  match policyChoice p r (eligiblePorts p e) with
  | none => none
  | some q =>
    some (q, if r.policy == .alternate then p.setRegion e.region { r with alternate := some q } else p)

/-! ## Freeing an entry -/

/-- An entry is removed and its region's in-flight count falls; the drain check and R9 follow (R17, R20, R27). -/
def freeEntry (e : Entry) (p : Part) : Act :=
  (lowerInFlight e.region (removeEntry e.tag p), [.drainCheck e.region, .leave e.line])

/-- Completing an entry: the response, with the read data for a READ with OK, then the freeing (R3, R17). -/
def completeEntry (e : Entry) (status : RespStatus) (p : Part) : Act :=
  let data := if e.kind == .read && status == .ok then e.readData else none
  freeEntry e (p.out (.response { tag := e.tag, status := status, data := data }))

/-- A finished entry is completed when ISSUED, and freed without a response when ORPHANED (R16, R20). -/
def finishEntry (e : Entry) (status : RespStatus) (p : Part) : Act :=
  if e.state == .orphaned then freeEntry e p else completeEntry e status p

/-- The status a single failure gives: MEDIA for MEDIA, PORT_DOWN for TIMEOUT and LINK (R45, R46). -/
def failureStatus (why : Reason) : RespStatus := if why == .media then .media else .portDown

/-- The status of a MIRROR write, judged on its counted set (R57). An acknowledgement from a copy that was not IN_SERVICE at
placement never makes it OK. -/
def writeStatus (e : Entry) : RespStatus :=
  if (e.counted &&& e.ack &&& e.inServiceAtPlacement) != 0#4 then .ok
  else if e.reasons.any (fun x => hasPort e.counted x.1 && hasPort e.fail x.1 && x.2 == .media) then .media
  else .portDown

/-! ## Leaving WAITING_LINE and first choice -/

/-- Both conditions of R9: no earlier live entry for the line, and no line claim on it. -/
def mayLeave (p : Part) (e : Entry) : Bool :=
  e.state == .waitingLine &&
  ((p.table.find? (fun x => x.line == e.line)).map (·.tag)) == some e.tag &&
  p.lineClaim != some e.line

/-- The entry waits, or holds a slot, at a port whose link is FAILED or OFF (R52). -/
def isLost (p : Part) (e : Entry) : Bool :=
  e.state == .waitingSlot && (portsOf e.target).any (portDown p)

/-- The entry that R9 lets leave WAITING_LINE for a line; there is at most one. -/
def leavesLine (p : Part) (line : UpAddr) (e : Entry) : Bool := e.line == line && mayLeave p e

/-- The entry enters WAITING_SLOT with a target set and an empty held set; a READ's port joins its tried set
(R11). -/
def enterWaitingSlot (e : Entry) (targets : PortSet) (p : Part) : Act :=
  (updateEntry e.tag (fun x => { x with state := .waitingSlot, target := targets,
                                        tried := if x.kind == .read then x.tried ||| targets else x.tried }) p,
   (portsOf targets).map .giveBack)

/-- Target choice of a DIRECT request (R44). -/
def chooseDirect (e : Entry) (p : Part) : Act :=
  match (p.region e.region).members with
  | m :: _ =>
    if portDown p m.port then completeEntry e .portDown p else enterWaitingSlot e (onePort m.port) p
  | [] => completeEntry e .portDown p

/-- First target choice (R11, R43). -/
def chooseFirst (e : Entry) (p : Part) : Act :=
  if !isMirrorEntry p e then chooseDirect e p
  else match e.kind with
    | .read =>
      match chooseRead p e with
      | some (q, p) => enterWaitingSlot e (onePort q) p
      | none => completeEntry e .portDown p
    | .write => (p, (memberPorts (p.region e.region)).map (.immediateFailure e.tag) ++ [.fixTargets e.tag])

/-- R9 for a line: the entry that may leave WAITING_LINE does, with its first target choice (R9, R11). -/
def taskLeave (line : UpAddr) (p : Part) : Act :=
  match p.table.find? (leavesLine p line) with
  | none => (p, [])
  | some e => chooseFirst e p

/-- One membership at a MIRROR write's first choice: IN_SERVICE or REJOINING on a link that is FAILED or OFF is an
immediate failure (R53). Its report, with all that it sets off in other blocks, is done before the next member is examined
(R66; DESIGN CHOICE, log 28). -/
def taskImmediateFailure (tag : Tag) (q : Port) (p : Part) : Act :=
  match findEntry p tag with
  | none => (p, [])
  | some e =>
    let st := mstate p e.region q
    if (st == some .inService || st == some .rejoining) && portDown p q then
      (updateEntry tag (fun x => recordFail q .link
          (if st == some .inService then { x with counted := addPort x.counted q } else x)) p,
       [.report e.region q .link (some e.line)])
    else (p, [])

/-- The members a MIRROR write is to be placed at (R53). -/
def writeTargets (p : Part) (r : RegionIx) : PortSet :=
  portSetOf (fun q => (mstate p r q == some .inService || mstate p r q == some .rejoining) && !portDown p q)

/-- The target set of a MIRROR write; completed at once when it is empty (R53). -/
def taskFixTargets (tag : Tag) (p : Part) : Act :=
  match findEntry p tag with
  | none => (p, [])
  | some e =>
    let targets := writeTargets p e.region
    if !mayLeave p e then (p, [])
    else if targets == 0#4 then completeEntry e (writeStatus e) p else enterWaitingSlot e targets p

/-! ## Held slots -/

/-- The entry gives its held slot of the port back (R13). -/
def dropHeldSlot (tag : Tag) (q : Port) (p : Part) : Part :=
  let x := p.port q
  p.setPort q { x with held := x.held.filter (fun h => h.2 != tag) }

/-- The last entry of a list that satisfies a test. -/
def findLast (f : Entry → Bool) (l : List Entry) : Option Entry := l.reverse.find? f

/-- The latest-admitted MIRROR write that holds a slot at the port and was admitted after an entry that waits on it
(R13). -/
def giver (p : Part) (q : Port) : Option Entry :=
  findLast (fun e => (heldSlot p e.tag q).isSome && e.kind == .write && isMirrorEntry p e)
    (p.table.dropWhile (fun e => !waitsOn p e q))

/-- The give-back of R13: when an entry waits on a port without a free slot, the latest-admitted MIRROR write after it
that holds a slot there gives that slot back. The slot is then free, so one give-back ends the condition at this
event, and the grant follows as an event of its own (R94). -/
def taskGiveBack (q : Port) (p : Part) : Act :=
  if hasFreeSlot (p.port q) then (p, [])
  else match giver p q with
    | some e => (dropHeldSlot e.tag q p, [])
    | none => (p, [])

/-! ## Placement -/

/-- The operation an entry's transactions carry (R14, R15). -/
def entryOp (e : Entry) : Op :=
  match e.payload with
  | some (m, d) => .write m d
  | none => .read

/-- The entry becomes ISSUED, and its mask and data are now the transactions' (R1, R14, R15). -/
def becomeIssued (tag : Tag) (p : Part) : Part :=
  updateEntry tag (fun x => { x with state := .issued, payload := none }) p

/-- Placement of a READ or of a DIRECT write in the slot just granted (R14). -/
def placeSingle (e : Entry) (q : Port) (k : SlotIx) (p : Part) : Part :=
  becomeIssued e.tag (placeTxn q k (.host e.tag) (entryOp e) (downAddr (p.region e.region) q e.line) p)

/-- A MIRROR write's transaction enters the held slot of one target port (R55 step 1). -/
def placeAt (e : Entry) (p : Part) (q : Port) : Part :=
  match heldSlot p e.tag q with
  | some k => placeTxn q k (.host e.tag) (entryOp e) (downAddr (p.region e.region) q e.line) p
  | none => p

/-- At placement, an IN_SERVICE membership that is not a target and not the last replica is reported again (R55 step
2). Such a report ejects (R64), so no job is abandoned by it. -/
def placementReport (e : Entry) (p : Part) (q : Port) : Part :=
  if mstate p e.region q == some .inService && !hasPort e.target q && !isLastReplica p e.region q
  then takeReport e.region q .link (some e.line) p else p

/-- The extent of the line is inserted for a FAULTED or DETACHED membership (R55 step 3, R57 step 2). -/
def insertIfOut (e : Entry) (p : Part) (q : Port) : Part :=
  if mstate p e.region q == some .faulted || mstate p e.region q == some .detached
  then insertLine e.region q e.line p else p

/-- All 64 bits of the byte mask are set (R56). -/
def isFullLine (e : Entry) : Bool :=
  match e.payload with
  | some (m, _) => m == BitVec.allOnes 64
  | none => false

/-- Placement of a MIRROR write (R55, R15): the transactions, the counted marks, the repeated reports, the insertions,
the entry ISSUED, then the write notice. -/
def placeMirror (e : Entry) (p : Part) : Act :=
  let p := (portsOf e.target).foldl (placeAt e) p
  let counted := portSetOf (fun q => hasPort e.target q && mstate p e.region q == some .inService)
  let p := updateEntry e.tag (fun x => { x with counted := x.counted ||| counted,
                                                inServiceAtPlacement := counted }) p
  let p := allPorts.foldl (placementReport e) p
  let p := allPorts.foldl (insertIfOut e) p
  (becomeIssued e.tag p, [.notice e.line (isFullLine e)])

/-- A MIRROR write whose held set has come to equal its target set is placed (R15). -/
def placeIfComplete (tag : Tag) (p : Part) : Act :=
  match findEntry p tag with
  | none => (p, [])
  | some e => if heldSet p tag == e.target then placeMirror e p else (p, [])

/-! ## Link loss -/

/-- A port of the target set whose link is FAILED or OFF. -/
def lostPort (p : Part) (e : Entry) : Option Port := (portsOf e.target).find? (portDown p)

/-- One entry whose wait ends at a lost port (R45, R51, R52, R54). A read's port leaves its target set with the wait. -/
def endWait (e : Entry) (q : Port) (p : Part) : Act :=
  if !isMirrorEntry p e then
    completeEntry e .portDown (updateEntry e.tag (recordFail q .link) p)
  else match e.kind with
    | .read =>
      (updateEntry e.tag (fun x => { x with target := 0#4, reasons := withReason q .link x.reasons }) p,
       [.report e.region q .link (some e.line), .redirect e.tag q .link])
    | .write =>
      let wasIn := mstate p e.region q == some .inService
      (updateEntry e.tag (fun x => recordFail q .link
          { x with target := dropPort x.target q,
                   counted := if wasIn then addPort x.counted q else x.counted }) p,
       [.report e.region q .link (some e.line), .afterShrink e.tag])

/-- After a link loss: the wait of the earliest admitted entry at a lost port ends, and the next one follows, until there
is none (R52). -/
def taskServeLost (p : Part) : Act :=
  match p.table.find? (isLost p) with
  | none => (p, [])
  | some e =>
    match lostPort p e with
    | some q =>
      let (p, ts) := endWait e q p
      (p, ts ++ [.serveLost])
    | none => (p, [])

/-- After a target has left a waiting MIRROR write: completed if none is left, placed if it holds all that are left
(R54). -/
def taskAfterShrink (tag : Tag) (p : Part) : Act :=
  match findEntry p tag with
  | none => (p, [])
  | some e =>
    if e.state != .waitingSlot then (p, [])
    else if e.target == 0#4 then completeEntry e (writeStatus e) p else placeIfComplete tag p

/-! ## Outcomes -/

/-- A failed MIRROR read's new choice. An orphan is freed instead (R20, R46, R51). -/
def taskRedirect (tag : Tag) (q : Port) (why : Reason) (p : Part) : Act :=
  match findEntry p tag with
  | none => (p, [])
  | some e =>
    if e.state == .orphaned then freeEntry e p
    else if e.state == .waitingLine then (p, [])
    else match chooseRead p e with
      | some (q', p) =>
        (post { kind := .readRedirected, port := some q, region := some e.region, addr := .line e.line }
          (updateEntry tag (fun x => { x with state := .waitingSlot, target := onePort q', ack := 0#4, fail := 0#4,
                                              tried := addPort x.tried q' }) p),
         [.giveBack q'])
      | none => completeEntry e (failureStatus why) p

/-- A MIRROR write is finished when every port of its target set has acknowledged or failed (R16, R57). -/
def finishWrite (tag : Tag) (p : Part) : Act :=
  match findEntry p tag with
  | none => (p, [])
  | some e =>
    if portSubset e.target (e.ack ||| e.fail) then finishEntry e (writeStatus e) p else (p, [])

/-- After the report of a failed MIRROR write: the insertion for a copy found out of service, then the status if it is
the last outcome (R57). R113 has the port's own job end before this insertion; that the drain check and the next head's
start that follow the job's end come before it too is DESIGN CHOICE (log 28). -/
def taskAfterWriteFailure (tag : Tag) (q : Port) (p : Part) : Act :=
  match findEntry p tag with
  | none => (p, [])
  | some e => finishWrite tag (insertIfOut e p q)

/-- An outcome OK (R16, R45, R57, R59). -/
def hostOk (e : Entry) (q : Port) (data : Option LineData) (p : Part) : Act :=
  let e' := { e with ack := addPort e.ack q, readData := if e.kind == .read then data else e.readData }
  let p := updateEntry e.tag (fun _ => e') p
  if e.kind == .write && isMirrorEntry p e then finishWrite e.tag p else finishEntry e' .ok p

/-- A failed outcome (R16, R45, R51, R57). At a MIRROR region the report, with all that it sets off in other blocks, comes
before the insertion, the freeing and the drain it may complete (R17, R160; DESIGN CHOICE, log 28). -/
def hostFailed (e : Entry) (q : Port) (why : Reason) (p : Part) : Act :=
  let p := updateEntry e.tag (recordFail q why) p
  if !isMirrorEntry p e then finishEntry (recordFail q why e) (failureStatus why) p
  else (p, [.report e.region q why (some e.line),
            match e.kind with
            | .read => .redirect e.tag q why
            | .write => .afterWriteFailure e.tag q])

/-- The dispatcher takes the outcome of a HOST transaction for its ISSUED or ORPHANED entry (R16, R20). -/
def takeHostOutcome (tag : Tag) (q : Port) (result : TxnResult) (p : Part) : Act :=
  match findEntry p tag with
  | none => (p, [])
  | some e =>
    if e.state == .issued || e.state == .orphaned then
      match result with
      | .ok data => hostOk e q data p
      | .error => hostFailed e q .media p
      | .failed why => hostFailed e q why p
    else (p, [])

end Sys2Proof.Machine
end

