-- ==== Sys2Proof/Machine/CopyEngine.lean ====
section
/-! DEFINITION. The copy engine: job queue, copy window, catch-up and compare lines, write notices and the line claim
(ch. 7), and the drain check of the region map, which the window takes part in (R37, R38). -/

namespace Sys2Proof.Machine

/-! ## Events of the engine (R140) -/

def copyStartedEvent (q : Port) : EventBody := { kind := .copyStarted, port := some q }
def copyDoneEvent (q : Port) : EventBody := { kind := .copyDone, port := some q }
def copyAbortedEvent (q : Port) (why : Reason) : EventBody :=
  { kind := .copyAborted, port := some q, detail := reasonCode why }
/-- COMPARE_DONE with the counts as they stand (R136). -/
def compareDoneEvent (c : CompareJob) : EventBody :=
  { kind := .compareDone, region := some c.region, detail := c.mismatches, second := c.compared }

/-! ## The job queue -/

def isCatchUp (q : Port) (j : Job) : Bool := j.kind == .catchUp q

def isCompareOf (r : RegionIx) (j : Job) : Bool :=
  match j.kind with
  | .compare c => c.region == r
  | .catchUp _ => false

/-- The running job: the head with its started flag set (R118). -/
def runningJob (p : Part) : Option Job :=
  match p.jobs with
  | j :: _ => if j.started then some j else none
  | [] => none

/-- The running job is a compare job. -/
def runningCompare (p : Part) : Option CompareJob :=
  match runningJob p with
  | some j =>
    match j.kind with
    | .compare c => some c
    | .catchUp _ => none
  | none => none

/-- Replace the running compare job's fields. -/
def setRunningCompare (c : CompareJob) (p : Part) : Part :=
  { p with jobs := match p.jobs with
      | j :: js => { j with kind := .compare c } :: js
      | [] => [] }

/-! ## Claims (R122) -/

/-- The pass-over count of a port returns to 0 (R96). -/
def clearPassOver (q : Port) (p : Part) : Part := p.setPort q { p.port q with passOver := 0 }

/-- The claim of the engine that waits at a port, if any (R94, R122). -/
def copyClaimAt (p : Part) (q : Port) : Option Claim :=
  match p.window with
  | some w => w.claims.find? (fun c => c.port == q)
  | none => none

/-- Take the claim at a port out of the window. -/
def dropClaim (q : Port) (w : Window) : Window := { w with claims := w.claims.filter (fun c => c.port != q) }

/-- The engine withdraws its waiting claim at a port (R96, R122). -/
def withdrawClaimAt (q : Port) (p : Part) : Part :=
  match p.window with
  | some w => if w.claims.any (fun c => c.port == q)
              then clearPassOver q (p.setWindow (some (dropClaim q w))) else p
  | none => p

/-- The engine withdraws every waiting claim of its window (R120). -/
def withdrawClaims (p : Part) : Part := allPorts.foldl (fun p q => withdrawClaimAt q p) p

/-- The line claim, if recorded, is released; R9 follows for its line in the same event (R10). -/
def releaseLineClaim (p : Part) : Act :=
  match p.lineClaim with
  | some a => ({ p with lineClaim := none }, [.leave a])
  | none => (p, [])

/-! ## Leaving and starting (R119, R120) -/

/-- The event of a job's end, if it has one. -/
def postEnd (ev : Option EventBody) (p : Part) : Part :=
  match ev with
  | some b => post b p
  | none => p

/-- The window of a job that has left: CLOSING while transactions of it are outstanding, absent otherwise (R120, R123). -/
def closedWindow (p : Part) : Option Window :=
  if copyInFlight p == 0 then none else p.window.map (fun w => { w with phase := .closing, data := [], claims := [] })

/-- The running job leaves and `rest` are the jobs that stay: claims withdrawn, line claim released, the event posted, the
record removed, the window CLOSING or absent (R120). -/
def endRunning (rest : List Job) (ev : Option EventBody) (p : Part) : Act :=
  let (p, ts) := releaseLineClaim (withdrawClaims p)
  let p := { postEnd ev p with jobs := rest }
  (p.setWindow (closedWindow p), ts)

/-- The running job leaves; the drain check of its window's region and the new head follow (R120). The drain check comes first
of the two, and both are made, with the new head's selection and even its completion, before what still stands on the event's
list, a failed write's insertion or the dispatcher's next report (R17, R66, R114; DESIGN CHOICE, log 28). -/
def leaveRunning (rest : List Job) (ev : Option EventBody) (p : Part) : Act :=
  let (p', ts) := endRunning rest ev p
  (p', (p.window.map (fun w => Task.drainCheck w.region)).toList ++ (.headStart :: ts))

/-- The jobs but the catch-up job of a port. -/
def jobsWithout (q : Port) (p : Part) : List Job := p.jobs.filter (fun j => !isCatchUp q j)

/-- A catch-up job leaves before its end: abandoned with an event, or withdrawn without (R120). -/
def leaveCatchUp (q : Port) (ev : Option EventBody) (p : Part) : Act :=
  match p.jobs.find? (isCatchUp q) with
  | none => (p, [])
  | some j =>
    if j.started then leaveRunning (jobsWithout q p) ev p
    else ({ postEnd ev p with jobs := jobsWithout q p }, [.headStart])

/-- A failure report is taken; where it found a REJOINING membership, the port's job is abandoned for TARGET in the same
breath (R63, R66). What the abandonment sets off, the purge of a drained region and the next head's start with them, comes
before the claimant's own next step at this event (R114, R160; DESIGN CHOICE, log 28). -/
def taskReport (r : RegionIx) (q : Port) (why : Reason) (line : Option UpAddr) (p : Part) : Act :=
  if mstate p r q == some .rejoining
  then leaveCatchUp q (some (copyAbortedEvent q .target)) (takeReport r q why line p)
  else (takeReport r q why line p, [])

/-- A link-loss claim is taken; where it made a REJOINING membership FAULTED, the port's job is abandoned for TARGET
(R68). -/
def linkLossWorks (q : Port) (why : Reason) (p : Part) : Act :=
  if hasRejoining p q then leaveCatchUp q (some (copyAbortedEvent q .target)) (takeLinkLoss q why p)
  else (takeLinkLoss q why p, [])

/-- A catch-up request: appended unless a job for the port exists (R119). -/
def requestCatchUp (q : Port) (p : Part) : Part :=
  if p.jobs.any (isCatchUp q) then p
  else { p with jobs := p.jobs ++ [{ kind := .catchUp q, started := false }] }

/-- The head starts when it has not started and the copy window is absent (R119). -/
def taskHeadStart (p : Part) : Act :=
  match p.jobs, p.window with
  | j :: js, none =>
    if j.started then (p, [])
    else
      let p := { p with jobs := { j with started := true } :: js }
      match j.kind with
      | .catchUp q => (post (copyStartedEvent q) p, [.selection q])
      | .compare _ => (p, [.compareStart])
  | [], none => (p, [])
  | [], some _ => (p, [])
  | _ :: _, some _ => (p, [])

/-! ## Line starts -/

/-- The window starts a line: CLAIMING, flags cleared, data dropped, the overtake count kept on a restart of the same
line and 0 otherwise. When another region leaves the window by it, that region's drain check follows (R37, R121); it comes
before the new line's source is chosen (DESIGN CHOICE, log 26). -/
def startLine (job : WindowJob) (r : RegionIx) (e k : Nat) (p : Part) : Act :=
  let overtake := match p.window with
    | some w => if w.region == r && w.extent == e && w.lineNo == k then w.overtake else 0
    | none => 0
  let w : Window :=
    { job := job, region := r, extent := e, lineNo := k, addr := lineAddr (p.region r) e k, source := 0#4,
      phase := .claiming, overtake := overtake, cancelled := false, reread := false, data := [], claims := [] }
  (p.setWindow (some w),
   match p.window with
   | some old => if old.region == r then [] else [.drainCheck old.region]
   | none => [])

/-- A READ claim for the window's line at a port (R122, R126, R133). -/
def readClaim (p : Part) (w : Window) (part : CopyPart) (q : Port) : Claim :=
  { port := q, part := part, op := .read, addr := downAddr (p.region w.region) q w.addr }

/-- The ports at which a region has a copy fit to be read: IN_SERVICE, link not FAILED or OFF (R126, R133). -/
def readablePorts (p : Part) (r : RegionIx) : List Port :=
  allPorts.filter (fun q => mstate p r q == some .inService && !portDown p q)

/-- Abandonment for SOURCE: the claim of R74, then the job leaves (R129). -/
def abandonSource (q : Port) (p : Part) : Act :=
  leaveRunning (jobsWithout q p) (some (copyAbortedEvent q .source)) (takeOutRejoining q .source p)

/-- The source of a catch-up line is chosen by the BALANCE rule, and a READ claim made there; with no usable source the
job is abandoned (R126). -/
def taskChooseSource (q : Port) (p : Part) : Act :=
  match p.window with
  | none => (p, [])
  | some w =>
    match balance p ((readablePorts p w.region).filter (fun s => s != q)) with
    | none => abandonSource q p
    | some s => (p.setWindow (some { w with source := onePort s, claims := [readClaim p w .sourceRead s] }), [])

/-- A restart of the same catch-up line (R126, R127). -/
def restartLine (q : Port) (w : Window) (p : Part) : Act :=
  (p.setWindow (some { w with phase := .claiming, source := 0#4, cancelled := false, reread := false, data := [] }),
   [.chooseSource q])

/-- A selection: the first line of the chosen extent, or the job's completion (R124, R130). Where the window leaves a
RETIRING region by it, that region drains before the source of the new line is chosen, and so before an abandonment for
SOURCE: no rule orders the two (DESIGN CHOICE, log 26). -/
def taskSelection (q : Port) (p : Part) : Act :=
  match selectRun p q with
  | some x =>
    let (p, ts) := startLine (.catchUp q) x.region x.first 0 p
    (p, ts ++ [.chooseSource q])
  | none => leaveRunning (jobsWithout q p) (some (copyDoneEvent q)) (takeCompletion q p)

/-- The window is the running catch-up job's, and not CLOSING. -/
def isCatchUpWindow (q : Port) (w : Window) : Bool := w.job == .catchUp q && w.phase != .closing

/-- After a line that is done: the next line of the extent, the skip of a RETIRING region, or the extent's removal and a
selection (R112, R125, R128). -/
def nextCatchUpLine (q : Port) (w : Window) (p : Part) : Act :=
  if w.lineNo + 1 < Config.linesPerExtent then
    if (p.region w.region).state == .live then
      let (p, ts) := startLine (.catchUp q) w.region w.extent (w.lineNo + 1) p
      (p, ts ++ [.chooseSource q])
    else (p, [.selection q])
  else (removeExtent q w.region w.extent p, [.selection q])

/-- A catch-up line is done: the line claim is released, then the next line or the end of the extent; the entry that the
release lets go takes its turn after them (R10, R128; DESIGN CHOICE, log 13). -/
def taskLineDone (q : Port) (p : Part) : Act :=
  match p.window with
  | none => (p, [])
  | some w =>
    if isCatchUpWindow q w then
      let (p, ts) := releaseLineClaim p
      let (p, us) := nextCatchUpLine q w p
      (p, us ++ ts)
    else (p, [])

/-! ## Compare lines (R133 to R136) -/

/-- A line start of the running compare job. With fewer than two copies to read the line is skipped and its line claim
released. A skip changes nothing the next line start reads, so the lines after it are skipped in the same event and the
job ends (R133, R136, log 17). -/
def taskCompareStart (p : Part) : Act :=
  match runningCompare p with
  | none => (p, [])
  | some c =>
    let ports := readablePorts p c.region
    if ports.length < 2 then leaveRunning p.jobs.tail (some (compareDoneEvent c)) p
    else
      let (p, ts) := startLine .compare c.region c.nextExtent c.nextLine p
      (p.setWindow (p.window.map (fun w =>
        { w with source := portSetOf ports.contains, claims := ports.map (readClaim p w .compareRead) })), ts)

/-- The bytes a port of the read set returned. -/
def dataOf (w : Window) (q : Port) : Option LineData := (w.data.find? (fun x => x.1 == q)).map (·.2)

/-- The ports of the compared set whose bytes differ from those of its lowest-numbered port (R135). -/
def differingSet (w : Window) (compared : List Port) : PortSet :=
  match compared with
  | [] => 0#4
  | base :: rest => portSetOf (fun q => rest.contains q && dataOf w q != dataOf w base)

/-- The counts after a compared line, held at their maxima, and the next line (R118, R133, R135). -/
def countLine (differs : Bool) (c : CompareJob) : CompareJob :=
  let last := c.nextLine + 1 ≥ Config.linesPerExtent
  { c with compared := min (c.compared + 1) Config.comparedMax,
           mismatches := if differs then min (c.mismatches + 1) Config.mismatchMax else c.mismatches,
           nextExtent := if last then c.nextExtent + 1 else c.nextExtent,
           nextLine := if last then 0 else c.nextLine + 1 }

/-- COMPARE_MISMATCH for a non-empty differing set (R135). -/
def postMismatch (differing : PortSet) (r : RegionIx) (a : UpAddr) (p : Part) : Part :=
  if differing == 0#4 then p
  else post { kind := .compareMismatch, region := some r, detail := differing.toNat, addr := .line a } p

/-- A compared line's counts and COMPARE_MISMATCH; then the next line, or the end of the job (R135, R136). -/
def recordLine (differing : PortSet) (w : Window) (p : Part) : Act :=
  match runningCompare p with
  | none => (p, [])
  | some c =>
    let c := countLine (differing != 0#4) c
    let p := setRunningCompare c (postMismatch differing c.region w.addr p)
    if c.nextExtent < c.first + c.count then (p, [.compareStart])
    else leaveRunning p.jobs.tail (some (compareDoneEvent c)) p

/-- The line is compared, its line claim released first; or it is started again when fewer than two of its copies are still
IN_SERVICE (R135). -/
def compareLine (w : Window) (p : Part) : Act :=
  let compared := (portsOf w.source).filter (fun q => mstate p w.region q == some .inService)
  if compared.length < 2 then (p, [.compareStart])
  else
    let (p, ts) := releaseLineClaim p
    let (p, us) := recordLine (differingSet w compared) w p
    (p, us ++ ts)

/-- When no read of the line is outstanding: compared, or started again if the re-read flag is set (R134, R135). -/
def compareProgress (p : Part) : Act :=
  match p.window with
  | none => (p, [])
  | some w =>
    if w.job == .compare && w.phase != .closing && w.claims.isEmpty && copyInFlight p == 0 then
      if w.reread then (p, [.compareStart]) else compareLine w p
    else (p, [])

/-- The queued compare jobs of a region end in queue order (R136). -/
def endQueuedCompares (r : RegionIx) (p : Part) : Part :=
  let ends := (p.jobs.filter (isCompareOf r)).filterMap (fun j =>
    match j.kind with
    | .compare c => some (compareDoneEvent c)
    | .catchUp _ => none)
  { postAll ends p with jobs := p.jobs.filter (fun j => !isCompareOf r j) }

/-! ## Outcomes of COPY transactions -/

/-- A failed COPY transaction, or a claim ended by link loss: reported, then acted on (R123, R129, R134). -/
def taskCopyFailed (part : CopyPart) (q : Port) (why : Reason) (p : Part) : Act :=
  match p.window with
  | none => (p, [])
  | some w =>
    let reported := Task.report w.region q why (some w.addr)
    if w.phase == .closing then (p, [reported, .closeCheck])
    else match part, w.job with
      | .sourceRead, .catchUp t => (p, [reported, .afterSourceFailure t q])
      | .compareRead, .compare => (p.setWindow (some { w with reread := true }), [reported, .afterCompareFailure])
      | .targetWrite, .catchUp _ => (p, [reported])
      | .sourceRead, .compare => (p, [reported])
      | .targetWrite, .compare => (p, [reported])
      | .compareRead, .catchUp _ => (p, [reported])

/-- After the report of a failed source read: done if cancelled, abandoned if the source is protected, restarted
otherwise (R129). -/
def taskAfterSourceFailure (target src : Port) (p : Part) : Act :=
  match p.window with
  | none => (p, [])
  | some w =>
    if isCatchUpWindow target w then
      if w.cancelled then (p, [.lineDone target])
      else if mstate p w.region src == some .inService then abandonSource target p
      else restartLine target w p
    else (p, [])

/-- A CLOSING window with nothing outstanding becomes absent; the drain check and the head follow (R123), in that order (DESIGN
CHOICE, log 28). -/
def taskCloseCheck (p : Part) : Act :=
  match p.window with
  | none => (p, [])
  | some w =>
    if w.phase == .closing && copyInFlight p == 0 then (p.setWindow none, [.drainCheck w.region, .headStart])
    else (p, [])

/-- The source's data has arrived in a catch-up window (R127 step 2). A WRITE claim at a port that is FAILED or OFF is
answered at once with a link failure (R94). -/
def sourceData (t q : Port) (d : LineData) (w : Window) (p : Part) : Act :=
  if w.cancelled then (p, [.lineDone t])
  else if w.reread then restartLine t w p
  else if mstate p w.region q != some .inService then restartLine t w p
  else
    let w := { w with data := [(q, d)] }
    if portDown p t then (p.setWindow (some w), [.copyFailed .targetWrite t .link])
    else
      let c : Claim := { port := t, part := .targetWrite, op := .write (BitVec.allOnes 64) d,
                         addr := downAddr (p.region w.region) t w.addr }
      (p.setWindow (some { w with claims := [c] }), [])

/-- An outcome OK of a COPY transaction (R127, R135, R123). -/
def copyOk (part : CopyPart) (q : Port) (d : LineData) (p : Part) : Act :=
  match p.window with
  | none => (p, [])
  | some w =>
    if w.phase == .closing then (p, [.closeCheck])
    else match part, w.job with
      | .sourceRead, .catchUp t => sourceData t q d w p
      | .targetWrite, .catchUp t => (p, [.lineDone t])
      | .compareRead, .compare => compareProgress (p.setWindow (some { w with data := w.data ++ [(q, d)] }))
      | .sourceRead, .compare => (p, [])
      | .targetWrite, .compare => (p, [])
      | .compareRead, .catchUp _ => (p, [])

/-- The copy engine takes the outcome of a COPY transaction. -/
def takeCopyOutcome (part : CopyPart) (q : Port) (result : TxnResult) (p : Part) : Act :=
  match result with
  | .ok data => copyOk part q (data.getD 0) p
  | .error => (p, [.copyFailed part q .media])
  | .failed why => (p, [.copyFailed part q why])

/-- The engine's wait at a lost port ends as a failure of the claimed transaction with reason LINK (R85, R122). -/
def taskClaimLost (q : Port) (p : Part) : Act :=
  match copyClaimAt p q with
  | none => (p, [])
  | some c => (withdrawClaimAt q p, [.copyFailed c.part q .link])

/-! ## Write notices (R131, R132, R134) -/

/-- The overtake count rises by one and stops at 8; the notice that brings it to 8 places the line claim (R132). -/
def overtaken (w : Window) (p : Part) : Window × Part :=
  let p := if w.overtake + 1 == Config.overtakeLimit then { p with lineClaim := some w.addr } else p
  ({ w with overtake := min (w.overtake + 1) Config.overtakeLimit }, p)

/-- A notice for the line of a catch-up window in READING (R131). -/
def noticeReading (t : Port) (full : Bool) (w : Window) (p : Part) : Act :=
  if w.cancelled then (p, [])
  else if w.data.isEmpty then
    if full then (p.setWindow (some { w with cancelled := true }), [])
    else
      let (w, p) := overtaken w p
      (p.setWindow (some { w with reread := true }), [])
  else if full then
    ((withdrawClaimAt t p).setWindow (some (dropClaim t { w with data := [] })), [.lineDone t])
  else
    let (w, p) := overtaken w p
    restartLine t (dropClaim t w) (withdrawClaimAt t p)

/-- The copy engine takes a write notice (R131, R134). -/
def taskNotice (line : UpAddr) (full : Bool) (p : Part) : Act :=
  match p.window with
  | none => (p, [])
  | some w =>
    if w.addr == line && w.phase == .reading then
      match w.job with
      | .catchUp t => noticeReading t full w p
      | .compare =>
        let (w, p) := overtaken w p
        (p.setWindow (some { w with reread := true }), [])
    else (p, [])

/-! ## Drain (R37, R38) -/

/-- The copy window rests on a region. -/
def windowOn (p : Part) (r : RegionIx) : Bool :=
  match p.window with
  | some w => w.region == r
  | none => false

/-- The conditions of the drain check (R37). -/
def drained (p : Part) (r : RegionIx) : Bool :=
  (p.region r).state == .retiring && (p.region r).inFlight == 0 && !windowOn p r

/-- A job that stays when a region's memberships are gone: anything but a catch-up job whose port has no REJOINING
membership left. Such a job is a queued one, since a running job has its window on a region where its target is REJOINING
(R38 step 3, R120). -/
def keepsJob (p : Part) (j : Job) : Bool :=
  match j.kind with
  | .catchUp q => hasRejoining p q
  | .compare _ => true

/-- The drain check: a drained RETIRING entry becomes FREE, with its runs purged, its memberships gone, queued jobs
withdrawn and REGION_RETIRED posted; the head may then start (R37, R38). -/
def taskDrainCheck (r : RegionIx) (p : Part) : Act :=
  if drained p r then
    let p := (purgeRegion r p).setRegion r Region.cleared
    let p := { p with jobs := p.jobs.filter (keepsJob p) }
    (post { kind := .regionRetired, region := some r } p, [.headStart])
  else (p, [])

end Sys2Proof.Machine
end

