-- ==== Sys2Proof/Machine/Agenda.lean ====
section
/-! DEFINITION. An event runs its works from the front of a list until none is left. Each work puts its followers in
front of the works behind it, so what a rule says happens "in this order" does. The dispatcher's turns at its entries come
when nothing else is left, in admission order. -/

namespace Sys2Proof.Machine

/-- One work of an event. -/
def runTask : Task → Part → Act
  | .leave line, p => taskLeave line p
  | .immediateFailure tag q, p => taskImmediateFailure tag q p
  | .fixTargets tag, p => taskFixTargets tag p
  | .giveBack q, p => taskGiveBack q p
  | .serveLost, p => taskServeLost p
  | .redirect tag q why, p => taskRedirect tag q why p
  | .afterShrink tag, p => taskAfterShrink tag p
  | .afterWriteFailure tag q, p => taskAfterWriteFailure tag q p
  | .report r q why line, p => taskReport r q why line p
  | .drainCheck r, p => taskDrainCheck r p
  | .headStart, p => taskHeadStart p
  | .selection q, p => taskSelection q p
  | .chooseSource q, p => taskChooseSource q p
  | .lineDone q, p => taskLineDone q p
  | .afterSourceFailure t s, p => taskAfterSourceFailure t s p
  | .compareStart, p => taskCompareStart p
  | .afterCompareFailure, p => compareProgress p
  | .closeCheck, p => taskCloseCheck p
  | .claimLost q, p => taskClaimLost q p
  | .copyFailed part q why, p => taskCopyFailed part q why p
  | .notice line full, p => taskNotice line full p
  | .posting b, p => (post b p, [])

/-- When a work comes: 0, at once, for all but the dispatcher's turns; a turn comes at the place its entry has in the table,
counted from 1, and after all others when it has no entry left (R43, R52; that the turns come last is DESIGN CHOICE, log 13). -/
def workRank (p : Part) : Task → Nat
  | .leave line => 1 + p.table.findIdx (leavesLine p line)
  | .redirect tag _ _ => 1 + p.table.findIdx (fun e => e.tag == tag)
  | .serveLost => 1 + p.table.findIdx (isLost p)
  | _ => 0

/-- The first of the works with the least rank, and the others in their order. -/
def nextWork (p : Part) : List Task → Option (Task × List Task)
  | [] => none
  | t :: ts =>
    if workRank p t == 0 then some (t, ts)
    else match nextWork p ts with
      | none => some (t, [])
      | some (u, us) => if workRank p t ≤ workRank p u then some (t, ts) else some (u, t :: us)

/-- Work a list of works, with a bound on their number. What a work sets off is done, with all that follows from it, before
the works that stood behind it: R160 leaves open the order of the posts that one event calls for in several blocks, where
no rule orders what they do (DESIGN CHOICE, log 28). -/
def runAgenda : Nat → List Task → Part → Part
  | 0, _, p => p
  | n + 1, ts, p =>
    match nextWork p ts with
    | none => p
    | some (t, rest) =>
      let r := runTask t p
      runAgenda n (r.2 ++ rest) r.1

/-- A bound that no event's works reach (log 12). -/
def agendaBound (ts : List Task) (p : Part) : Nat :=
  64 * (p.table.length + p.jobs.length + ts.length + 64)

/-- All the works of an event. -/
def settle (a : Act) : Part := runAgenda (agendaBound a.2 a.1) a.2 a.1

end Sys2Proof.Machine
end

