-- ==== Sys2Proof/Machine/HostChannel.lean ====
section
/-! DEFINITION. The host channel and the two reset inputs: admission (R1, R6 to R8), host reset (R18, R21) and power-on
reset (R22, R41, R42, R101, R117, R141, R156, R169). -/

namespace Sys2Proof.Machine

/-! ## ADMISSION -/

/-- The entry an admission creates (R8). -/
def newEntry (tag : Tag) (op : Op) (line : UpAddr) (r : RegionIx) : Entry where
  tag := tag
  kind := match op with | .read => .read | .write _ _ => .write
  payload := match op with | .read => none | .write m d => some (m, d)
  line := line
  region := r
  state := .waitingLine
  target := 0#4
  tried := 0#4
  ack := 0#4
  fail := 0#4
  counted := 0#4
  inServiceAtPlacement := 0#4
  reasons := []
  readData := none

/-- A request for a line that no LIVE region covers: UNMAPPED, and UNMAPPED_ACCESS with the line (R7). -/
def answerUnmapped (tag : Tag) (line : UpAddr) (p : Part) : Part :=
  post { kind := .unmappedAccess, addr := .line line }
    (p.out (.response { tag := tag, status := .unmapped, data := none }))

/-- An entry is created and the line hold is applied at once (R5, R8, R9). -/
def createEntry (tag : Tag) (op : Op) (line : UpAddr) (r : RegionIx) (p : Part) : Part :=
  settle (raiseInFlight r (p.setTable (p.table ++ [newEntry tag op line r])), [.leave line])

/-- One request taken from the host channel: the tag check, then the region check, then the entry (R1, R6, R7, R8).
While UP_READY is deasserted nothing is taken. -/
def takeRequest (tag : Tag) (op : Op) (line : UpAddr) (p : Part) : Part :=
  if !upReady p then p
  else if (findEntry p tag).isSome then post { kind := .tagCollision, detail := tag.val } p
  else match lookupRegion p line with
    | some r => if (p.region r).state == .live then createEntry tag op line r p else answerUnmapped tag line p
    | none => answerUnmapped tag line p

def execAdmission (tag : Tag) (op : Op) (line : UpAddr) (s : State) : Host.Outcome State Fault Refusal :=
  onPart (takeRequest tag op line) s

/-! ## HRST_N -/

/-- The entry has not been placed (R18 step 2). -/
def unplaced (e : Entry) : Bool := e.state == .waitingLine || e.state == .waitingSlot

/-- A waiting entry is freed without a response: its slots go back and the in-flight count falls (R18 step 2). -/
def dropWaiting (p : Part) (e : Entry) : Part := lowerInFlight e.region (removeEntry e.tag (releaseHeld e.tag p))

/-- Each element once, at its last place: a region is drained at the last fall of its count (R37). The order of the
falls is the admission order of the freed entries (DESIGN CHOICE, log 25). -/
def lastPlaces : List RegionIx → List RegionIx
  | [] => []
  | r :: rs => if rs.contains r then lastPlaces rs else r :: lastPlaces rs

/-- ISSUED becomes ORPHANED (R18 step 3). -/
def orphan (e : Entry) : Entry := if e.state == .issued then { e with state := .orphaned } else e

/-- The effects of an HRST_N assertion (R18). R18 gives no order in which the waiting entries are freed: the model frees
them in admission order, checks each RETIRING region at its last freed entry, and posts HOST_RESET after every
REGION_RETIRED (DESIGN CHOICE, log 25). -/
def hostReset (p : Part) : Part :=
  let freed := p.table.filter unplaced
  let p := freed.foldl dropWaiting p
  let p := p.setTable (p.table.map orphan)
  settle (p, (lastPlaces (freed.map (·.region))).map .drainCheck ++ [.posting { kind := .hostReset }])

/-- HRST_N becomes asserted. While PORST_N is asserted only the pin changes (R22); held asserted it does nothing more
(R21). -/
def assertHrst (p : Part) : Part :=
  if p.hrst then p
  else if p.porst then { p with hrst := true }
  else hostReset { p with hrst := true }

def execHrstNAssert (s : State) : Host.Outcome State Fault Refusal := .next { s with part := assertHrst s.part }

/-- HRST_N becomes deasserted; UP_READY follows (R2, R21). -/
def releaseHrst (p : Part) : Part := { p with hrst := false }

def execHrstNDeassert (s : State) : Host.Outcome State Fault Refusal := .next { s with part := releaseHrst s.part }

/-! ## PORST_N -/

/-- PORST_N becomes asserted: every block is abandoned (R22, R42, R101, R117, R141, R156, R169). -/
def assertPorst (p : Part) : Part := Part.abandoned p.hrst p.bootsz p.mbaud p.now p.trace

def execPorstNAssert (s : State) : Host.Outcome State Fault Refusal := .next { s with part := assertPorst s.part }

/-- PORST_N becomes deasserted, with the straps as sampled; a PORST_N that is already deasserted changes nothing, and
neither do the straps then (R41). -/
def releasePorst (bootsz : BitVec 2) (mbaud : Bool) (p : Part) : Part :=
  if p.porst then Part.powerOn p.hrst bootsz mbaud p.now p.trace else p

def execPorstNDeassert (bootsz : BitVec 2) (mbaud : Bool) (s : State) : Host.Outcome State Fault Refusal :=
  .next { s with part := releasePorst bootsz mbaud s.part }

end Sys2Proof.Machine
end

