-- ==== Sys2Proof/Machine/Serial.lean ====
section
/-! DEFINITION. The line of the management port, bit by bit (R142): a level is true while the line is high. The line is
taken as one level for each bit time; how long a bit time lasts is the line's rate. -/

namespace Sys2Proof.Machine

/-- The rate of both directions in bit/s: 115,200 with MBAUD low, 1,000,000 with MBAUD high (R142). -/
def lineRate (mbaud : Bool) : Nat := if mbaud then 1000000 else 115200

/-- The levels of one character: the start bit, low; the 8 data bits, least significant first; no parity bit; the stop bit,
which a sender makes high (R142). -/
def characterLevels (b : Byte) (stop : Bool) : List Bool :=
  [false, b.getLsbD 0, b.getLsbD 1, b.getLsbD 2, b.getLsbD 3, b.getLsbD 4, b.getLsbD 5, b.getLsbD 6, b.getLsbD 7, stop]

/-- The levels of characters sent back to back (R142). -/
def lineLevels (chars : List Byte) : List Bool := chars.flatMap (fun b => characterLevels b true)

/-- The byte of 8 data bits, the first of them its least significant bit (R142). -/
def dataByte (d0 d1 d2 d3 d4 d5 d6 d7 : Bool) : Byte :=
  BitVec.ofBool d7 ++ BitVec.ofBool d6 ++ BitVec.ofBool d5 ++ BitVec.ofBool d4 ++
    (BitVec.ofBool d3 ++ BitVec.ofBool d2 ++ BitVec.ofBool d1 ++ BitVec.ofBool d0)

/-- The characters on a line, each with the level of its stop bit: an idle line is high, a low level opens a character, and
the next nine levels are its data bits and its stop bit. The levels of a character that has not ended are none yet
(R142). -/
def lineCharacters : List Bool → List (Byte × Bool)
  | true :: rest => lineCharacters rest
  | false :: d0 :: d1 :: d2 :: d3 :: d4 :: d5 :: d6 :: d7 :: stop :: rest =>
    (dataByte d0 d1 d2 d3 d4 d5 d6 d7, stop) :: lineCharacters rest
  | _ => []

end Sys2Proof.Machine
end

