-- ==== Sys2Proof/Machine/Frames.lean ====
section
/-! DEFINITION. The management port's own rules: the check, the coding on the line, replies, the reply queue and the
sequence cache (R142 to R152). -/

namespace Sys2Proof.Machine

/-! ## The check (R145) -/

/-- One step of the check register. -/
def crcShift (r : BitVec 16) : BitVec 16 := if r.msb then (r <<< 1) ^^^ 0x1021#16 else r <<< 1

/-- One byte taken into the check register: into its high half, then eight steps. -/
def crcByte (r : BitVec 16) (b : Byte) : BitVec 16 :=
  crcShift (crcShift (crcShift (crcShift (crcShift (crcShift (crcShift (crcShift
    (r ^^^ (b.zeroExtend 16 <<< 8)))))))))

/-- The CRC-16 of a run of bytes: start value FFFFh, no final inversion. -/
def crc16 (l : List Byte) : BitVec 16 := l.foldl crcByte 0xFFFF#16

/-- The two check bytes, high byte first. -/
def checkBytes (l : List Byte) : List Byte := be2 (crc16 l).toNat

/-- A body whose last two bytes are the check over the bytes before them (R145). -/
def checkPasses (body : List Byte) : Bool :=
  body.drop (body.length - 2) == checkBytes (body.take (body.length - 2))

/-! ## Coding on the line (R143) -/

def startByte : Byte := 0xF1#8
def endByte : Byte := 0xF2#8
def escapeByte : Byte := 0xF3#8

/-- A value that is sent as an escape pair. -/
def isSpecial (b : Byte) : Bool := b == startByte || b == endByte || b == escapeByte

/-- The characters of one body byte. -/
def codeByte (b : Byte) : List Byte := if isSpecial b then [escapeByte, b ^^^ 0x20#8] else [b]

/-- The characters of a frame: start byte, coded body, end byte. -/
def frameChars (body : List Byte) : List Byte := startByte :: (body.flatMap codeByte ++ [endByte])

/-! ## Replies (R146, R149, R150, R152) -/

/-- A management command at its owning block: the part as the command leaves it, the reply's status and payload. -/
abbrev Command := Part → Part × Status × List Byte

/-- A refusal: nothing changes and the payload is empty (R148). -/
def refuse (st : Status) : Command := fun p => (p, st, [])

/-- OK with an empty payload. -/
def done (p : Part) : Part × Status × List Byte := (p, .ok, [])

/-- A reply body before its check: sequence, command code plus 80h, status, payload length, payload (R146). -/
def replyHead (seq code : Byte) (st : Status) (payload : List Byte) : List Byte :=
  [seq, code + 0x80#8, byte1 (statusCode st), byte1 payload.length] ++ payload

/-- A reply body with its check (R146). -/
def replyBody (seq code : Byte) (st : Status) (payload : List Byte) : List Byte :=
  replyHead seq code st payload ++ checkBytes (replyHead seq code st payload)

/-- Two replies await transmission (R147 step 4). -/
def repliesFull (p : Part) : Bool := Config.replyCapacity ≤ p.mgmt.replies.length

/-- The cached reply body, if the cache holds the sequence (R147 step 5). -/
def cachedReply (p : Part) (seq : Byte) : Option (List Byte) :=
  match p.mgmt.cache with
  | some (s, body) => if s == seq then some body else none
  | none => none

/-- A reply goes to the end of the reply queue (R149, R150). -/
def placeReply (body : List Byte) (p : Part) : Part :=
  { p with mgmt := { p.mgmt with replies := p.mgmt.replies ++ [body] } }

/-- An executed frame: the command runs whole, its reply is placed and the cache written (R149, R152). -/
def executeCommand (seq code : Byte) (run : Command) (p : Part) : Part :=
  let r := run p
  let body := replyBody seq code r.2.1 r.2.2
  let p := placeReply body r.1
  { p with mgmt := { p.mgmt with cache := some (seq, body) } }

/-- A frame that has passed its check and its key: dropped at a full reply queue, replayed, or executed (R147 steps 4
to 6). -/
def takeCommand (seq code : Byte) (run : Command) (p : Part) : Part :=
  if repliesFull p then p
  else match cachedReply p seq with
    | some body => placeReply body p
    | none => executeCommand seq code run p

/-- The meaning of a management row: its frame has arrived whole, with the current key and a good check (log 10). -/
def onFrame (seq code : Byte) (run : Command) (s : State) : Host.Outcome State Fault Refusal :=
  onPart (takeCommand seq code run) s

/-! ## REPLY_SENT (R150) -/

/-- MGMT_TX while a reply is sent: the characters of its frame back to back, at the rate MBAUD set (R142, R143, R150). -/
def replyOutput (mbaud : Bool) (body : List Byte) : Output := .replyFrame (lineRate mbaud) (lineLevels (frameChars body))

/-- The end byte of the oldest reply has been sent: it leaves the queue, and the trace receives its levels on the line
(R142, R143, R150; log 23). -/
def replySent (p : Part) : Part :=
  match p.mgmt.replies with
  | body :: rest => { p with mgmt := { p.mgmt with replies := rest } }.out (replyOutput p.mbaud body)
  | [] => p

/-- The level of MGMT_TX, high or not, at bit time `n` counted from the start of the reply the transmitter works on: the levels
of that reply's frame, and high when they are over, between replies, with no reply waiting, and while PORST_N is asserted
(R142, R150, R156). When bit time 0 comes is timing (log 23). -/
def mgmtTx (p : Part) (n : Nat) : Bool :=
  p.porst ||
  match p.mgmt.replies with
  | body :: _ => (lineLevels (frameChars body))[n]?.getD true
  | [] => true

def execReplySent (s : State) : Host.Outcome State Fault Refusal := onPart replySent s

end Sys2Proof.Machine
end

