-- ==== Sys2Proof/Machine/JobCommands.lean ====
section
/-! DEFINITION. The copy engine's commands: COMPARE, JOB_READ and JOB_CANCEL (R137 to R139). -/

namespace Sys2Proof.Machine

/-! ## COMPARE (R137) -/

def isCompare (j : Job) : Bool :=
  match j.kind with
  | .compare _ => true
  | .catchUp _ => false

/-- The range suits the region: LIVE and MIRROR, at least one extent, inside the region (R137 check 2). -/
def compareFits (x : Region) (first count : Nat) : Bool :=
  x.state == .live && x.mode == .mirror && 1 ≤ count && first + count ≤ extentCount x

/-- A new compare job (R137). -/
def newCompare (r : RegionIx) (first count : Nat) : Job where
  kind := .compare { region := r, first := first, count := count, nextExtent := first, nextLine := 0,
                     compared := 0, mismatches := 0 }
  started := false

/-- COMPARE: the job is appended and starts if it may; the payload is its position at the append. -/
def cmdCompare (region : Byte) (first count : BitVec 24) : Command := fun p =>
  match regionOf region with
  | none => refuse .badValue p
  | some r =>
    if !compareFits (p.region r) first.toNat count.toNat then refuse .badValue p
    else if Config.compareCapacity ≤ p.jobs.countP isCompare then refuse .queueFull p
    else
      (settle ({ p with jobs := p.jobs ++ [newCompare r first.toNat count.toNat] }, [.headStart]), .ok,
       [byte1 p.jobs.length])

def execCompare (seq region : Byte) (first count : BitVec 24) (s : State) : Host.Outcome State Fault Refusal :=
  onFrame seq 0x40#8 (cmdCompare region first count) s

/-! ## JOB_READ (R138) -/

/-- The 14 bytes of a job. -/
def jobBytes (j : Job) : List Byte :=
  match j.kind with
  | .catchUp q =>
    [0#8, boolByte j.started, byte1 q.val, absentByte] ++ be3 0 ++ be3 0 ++ be2 0 ++ be2 0
  | .compare c =>
    [1#8, boolByte j.started, absentByte, byte1 c.region.val] ++ be3 c.first ++ be3 c.count ++
      be2 (min c.compared 65535) ++ be2 c.mismatches

/-- Target byte of the window. -/
def windowTarget (w : Window) : Byte :=
  match w.job with
  | .catchUp q => byte1 q.val
  | .compare => absentByte

/-- Source byte: a port number for a catch-up, a set of ports for a compare. -/
def windowSource (w : Window) : Byte :=
  match w.job with
  | .catchUp _ => portByte (portsOf w.source).head?
  | .compare => byte1 w.source.toNat

/-- The flags byte: cancelled, re-read, line claim present. -/
def windowFlags (p : Part) (w : Window) : Nat :=
  (if w.cancelled then 1 else 0) + (if w.reread then 2 else 0) + (if p.lineClaim.isSome then 4 else 0)

/-- The 13 bytes of the window; all 0 when it is absent. -/
def windowBytes (p : Part) : List Byte :=
  match p.window with
  | none => List.replicate 13 0#8
  | some w =>
    [byte1 (phaseCode (some w.phase)), boolByte (w.job == .compare), windowTarget w, windowSource w,
     byte1 w.region.val] ++ be5 w.addr.toNat ++
    [byte1 w.overtake, byte1 (windowFlags p w), byte1 (w.claims.length + copyInFlight p)]

def cmdJobRead : Command := fun p =>
  (p, .ok, byte1 p.jobs.length :: (p.jobs.flatMap jobBytes ++ windowBytes p))

def execJobRead (seq : Byte) (s : State) : Host.Outcome State Fault Refusal := onFrame seq 0x41#8 cmdJobRead s

/-! ## JOB_CANCEL (R139) -/

/-- A compare job ends at a command: the running one leaves as R120 says, a queued one is taken out of its place
(R136). -/
def cancelJob (i : Nat) (j : Job) (c : CompareJob) (p : Part) : Part :=
  if j.started then settle (leaveRunning (p.jobs.eraseIdx i) (some (compareDoneEvent c)) p)
  else settle ({ post (compareDoneEvent c) p with jobs := p.jobs.eraseIdx i }, [.headStart])

def cmdJobCancel (position : Byte) : Command := fun p =>
  match p.jobs[position.toNat]? with
  | none => refuse .badValue p
  | some j =>
    match j.kind with
    | .catchUp _ => refuse .badState p
    | .compare c => done (cancelJob position.toNat j c p)

def execJobCancel (seq position : Byte) (s : State) : Host.Outcome State Fault Refusal :=
  onFrame seq 0x42#8 (cmdJobCancel position) s

end Sys2Proof.Machine
end

