-- ==== Sys2Proof/Machine/Ports.lean ====
section
/-! DEFINITION. The memory ports' steps: grants, link changes, timers, responses, and the outcomes and claims that other
blocks take from them (ch. 5, R16, R68, R127). -/

namespace Sys2Proof.Machine

/-! ## Link loss (R85) -/

/-- Every queue entry leaves in entry order with a failed outcome (R85 step 2, R91). -/
def failedOutcomes (q : Port) (why : Reason) (x : PortState) : List Handed :=
  x.queue.map (fun t => { port := q, origin := t.origin, result := .failed why })

/-- The port's own part of an entry into FAILED or OFF: timers stopped, queue and held slots emptied, outcomes and the
link-loss claim handed over (R85 steps 1 to 3 and 5). -/
def dropLink (q : Port) (dest : Link) (why : Reason) (p : Part) : Part :=
  let x := p.port q
  { p.setPort q { x with link := dest, queue := [], held := [], trainingSince := none, wakeSince := none,
                         silenceSince := none, passOver := 0 } with
    handed := p.handed ++ failedOutcomes q why x
    lossClaims := p.lossClaims ++ [(q, why)] }

/-- Entry of a link into FAILED or OFF with its events; then the copy engine and the dispatcher end their waits there
(R85; the order of posts and waits is log 5's, the order of the two blocks log 6's). -/
def loseLink (q : Port) (dest : Link) (why : Reason) (events : List EventBody) (p : Part) : Part :=
  settle (postAll events (dropLink q dest why p), [.claimLost q, .serveLost])

def linkFailedEvent (q : Port) (why : Reason) : EventBody :=
  { kind := .portLinkFailed, port := some q, detail := reasonCode why }

/-- A link failure with reason LINK (R84). -/
def failLink (q : Port) (p : Part) : Part := loseLink q .failed .link [linkFailedEvent q .link] p

/-! ## GRANT (R94, R95, R96) -/

/-- The dispatcher waits at the port (R12, R94). -/
def dispatcherWaits (p : Part) (q : Port) : Bool := (presented p q).isSome

/-- The arbiter's choice: the engine when it alone waits, or when both wait and the pass-over count has reached the
copy weight (R95). -/
def grantsToEngine (p : Part) (q : Port) : Bool :=
  (copyClaimAt p q).isSome && (!dispatcherWaits p q || (p.port q).weight ≤ (p.port q).passOver)

/-- The first grant at a DROWSY port makes the link WAKING and starts the wake timer (R83, R100). -/
def startWake (q : Port) (p : Part) : Part :=
  let x := p.port q
  if x.link == .drowsy then (p.setPort q { x with link := .waking, wakeSince := some p.now }).out (.wakeUp q) else p

/-- The window after its claim at a port has been granted (R121, R127). -/
def windowGranted (c : Claim) (w : Window) : Window :=
  match c.part with
  | .targetWrite => { dropClaim c.port w with phase := .writing, data := [] }
  | .sourceRead => { dropClaim c.port w with phase := .reading }
  | .compareRead => { dropClaim c.port w with phase := .reading }

/-- A grant to the copy engine places its transaction in the slot and returns the pass-over count to 0 (R94, R96,
R122). -/
def grantEngine (q : Port) (k : SlotIx) (c : Claim) (p : Part) : Act :=
  let p := clearPassOver q (startWake q p)
  let p := placeTxn q k (.copy c.part) c.op c.addr p
  (p.setWindow (p.window.map (windowGranted c)), [.giveBack q])

/-- A slot is held for the presented entry; the count rises when the engine waits too (R13, R96). -/
def holdSlot (q : Port) (k : SlotIx) (tag : Tag) (engineWaits : Bool) (p : Part) : Part :=
  let x := p.port q
  p.setPort q { x with held := x.held ++ [(k, tag)], silenceSince := none,
                       passOver := if engineWaits then x.passOver + 1 else x.passOver }

/-- A grant to the dispatcher: the presented entry receives the slot; a READ or a DIRECT write is placed by it, a
MIRROR write when it holds every slot it needs (R12, R14, R15, R94). No rule orders the give-back of R13 at this event
against what the write notice sets off, the source choice of R126 among it: the notice comes first (DESIGN CHOICE, log
29). -/
def grantDispatcher (q : Port) (k : SlotIx) (e : Entry) (p : Part) : Act :=
  let p := holdSlot q k e.tag (copyClaimAt p q).isSome (startWake q p)
  if e.kind == .write && isMirrorEntry p e then
    let (p, ts) := placeIfComplete e.tag p
    (p, ts ++ [.giveBack q])
  else (placeSingle e q k p, [.giveBack q])

/-- One grant: a free slot, a waiting claimant and a link that grants are needed (R94). -/
def grantAct (q : Port) (k : SlotIx) (p : Part) : Act :=
  if portDown p q || !slotFree (p.port q) k then (p, [])
  else if grantsToEngine p q then
    match copyClaimAt p q with
    | some c => grantEngine q k c p
    | none => (p, [])
  else match presented p q with
    | some e => grantDispatcher q k e p
    | none => (p, [])

/-- GRANT (R94). -/
def execGrant (q : Port) (k : SlotIx) (s : State) : Host.Outcome State Fault Refusal :=
  onPart (fun p => settle (grantAct q k p)) s

/-! ## Ready reports, timers, link errors -/

/-- DEVICE_READY: ends TRAINING with PORT_LINK_UP, or WAKING; ignored in every other state (R80, R81, R83). -/
def deviceReady (q : Port) (p : Part) : Part :=
  match (p.port q).link with
  | .training => post { kind := .portLinkUp, port := some q } (enterActive q p)
  | .waking => enterActive q p
  | .off => p
  | .active => p
  | .drowsy => p
  | .failed => p

def execDeviceReady (q : Port) (s : State) : Host.Outcome State Fault Refusal := onPart (deviceReady q) s

/-- TRAINING_TIMER_EXPIRY (R80). -/
def trainingExpiry (q : Port) (p : Part) : Part :=
  match (p.port q).link, (p.port q).trainingSince with
  | .training, some t =>
    loseLink q .failed .link [linkFailedEvent q .training] (reachTime (t + Config.trainingMicros) p)
  | _, _ => p

def execTrainingTimerExpiry (q : Port) (s : State) : Host.Outcome State Fault Refusal := onPart (trainingExpiry q) s

/-- SILENCE_TIMER_EXPIRY: an idle ACTIVE link becomes DROWSY, without an event (R82, R100). -/
def silenceExpiry (q : Port) (p : Part) : Part :=
  let x := p.port q
  match x.silenceSince, silenceMicros x.silence with
  | some t, some d =>
    let p := reachTime (t + d) p
    (p.setPort q { x with link := .drowsy, silenceSince := none }).out (.powerDown q)
  | _, _ => p

def execSilenceTimerExpiry (q : Port) (s : State) : Host.Outcome State Fault Refusal := onPart (silenceExpiry q) s

/-- WAKE_TIMER_EXPIRY: WAKE_FAILED, then PORT_LINK_FAILED with reason LINK (R83). -/
def wakeExpiry (q : Port) (p : Part) : Part :=
  match (p.port q).link, (p.port q).wakeSince with
  | .waking, some t =>
    loseLink q .failed .link [{ kind := .wakeFailed, port := some q }, linkFailedEvent q .link]
      (reachTime (t + Config.wakeMicros) p)
  | _, _ => p

def execWakeTimerExpiry (q : Port) (s : State) : Host.Outcome State Fault Refusal := onPart (wakeExpiry q) s

/-- LINK_ERROR: taken in TRAINING, ACTIVE and WAKING, ignored otherwise (R84). -/
def linkError (q : Port) (p : Part) : Part :=
  match (p.port q).link with
  | .training => failLink q p
  | .active => failLink q p
  | .waking => failLink q p
  | .off => p
  | .drowsy => p
  | .failed => p

def execLinkError (q : Port) (s : State) : Host.Outcome State Fault Refusal := onPart (linkError q) s

/-- RESPONSE_TIMER_EXPIRY: the oldest SENT entry has reached the timeout, and the queue is flushed (R92). -/
def responseExpiry (q : Port) (p : Part) : Part :=
  match (p.port q).link, (oldestSent (p.port q)).bind (·.sentAt), timeoutMicros (p.port q).timeoutIx with
  | .active, some t, some d =>
    loseLink q .failed .timeout [linkFailedEvent q .timeout] (reachTime (t + d) p)
  | _, _, _ => p

def execResponseTimerExpiry (q : Port) (s : State) : Host.Outcome State Fault Refusal := onPart (responseExpiry q) s

/-! ## Responses (R89, R90) -/

/-- The outcome a response gives an entry, when its form suits the entry's kind: a READ takes data, a WRITE none,
ERROR suits either (R89). -/
def responseResult : Op → DevResponse → Option TxnResult
  | .read, .okData d => some (.ok (some d))
  | .write _ _, .ok => some (.ok none)
  | .read, .error => some .error
  | .write _ _, .error => some .error
  | .read, .ok => none
  | .write _ _, .okData _ => none

/-- A response is taken: the entry leaves the queue with its outcome, and the silence timer is restarted (R89). -/
def takeResponse (q : Port) (t : QEntry) (result : TxnResult) (p : Part) : Part :=
  let x := p.port q
  { p.setPort q (restartSilence p.now { x with queue := x.queue.filter (fun u => u.slot != t.slot) }) with
    handed := p.handed ++ [{ port := q, origin := t.origin, result := result }] }

/-- DEVICE_RESPONSE: taken, discarded, or treated as a link error (R89, R90). -/
def deviceResponse (q : Port) (k : SlotIx) (resp : DevResponse) (p : Part) : Part :=
  let x := p.port q
  if x.link != .active then p
  else match x.queue.find? (fun t => t.slot == k && t.sentAt.isSome) with
    | none => p
    | some t =>
      match responseResult t.op resp with
      | some result => takeResponse q t result p
      | none => failLink q p

def execDeviceResponse (q : Port) (k : SlotIx) (resp : DevResponse) (s : State) : Host.Outcome State Fault Refusal :=
  onPart (deviceResponse q k resp) s

/-! ## What the owners take -/

/-- HOST_OUTCOME: the dispatcher takes the oldest outcome the port has handed it (R16, R20, R91). R91 orders the outcomes of
one event; that an older event's outcomes are taken first is DESIGN CHOICE (log 27). -/
def hostOutcome (q : Port) (p : Part) : Part :=
  match takeFirst (fun h => h.port == q && isHost h.origin) p.handed with
  | some (h, rest) =>
    match h.origin with
    | .host tag => settle (takeHostOutcome tag q h.result { p with handed := rest })
    | .copy _ => p
  | none => p

def execHostOutcome (q : Port) (s : State) : Host.Outcome State Fault Refusal := onPart (hostOutcome q) s

/-- COPY_OUTCOME: the copy engine takes the oldest outcome the port has handed it (R91, R123, R127, R129, R134). R91 orders
the outcomes of one event; that an older event's outcomes are taken first is DESIGN CHOICE (log 27). -/
def copyOutcome (q : Port) (p : Part) : Part :=
  match takeFirst (fun h => h.port == q && isCopy h.origin) p.handed with
  | some (h, rest) =>
    match h.origin with
    | .copy part => settle (takeCopyOutcome part q h.result { p with handed := rest })
    | .host _ => p
  | none => p

def execCopyOutcome (q : Port) (s : State) : Host.Outcome State Fault Refusal := onPart (copyOutcome q) s

/-- LINK_LOSS_CLAIM: the membership machine takes the port's oldest claim (R68). -/
def linkLossClaim (q : Port) (p : Part) : Part :=
  match takeFirst (fun c => c.1 == q) p.lossClaims with
  | some (c, rest) => settle (linkLossWorks q c.2 { p with lossClaims := rest })
  | none => p

def execLinkLossClaim (q : Port) (s : State) : Host.Outcome State Fault Refusal := onPart (linkLossClaim q) s

end Sys2Proof.Machine
end

