-- ==== Sys2Proof/Machine/PortCommands.lean ====
section
/-! DEFINITION. The commands on ports and memberships: PORT_ENABLE, PORT_DISABLE, PORT_SETUP, PORT_READ, DETACH,
REJOIN, DIVERGENCE_READ (R79, R86, R97, R98, R70, R71, R116). -/

namespace Sys2Proof.Machine

/-- The port a payload names, when its reserved byte is zero (R171). -/
def cleanPort (port reserved : Byte) : Option Port := if reserved == 0#8 then portOf port else none

/-! ## PORT_ENABLE (R79) -/

/-- Bring-up begins (R79, R100). -/
def enablePort (q : Port) (p : Part) : Part :=
  (p.setPort q { p.port q with link := .training, trainingSince := some p.now }).out (.bringUp q)

def cmdPortEnable (port reserved : Byte) : Command := fun p =>
  match cleanPort port reserved with
  | none => refuse .badValue p
  | some q => if portDown p q then done (enablePort q p) else refuse .badState p

def execPortEnable (seq port reserved : Byte) (s : State) : Host.Outcome State Fault Refusal :=
  onFrame seq 0x20#8 (cmdPortEnable port reserved) s

/-! ## PORT_DISABLE (R86) -/

/-- A DIRECT region in use has its member on the port (R86 check 1). -/
def servesDirect (p : Part) (q : Port) : Bool :=
  allRegions.any (fun r => inUse (p.region r) && (p.region r).mode == .direct && (memberAt (p.region r) q).isSome)

/-- The link becomes OFF with the effects of R85 and no event of its own (R86, R100). -/
def disablePort (q : Port) (p : Part) : Part :=
  if (p.port q).link == .off then p else loseLink q .off .link [] (p.out (.shutDown q))

def cmdPortDisable (port reserved : Byte) : Command := fun p =>
  match cleanPort port reserved with
  | none => refuse .badValue p
  | some q =>
    if servesDirect p q then refuse .badState p
    else if holdsLastReplica p q then refuse .lastReplica p
    else done (disablePort q p)

def execPortDisable (seq port reserved : Byte) (s : State) : Host.Outcome State Fault Refusal :=
  onFrame seq 0x21#8 (cmdPortDisable port reserved) s

/-! ## PORT_SETUP (R97) -/

/-- The three settings are values they may be. -/
def settingsFit (timeout silence weight : Byte) : Bool :=
  timeout.toNat ≤ 5 && silence.toNat ≤ 4 && 1 ≤ weight.toNat && weight.toNat ≤ 15

/-- The settings replaced; a changed silence setting restarts or stops the silence timer (R82, R97). -/
def setUpPort (now timeout silence weight : Nat) (x : PortState) : PortState :=
  let y := { x with timeoutIx := timeout, silence := silence, weight := weight }
  if x.silence == silence then y else restartSilence now y

def cmdPortSetup (port timeout silence weight : Byte) : Command := fun p =>
  match portOf port with
  | none => refuse .badValue p
  | some q =>
    if settingsFit timeout silence weight then
      done (p.setPort q (setUpPort p.now timeout.toNat silence.toNat weight.toNat (p.port q)))
    else refuse .badValue p

def execPortSetup (seq port timeout silence weight : Byte) (s : State) : Host.Outcome State Fault Refusal :=
  onFrame seq 0x22#8 (cmdPortSetup port timeout silence weight) s

/-! ## PORT_READ (R98) -/

/-- The nine bytes of PORT_READ. -/
def portRecord (x : PortState) : List Byte :=
  [byte1 (linkCode x.link), byte1 (occupancy x), byte1 (x.queue.countP (fun t => t.sentAt.isNone)),
   byte1 (x.queue.countP (fun t => t.sentAt.isSome)), byte1 x.held.length, byte1 x.timeoutIx, byte1 x.silence,
   byte1 x.weight, byte1 x.passOver]

def cmdPortRead (port : Byte) : Command := fun p =>
  match portOf port with
  | some q => (p, .ok, portRecord (p.port q))
  | none => refuse .badValue p

def execPortRead (seq port : Byte) (s : State) : Host.Outcome State Fault Refusal :=
  onFrame seq 0x23#8 (cmdPortRead port) s

/-! ## DETACH and REJOIN (R70, R71) -/

/-- The effects of DETACH: the states, then the withdrawal of the port's catch-up job (R70, R120). -/
def detachPort (q : Port) (p : Part) : Part := settle (leaveCatchUp q none (allRegions.foldl (detachAt q) p))

def cmdDetach (port reserved : Byte) : Command := fun p =>
  match cleanPort port reserved with
  | none => refuse .badValue p
  | some q => if holdsLastReplica p q then refuse .lastReplica p else done (detachPort q p)

def execDetach (seq port reserved : Byte) (s : State) : Host.Outcome State Fault Refusal :=
  onFrame seq 0x30#8 (cmdDetach port reserved) s

/-- The link states in which REJOIN is taken (R71 check 1). -/
def rejoinableLink (l : Link) : Bool := l == .active || l == .drowsy || l == .waking

/-- The effects of REJOIN: the states with the waiting writes' targets, the give-back their new waits may cause, and the
catch-up request (R13, R54, R71). No rule orders that give-back against the start of the job at that event, its source
choice (R126) among it: the give-back comes first (DESIGN CHOICE, log 29). -/
def rejoinPort (q : Port) (p : Part) : Part :=
  settle (requestCatchUp q (allRegions.foldl (rejoinAt q) p), [.giveBack q, .headStart])

def cmdRejoin (port reserved : Byte) : Command := fun p =>
  match cleanPort port reserved with
  | none => refuse .badValue p
  | some q =>
    if rejoinableLink (p.port q).link && hasOutOfService p q then done (rejoinPort q p) else refuse .badState p

def execRejoin (seq port reserved : Byte) (s : State) : Host.Outcome State Fault Refusal :=
  onFrame seq 0x31#8 (cmdRejoin port reserved) s

/-! ## DIVERGENCE_READ (R116, R174) -/

/-- The payload of DIVERGENCE_READ: run count, number returned, at most 16 runs from the start index on. -/
def divergenceRecord (l : List Run) (start : Nat) : List Byte :=
  let runs := (l.drop start).take 16
  [byte1 l.length, byte1 runs.length] ++ runs.flatMap runBytes

def cmdDivergenceRead (port start : Byte) : Command := fun p =>
  match portOf port with
  | some q => (p, .ok, divergenceRecord (p.divList q) start.toNat)
  | none => refuse .badValue p

def execDivergenceRead (seq port start : Byte) (s : State) : Host.Outcome State Fault Refusal :=
  onFrame seq 0x38#8 (cmdDivergenceRead port start) s

end Sys2Proof.Machine
end

