-- ==== Sys2Proof/Machine/RegionCommands.lean ====
section
/-! DEFINITION. The region map's commands: REGION_STAGE, REGION_COMMIT, REGION_RETIRE and REGION_READ (ch. 2, R172). -/

namespace Sys2Proof.Machine

/-! ## REGION_STAGE (R29, R172) -/

/-- The member slots of a staging record. -/
def stageSlots (x : StageRecord) : List MemberSlot := [x.slot0, x.slot1, x.slot2]

/-- The three bytes of a member slot are zero. -/
def slotClear (m : MemberSlot) : Bool := m.port == 0#8 && m.base == 0#16

/-- Every byte that R172 reserves in a staging record is zero. A count of 0 reserves the three slots, a count above 3
none. -/
def stageReservedClear (x : StageRecord) : Bool :=
  x.reserved == 0#16 && (x.policy == 1#8 || x.preferred == 0#8) &&
  ((stageSlots x).drop x.count.toNat).all slotClear

/-- A member slot with a port and a base it may hold (R29 check 3). -/
def stagedMember (m : MemberSlot) : Option Member :=
  match portOf m.port with
  | some q => if m.base.toNat < Config.downGranules then some { port := q, base := m.base.toNat, state := none } else none
  | none => none

/-- The members of a staging record, in the order staged; none when one of them holds a value it may not (R29). -/
def stagedMembers : List MemberSlot → Option (List Member)
  | [] => some []
  | m :: ms =>
    match stagedMember m, stagedMembers ms with
    | some x, some xs => some (x :: xs)
    | some _, none => none
    | none, some _ => none
    | none, none => none

/-- Size and member count are values they may be (R29 check 3). -/
def stageCountsFit (x : StageRecord) : Bool :=
  1 ≤ x.size.toNat && x.size.toNat ≤ Config.maxRegionGranules && 1 ≤ x.count.toNat && x.count.toNat ≤ 3

/-- The entry a staging record describes, when every field holds a value it may hold on its own (R29 check 3). -/
def stagedRegion (x : StageRecord) : Option Region :=
  match modeOf x.mode, policyOf x.policy, stagedMembers ((stageSlots x).take x.count.toNat) with
  | some mode, some policy, some members =>
    if stageCountsFit x && (policy != .preferred || (portOf x.preferred).isSome) then
      some { Region.cleared with
        state := .staged, base := x.base.toNat, size := x.size.toNat, mode := mode, members := members,
        policy := policy, preferred := if policy == .preferred then portOf x.preferred else none }
    else none
  | _, _, _ => none

/-- REGION_STAGE with its checks in order (R29). -/
def cmdRegionStage (x : StageRecord) : Command := fun p =>
  match regionOf x.region with
  | none => refuse .badValue p
  | some r =>
    if !stageReservedClear x then refuse .badValue p
    else if inUse (p.region r) then refuse .badState p
    else match stagedRegion x with
      | some y => done (p.setRegion r y)
      | none => refuse .badValue p

def execRegionStage (seq : Byte) (x : StageRecord) (s : State) : Host.Outcome State Fault Refusal :=
  onFrame seq 0x10#8 (cmdRegionStage x) s

/-! ## REGION_COMMIT (R30 to R34) -/

/-- How a commit sets the copies up (R30). -/
inductive Init where
  | trust | copy
deriving DecidableEq, Repr

/-- The init byte (R171). -/
def initOf (b : Byte) : Option Init := if b = 0#8 then some .trust else if b = 1#8 then some .copy else none

/-- The ports of a list of members are distinct. -/
def distinctPorts : List Member → Bool
  | [] => true
  | m :: ms => ms.all (fun x => x.port != m.port) && distinctPorts ms

/-- The member count suits the mode (R30 check 2). -/
def countSuitsMode (x : Region) : Bool :=
  match x.mode with
  | .direct => x.members.length == 1
  | .mirror => x.members.length == 2 || x.members.length == 3

/-- The preferred port of a MIRROR region with policy PREFERRED is a member (R30 check 2). -/
def preferredIsMember (x : Region) : Bool :=
  x.mode != .mirror || x.policy != .preferred ||
    match x.preferred with
    | some q => x.members.any (fun m => m.port == q)
    | none => false

/-- Check 2 of R30. -/
def commitFits (x : Region) : Bool :=
  x.base + x.size ≤ Config.upGranules && x.members.all (fun m => m.base + x.size ≤ Config.downGranules) &&
  countSuitsMode x && distinctPorts x.members && preferredIsMember x

/-- Two ranges of granules have one in common (R31). -/
def rangesOverlap (a m b n : Nat) : Bool := a < b + n && b < a + m

/-- Check 3 of R30: an upstream overlap with a region in use (R31). -/
def upstreamOverlap (p : Part) (x : Region) : Bool :=
  allRegions.any (fun r => inUse (p.region r) && rangesOverlap x.base x.size (p.region r).base (p.region r).size)

/-- Two downstream windows on one port overlap (R31). -/
def windowsOverlap (x y : Region) : Bool :=
  x.members.any (fun m => y.members.any (fun n => m.port == n.port && rangesOverlap m.base x.size n.base y.size))

/-- Check 4 of R30: a downstream overlap with a membership of a region in use (R31). -/
def downstreamOverlap (p : Part) (x : Region) : Bool :=
  allRegions.any (fun r => inUse (p.region r) && windowsOverlap x (p.region r))

/-- Check 5 of R30: the primary is a member's port. -/
def primaryIsMember (x : Region) (primary : Byte) : Bool := x.members.any (fun m => m.port.val == primary.toNat)

/-- The first commit check that fails, with its status (R30). -/
def commitRefusal (p : Part) (r : RegionIx) (init : Init) (primary : Byte) : Option Status :=
  let x := p.region r
  if x.state != .staged then some .badState
  else if !commitFits x then some .badValue
  else if upstreamOverlap p x then some .overlap
  else if downstreamOverlap p x then some .overlap
  else if init == .copy && !primaryIsMember x primary then some .badValue
  else none

/-- The first state of a non-primary membership of a COPY commit (R33). -/
def copyState (l : Link) : MState :=
  match l with
  | .active => .rejoining
  | .drowsy => .rejoining
  | .waking => .rejoining
  | .off => .faulted
  | .training => .faulted
  | .failed => .faulted

/-- A member's first state (R24, R32, R33, R72). -/
def firstState (p : Part) (mode : Mode) (init : Init) (primary : Byte) (m : Member) : Option MState :=
  match mode, init with
  | .direct, _ => none
  | .mirror, .trust => some .inService
  | .mirror, .copy => some (if m.port.val == primary.toNat then .inService else copyState (p.port m.port).link)

/-- The entry made LIVE with its membership states set (R34 steps 1 and 3). -/
def committed (p : Part) (x : Region) (init : Init) (primary : Byte) : Region :=
  { x with state := .live, alternate := none, inFlight := 0,
           members := x.members.map (fun m => { m with state := firstState p x.mode init primary m }) }

/-- The members whose copies are to be written: those that do not enter IN_SERVICE, ascending (R33). -/
def stalePorts (x : Region) : List Port :=
  allPorts.filter (fun q => x.members.any (fun m => m.port == q && m.state.isSome && m.state != some .inService))

/-- The effects of a passing commit, in the order of R34; the head may start when a catch-up job is requested (R119). -/
def commitRegion (r : RegionIx) (init : Init) (primary : Byte) (p : Part) : Part :=
  let x := committed p (p.region r) init primary
  let p := (stalePorts x).foldl (fun p q => insertRegion r q p) (p.setRegion r x)
  let p := post { kind := .regionLive, region := some r } p
  let rejoining := (stalePorts x).filter (fun q => mstate p r q == some .rejoining)
  settle (rejoining.foldl (fun p q => requestCatchUp q p) p, if rejoining.isEmpty then [] else [.headStart])

/-- REGION_COMMIT (R30). -/
def cmdRegionCommit (region init primary reserved : Byte) : Command := fun p =>
  if reserved != 0#8 then refuse .badValue p
  else match regionOf region, initOf init with
    | some r, some i =>
      match commitRefusal p r i primary with
      | some st => refuse st p
      | none => done (commitRegion r i primary p)
    | _, _ => refuse .badValue p

def execRegionCommit (seq region init primary reserved : Byte) (s : State) : Host.Outcome State Fault Refusal :=
  onFrame seq 0x11#8 (cmdRegionCommit region init primary reserved) s

/-! ## REGION_RETIRE (R35 to R38, R136) -/

/-- The running compare job ends when it is on the region (R120, R136). -/
def endComparesOf (r : RegionIx) (p : Part) : Act :=
  match runningCompare p with
  | some c => if c.region == r then endRunning p.jobs.tail (some (compareDoneEvent c)) p else (p, [])
  | none => (p, [])

/-- What follows an entry's becoming RETIRING: the compare jobs on it end in queue order, then the drain check, then a
new head may start (R35, R120, R136, log 16). -/
def retireFollowers (r : RegionIx) (p : Part) : Act :=
  let (p, ts) := endComparesOf r p
  (endQueuedCompares r p, .drainCheck r :: .headStart :: ts)

/-- A LIVE entry becomes RETIRING (R35). -/
def retireRegion (r : RegionIx) (p : Part) : Part :=
  settle (retireFollowers r (p.setRegion r { p.region r with state := .retiring }))

/-- REGION_RETIRE (R35): the payload is the entry's state after the command. -/
def cmdRegionRetire (region reserved : Byte) : Command := fun p =>
  if reserved != 0#8 then refuse .badValue p
  else match regionOf region with
    | none => refuse .badValue p
    | some r =>
      if (p.region r).state != .live then refuse .badState p
      else
        let p := retireRegion r p
        (p, .ok, [byte1 (regionStateCode (p.region r).state)])

def execRegionRetire (seq region reserved : Byte) (s : State) : Host.Outcome State Fault Refusal :=
  onFrame seq 0x12#8 (cmdRegionRetire region reserved) s

/-! ## REGION_READ (R40, R172) -/

/-- The member of a slot, in the order staged. -/
def memberSlot (x : Region) (i : Nat) : Option Member := x.members[i]?

/-- Port and base bytes of a member slot (R172). -/
def slotBytes : Option Member → List Byte
  | some m => byte1 m.port.val :: be2 m.base
  | none => absentByte :: be2 0

/-- Membership state byte: 0FFh for no member and for a member without a state (R172). -/
def stateByte (m : Option Member) : Byte :=
  match m.bind (·.state) with
  | some st => byte1 (mstateCode st)
  | none => absentByte

/-- A field that a FREE entry reports as absent. -/
def unlessFree (x : Region) (b : Byte) : Byte := if x.state == .free then absentByte else b

/-- The 28 bytes of a region record (R172). -/
def regionRecord (r : RegionIx) (x : Region) : List Byte :=
  [byte1 r.val, unlessFree x (byte1 (modeCode x.mode))] ++ be2 x.base ++ be2 x.size ++
  [unlessFree x (byte1 (policyCode x.policy)), portByte x.preferred, byte1 x.members.length] ++
  slotBytes (memberSlot x 0) ++ slotBytes (memberSlot x 1) ++ slotBytes (memberSlot x 2) ++ [0#8, 0#8] ++
  [byte1 (regionStateCode x.state), portByte x.alternate, byte1 x.inFlight,
   stateByte (memberSlot x 0), stateByte (memberSlot x 1), stateByte (memberSlot x 2), 0#8, 0#8]

/-- REGION_READ (R40). -/
def cmdRegionRead (region reserved : Byte) : Command := fun p =>
  if reserved != 0#8 then refuse .badValue p
  else match regionOf region with
    | some r => (p, .ok, regionRecord r (p.region r))
    | none => refuse .badValue p

def execRegionRead (seq region reserved : Byte) (s : State) : Host.Outcome State Fault Refusal :=
  onFrame seq 0x13#8 (cmdRegionRead region reserved) s

end Sys2Proof.Machine
end

