-- ==== Sys2Proof/Machine/UnitCommands.lean ====
section
/-! DEFINITION. The commands of the management port itself and of the event unit: IDENT, STATUS, SET_KEY, EVENT_FETCH,
FAULT_CLEAR and FAULT_MASK (R153 to R155, R162, R165, R166). -/

namespace Sys2Proof.Machine

/-- IDENT (R154). -/
def cmdIdent : Command := fun p =>
  (p, .ok, be2 Config.vendorCode ++ be2 Config.partCode ++ [byte1 Config.revision, 4#8, 16#8])

def execIdent (seq : Byte) (s : State) : Host.Outcome State Fault Refusal := onFrame seq 0x01#8 cmdIdent s

/-! ## STATUS (R155, R173) -/

/-- One member slot of STATUS: port in the high half, state in the low half, 0Fh for a DIRECT member, 0FFh for none. -/
def statusSlot (x : Region) (i : Nat) : Byte :=
  if inUse x then
    match x.members[i]? with
    | some m => byte1 (16 * m.port.val + (match m.state with | some st => mstateCode st | none => 15))
    | none => absentByte
  else absentByte

/-- The four bytes of a region in STATUS. -/
def statusRegion (x : Region) : List Byte :=
  [byte1 (regionStateCode x.state), statusSlot x 0, statusSlot x 1, statusSlot x 2]

/-- The three job bytes of STATUS: kind, started flag, target port or region. -/
def headBytes (jobs : List Job) : List Byte :=
  match jobs with
  | [] => [0#8, 0#8, absentByte]
  | j :: _ =>
    match j.kind with
    | .catchUp q => [1#8, boolByte j.started, byte1 q.val]
    | .compare c => [2#8, boolByte j.started, byte1 c.region.val]

/-- The 79 bytes of STATUS (R173). -/
def statusRecord (p : Part) : List Byte :=
  allPorts.map (fun q => byte1 (linkCode (p.port q).link)) ++
  allRegions.flatMap (fun r => statusRegion (p.region r)) ++
  headBytes p.jobs ++ [byte1 (phaseCode (p.window.map (·.phase)))] ++
  be2 (flagWord p.events.summary).toNat ++ be2 (flagWord p.events.mask).toNat ++
  [byte1 p.events.queue.length] ++ be2 p.events.next.toNat

def cmdStatus : Command := fun p => (p, .ok, statusRecord p)

def execStatus (seq : Byte) (s : State) : Host.Outcome State Fault Refusal := onFrame seq 0x02#8 cmdStatus s

/-! ## SET_KEY (R153) -/

def cmdSetKey (key : Byte) : Command := fun p => done { p with mgmt := { p.mgmt with key := key } }

def execSetKey (seq key : Byte) (s : State) : Host.Outcome State Fault Refusal := onFrame seq 0x03#8 (cmdSetKey key) s

/-! ## EVENT_FETCH (R162, R175) -/

/-- The payload of EVENT_FETCH. -/
def fetchRecord (taken : List EventRec) (left : Nat) (next : BitVec 16) : List Byte :=
  [byte1 taken.length, byte1 left] ++ be2 next.toNat ++ taken.flatMap eventBytes

/-- The event unit with its n oldest records removed. -/
def fetchFrom (u : EventUnit) (n : Nat) : EventUnit := { u with queue := u.queue.drop n }

def cmdEventFetch (n : Byte) : Command := fun p =>
  if 8 < n.toNat then refuse .badValue p
  else
    let u := fetchFrom p.events n.toNat
    ({ p with events := u }, .ok, fetchRecord (p.events.queue.take n.toNat) u.queue.length u.next)

def execEventFetch (seq n : Byte) (s : State) : Host.Outcome State Fault Refusal :=
  onFrame seq 0x50#8 (cmdEventFetch n) s

/-! ## FAULT_CLEAR and FAULT_MASK (R165, R166) -/

def cmdFaultClear (flags : BitVec 16) : Command := fun p =>
  if flagsReservedClear flags then
    done { p with events := { p.events with summary := p.events.summary &&& ~~~(flagsOf flags) } }
  else refuse .badValue p

def execFaultClear (seq : Byte) (flags : BitVec 16) (s : State) : Host.Outcome State Fault Refusal :=
  onFrame seq 0x51#8 (cmdFaultClear flags) s

def cmdFaultMask (flags : BitVec 16) : Command := fun p =>
  if flagsReservedClear flags then done { p with events := { p.events with mask := flagsOf flags } }
  else refuse .badValue p

def execFaultMask (seq : Byte) (flags : BitVec 16) (s : State) : Host.Outcome State Fault Refusal :=
  onFrame seq 0x52#8 (cmdFaultMask flags) s

end Sys2Proof.Machine
end

