-- ==== Sys2Proof/Machine/Receiver.lean ====
section
/-! DEFINITION. MGMT_CHARACTER: the receiver, the taking of a complete frame, and the length and code tests (R142 to R148,
section 8.5). -/

namespace Sys2Proof.Machine

/-! ## The commands by their codes -/

/-- Payload length of a command; none for a code that section 8.5 does not list. -/
def payloadLength (code : Byte) : Option Nat :=
  match code.toNat with
  | 0x01 => some 0
  | 0x02 => some 0
  | 0x03 => some 1
  | 0x10 => some 20
  | 0x11 => some 4
  | 0x12 => some 2
  | 0x13 => some 2
  | 0x20 => some 2
  | 0x21 => some 2
  | 0x22 => some 4
  | 0x23 => some 1
  | 0x30 => some 2
  | 0x31 => some 2
  | 0x38 => some 2
  | 0x40 => some 7
  | 0x41 => some 0
  | 0x42 => some 1
  | 0x50 => some 1
  | 0x51 => some 2
  | 0x52 => some 2
  | _ => none

/-- A byte of a payload that has the length its command takes. -/
def byteAt (d : List Byte) (i : Nat) : Byte := d.getD i 0#8

/-- Two bytes of a payload, high byte first. -/
def wordAt (d : List Byte) (i : Nat) : BitVec 16 := word2 (byteAt d i) (byteAt d (i + 1))

/-- Three bytes of a payload, high byte first. -/
def tripleAt (d : List Byte) (i : Nat) : BitVec 24 := word3 (byteAt d i) (byteAt d (i + 1)) (byteAt d (i + 2))

/-- The staging record of a 20-byte payload (R172). -/
def stageRecordAt (d : List Byte) : StageRecord where
  region := byteAt d 0
  mode := byteAt d 1
  base := wordAt d 2
  size := wordAt d 4
  policy := byteAt d 6
  preferred := byteAt d 7
  count := byteAt d 8
  slot0 := { port := byteAt d 9, base := wordAt d 10 }
  slot1 := { port := byteAt d 12, base := wordAt d 13 }
  slot2 := { port := byteAt d 15, base := wordAt d 16 }
  reserved := wordAt d 18

/-- The owning block's command for a code and a payload of the right length (section 8.5, R171). -/
def ownerCommand (code : Byte) (d : List Byte) : Command :=
  match code.toNat with
  | 0x01 => cmdIdent
  | 0x02 => cmdStatus
  | 0x03 => cmdSetKey (byteAt d 0)
  | 0x10 => cmdRegionStage (stageRecordAt d)
  | 0x11 => cmdRegionCommit (byteAt d 0) (byteAt d 1) (byteAt d 2) (byteAt d 3)
  | 0x12 => cmdRegionRetire (byteAt d 0) (byteAt d 1)
  | 0x13 => cmdRegionRead (byteAt d 0) (byteAt d 1)
  | 0x20 => cmdPortEnable (byteAt d 0) (byteAt d 1)
  | 0x21 => cmdPortDisable (byteAt d 0) (byteAt d 1)
  | 0x22 => cmdPortSetup (byteAt d 0) (byteAt d 1) (byteAt d 2) (byteAt d 3)
  | 0x23 => cmdPortRead (byteAt d 0)
  | 0x30 => cmdDetach (byteAt d 0) (byteAt d 1)
  | 0x31 => cmdRejoin (byteAt d 0) (byteAt d 1)
  | 0x38 => cmdDivergenceRead (byteAt d 0) (byteAt d 1)
  | 0x40 => cmdCompare (byteAt d 0) (tripleAt d 1) (tripleAt d 4)
  | 0x41 => cmdJobRead
  | 0x42 => cmdJobCancel (byteAt d 0)
  | 0x50 => cmdEventFetch (byteAt d 0)
  | 0x51 => cmdFaultClear (wordAt d 0)
  | 0x52 => cmdFaultMask (wordAt d 0)
  | _ => refuse .badCommand

/-- The length and code tests, then the owning block (R148). -/
def testedCommand (code declared : Byte) (d : List Byte) : Command :=
  if d.length < declared.toNat then refuse .lengthShort
  else if declared.toNat < d.length then refuse .lengthLong
  else match payloadLength code with
    | none => refuse .badCommand
    | some n => if d.length == n then ownerCommand code d else refuse .badLength

/-! ## Taking a frame (R147) -/

/-- The payload of a command body: what lies between the declared length and the check (R145). -/
def bodyPayload (body : List Byte) : List Byte := (body.take (body.length - 2)).drop 4

/-- A complete frame is taken: too short, check, key, and then the reply queue, replay and execution (R147). -/
def takeFrame (body : List Byte) (p : Part) : Part :=
  if body.length < 6 then p
  else if !checkPasses body then p
  else if byteAt body 0 != p.mgmt.key then post { kind := .keyRefused } p
  else takeCommand (byteAt body 1) (byteAt body 2)
    (testedCommand (byteAt body 2) (byteAt body 3) (bodyPayload body)) p

/-! ## The receiver (R142, R144) -/

/-- The receiver's state and buffer. -/
def setRx (rx : RxState) (buffer : List Byte) (p : Part) : Part :=
  { p with mgmt := { p.mgmt with rx := rx, buffer := buffer } }

/-- A byte is appended to the body; a body that would pass 206 bytes is dropped (R144). -/
def appendByte (b : Byte) (p : Part) : Part :=
  if p.mgmt.buffer.length < Config.bodyCapacity then setRx .inFrame (p.mgmt.buffer ++ [b]) p else setRx .hunting [] p

/-- The second half of an escape pair (R143, R144). -/
def isEscaped (b : Byte) : Bool := b == 0xD1#8 || b == 0xD2#8 || b == 0xD3#8

/-- A character taken with a high stop bit, by the receiver's state (R144). -/
def receive (b : Byte) (p : Part) : Part :=
  match p.mgmt.rx with
  | .hunting => if b == startByte then setRx .inFrame [] p else p
  | .inFrame =>
    if b == startByte then setRx .inFrame [] p
    else if b == endByte then takeFrame p.mgmt.buffer (setRx .hunting [] p)
    else if b == escapeByte then setRx .escaped p.mgmt.buffer p
    else appendByte b p
  | .escaped =>
    if b == startByte then setRx .inFrame [] p
    else if isEscaped b then appendByte (b ^^^ 0x20#8) p
    else setRx .hunting [] p

/-- MGMT_CHARACTER: a low stop bit is a framing error, which drops the character and any frame in progress (R142). -/
def mgmtCharacter (b : Byte) (stopHigh : Bool) (p : Part) : Part :=
  if stopHigh then receive b p else setRx .hunting [] p

/-- The levels of MGMT_RX, received character by character, each at the end of its stop bit (R142). The row MGMT_CHARACTER
is one of these characters. -/
def receiveLine (levels : List Bool) (p : Part) : Part :=
  (lineCharacters levels).foldl (fun p c => mgmtCharacter c.1 c.2 p) p

def execMgmtCharacter (b : Byte) (stopHigh : Bool) (s : State) : Host.Outcome State Fault Refusal :=
  onPart (mgmtCharacter b stopHigh) s

end Sys2Proof.Machine
end

