-- ==== Sys2Proof/Machine/Dispatch.lean ====
section
/-! DEFINITION. One arm for each command: its meaning. -/

namespace Sys2Proof.Machine

def exec (i : Instr) (s : State) : Host.Outcome State Fault Refusal :=
  match i with
  | .admission tag op line => Sys2Proof.Machine.execAdmission tag op line s
  | .grant q k => Sys2Proof.Machine.execGrant q k s
  | .hostOutcome q => Sys2Proof.Machine.execHostOutcome q s
  | .hrstNAssert => Sys2Proof.Machine.execHrstNAssert s
  | .hrstNDeassert => Sys2Proof.Machine.execHrstNDeassert s
  | .porstNAssert => Sys2Proof.Machine.execPorstNAssert s
  | .porstNDeassert bootsz mbaud => Sys2Proof.Machine.execPorstNDeassert bootsz mbaud s
  | .deviceReady q => Sys2Proof.Machine.execDeviceReady q s
  | .trainingTimerExpiry q => Sys2Proof.Machine.execTrainingTimerExpiry q s
  | .silenceTimerExpiry q => Sys2Proof.Machine.execSilenceTimerExpiry q s
  | .wakeTimerExpiry q => Sys2Proof.Machine.execWakeTimerExpiry q s
  | .linkError q => Sys2Proof.Machine.execLinkError q s
  | .deviceResponse q k resp => Sys2Proof.Machine.execDeviceResponse q k resp s
  | .responseTimerExpiry q => Sys2Proof.Machine.execResponseTimerExpiry q s
  | .linkLossClaim q => Sys2Proof.Machine.execLinkLossClaim q s
  | .copyOutcome q => Sys2Proof.Machine.execCopyOutcome q s
  | .mgmtCharacter b stopHigh => Sys2Proof.Machine.execMgmtCharacter b stopHigh s
  | .replySent => Sys2Proof.Machine.execReplySent s
  | .ident seq => Sys2Proof.Machine.execIdent seq s
  | .status seq => Sys2Proof.Machine.execStatus seq s
  | .setKey seq key => Sys2Proof.Machine.execSetKey seq key s
  | .regionStage seq x => Sys2Proof.Machine.execRegionStage seq x s
  | .regionCommit seq region init primary reserved => Sys2Proof.Machine.execRegionCommit seq region init primary reserved s
  | .regionRetire seq region reserved => Sys2Proof.Machine.execRegionRetire seq region reserved s
  | .regionRead seq region reserved => Sys2Proof.Machine.execRegionRead seq region reserved s
  | .portEnable seq port reserved => Sys2Proof.Machine.execPortEnable seq port reserved s
  | .portDisable seq port reserved => Sys2Proof.Machine.execPortDisable seq port reserved s
  | .portSetup seq port timeout silence weight => Sys2Proof.Machine.execPortSetup seq port timeout silence weight s
  | .portRead seq port => Sys2Proof.Machine.execPortRead seq port s
  | .detach seq port reserved => Sys2Proof.Machine.execDetach seq port reserved s
  | .rejoin seq port reserved => Sys2Proof.Machine.execRejoin seq port reserved s
  | .divergenceRead seq port start => Sys2Proof.Machine.execDivergenceRead seq port start s
  | .compare seq region first count => Sys2Proof.Machine.execCompare seq region first count s
  | .jobRead seq => Sys2Proof.Machine.execJobRead seq s
  | .jobCancel seq position => Sys2Proof.Machine.execJobCancel seq position s
  | .eventFetch seq n => Sys2Proof.Machine.execEventFetch seq n s
  | .faultClear seq flags => Sys2Proof.Machine.execFaultClear seq flags s
  | .faultMask seq flags => Sys2Proof.Machine.execFaultMask seq flags s

end Sys2Proof.Machine
end

