-- ==== Sys2Proof/Machine/Step.lean ====
section
/-! DEFINITION. One step of the block: the command at the front of the queue is run on the rest; with an empty queue a
microsecond passes and nothing else (log 2). -/

namespace Sys2Proof.Machine

/-- A microsecond passes. Timers run towards their deadlines; their expiries are commands (log 2). -/
def idle (s : State) : State := { s with part := { s.part with now := s.part.now + 1 } }

/-- One step: first in, first out. -/
def step (s : State) : Host.Outcome State Fault Refusal :=
  match s.pending with
  | c :: rest => exec c { s with pending := rest }
  | [] => .next (idle s)

/-- The state with the command a word spells put at the front of the queue; no word spells one (Decode.lean). -/
def State.withFetchWord (s : State) (nbits w : Nat) : State :=
  match decodeTableWord nbits w with
  | some i => { s with pending := i :: s.pending }
  | none => s

end Sys2Proof.Machine
end

