-- ==== Sys2Proof/Safety.lean ====
section
/-! DEFINITION. What is meant by a sound state: the invariants the statements are about, each with the rule of the spec
that says it, and the words in which a statement says what a reply is. -/

namespace Sys2Proof.Machine

/-! ## Request table -/

/-- At most one entry per tag (R4). -/
abbrev tagsDistinct (p : Part) : Prop := (p.table.map (·.tag)).Nodup

/-- The in-flight count is the number of entries of the region, and 0 outside LIVE and RETIRING (R23, R27). -/
abbrev inFlightExact (p : Part) : Prop :=
  ∀ r : RegionIx, (p.region r).inFlight = p.table.countP (fun e => e.region == r) ∧
    (inUse (p.region r) = false → (p.region r).inFlight = 0)

/-- Tags and in-flight counts together. -/
abbrev tableSound (p : Part) : Prop := tagsDistinct p ∧ inFlightExact p

/-- An entry beyond WAITING_LINE is the earliest live entry for its line (R9). -/
abbrev lineHeld (p : Part) : Prop :=
  tagsDistinct p ∧ ∀ e ∈ p.table, e.state ≠ .waitingLine → (p.table.find? (fun x => x.line == e.line)).map (·.tag) = some e.tag

/-! ## Ports -/

/-- No two of the held slots and queue entries of a port share a slot number (R87). -/
abbrev slotsDistinct (x : PortState) : Prop := (x.queue.map (·.slot) ++ x.held.map (·.1)).Nodup

/-- What the link state says of a port's other items: the timers that run, the queue and held slots it may have, which
entries are SENT, and the ranges of its settings and of the pass-over count (R78 to R83, R85, R88, R96, R97). -/
abbrev portSound (x : PortState) : Prop :=
  (linkDown x.link = true → x.queue = [] ∧ x.held = [] ∧ x.passOver = 0) ∧
  (x.link = .drowsy → x.queue = [] ∧ x.held = []) ∧
  (x.trainingSince.isSome = true ↔ x.link = .training) ∧
  (x.wakeSince.isSome = true ↔ x.link = .waking) ∧
  (x.silenceSince.isSome = true → x.link = .active ∧ x.silence ≠ 0 ∧ occupancy x = 0) ∧
  (∀ t ∈ x.queue, t.sentAt.isSome = true ↔ x.link = .active) ∧
  x.timeoutIx ≤ 5 ∧ x.silence ≤ 4 ∧ 1 ≤ x.weight ∧ x.weight ≤ 15 ∧ x.passOver ≤ 15

/-- Every port's slots are distinct. -/
abbrev allSlotsDistinct (p : Part) : Prop := ∀ q : Port, slotsDistinct (p.port q)

/-- No two held slots of a port are held for one tag: a grant presents an entry that holds no slot there (R12, R13). -/
abbrev heldTagsDistinct (p : Part) : Prop := ∀ q : Port, ((p.port q).held.map (·.2)).Nodup

/-- Every port is sound. -/
abbrev allPortsSound (p : Part) : Prop := ∀ q : Port, portSound (p.port q)

/-! ## Memberships and divergence lists -/

/-- Every MIRROR region in use has an IN_SERVICE membership (R65). -/
abbrev lastReplicaKept (p : Part) : Prop :=
  ∀ r : RegionIx, inUse (p.region r) = true → (p.region r).mode = .mirror → ∃ q : Port, mstate p r q = some .inService

/-- Two runs in list order: by region, and within a region apart by at least one extent (R103). -/
abbrev runApart (a b : Run) : Prop := a.region < b.region ∨ (a.region = b.region ∧ a.stop < b.first)

/-- A divergence list's shape: at most 64 runs, in order, neither overlapping nor touching (R103). -/
abbrev listSound (l : List Run) : Prop := l.length ≤ Config.runCapacity ∧ l.Pairwise runApart

/-- Every list has its shape. -/
abbrev allListsSound (p : Part) : Prop := ∀ q : Port, listSound (p.divList q)

/-- A copy is out of service or being rebuilt. -/
abbrev isStale (st : Option MState) : Prop := st = some .rejoining ∨ st = some .faulted ∨ st = some .detached

/-- Every run of a port's list is of a region whose membership there is REJOINING, FAULTED or DETACHED (R104). -/
abbrev runsAreStale (p : Part) : Prop := ∀ q : Port, ∀ x ∈ p.divList q, isStale (mstate p x.region q)

/-! ## Regions -/

/-- Two ranges, each a base and a size in granules, have no granule in common (R31). -/
abbrev rangesApart (a m b n : Nat) : Prop := a + m ≤ b ∨ b + n ≤ a

/-- The windows of two regions are apart on every port where both have one (R31). -/
def windowsApart (x y : Region) : Bool :=
  x.members.all (fun m => y.members.all (fun n =>
    m.port != n.port || decide (rangesApart m.base x.size n.base y.size)))

/-- The member ports of a region in use are distinct, and no two regions in use overlap upstream or downstream (R31). -/
abbrev regionsApart (p : Part) : Prop :=
  (∀ r : RegionIx, inUse (p.region r) = true → ((p.region r).members.map (·.port)).Nodup) ∧
  (∀ r r' : RegionIx, r ≠ r' → inUse (p.region r) = true → inUse (p.region r') = true →
    rangesApart (p.region r).base (p.region r).size (p.region r').base (p.region r').size) ∧
  ∀ r r' : RegionIx, r ≠ r' → inUse (p.region r) = true → inUse (p.region r') = true →
    windowsApart (p.region r) (p.region r') = true

/-! ## Queues -/

/-- A catch-up job for a port is present exactly while the port has a REJOINING membership (R118). -/
abbrev catchUpJobsExact (p : Part) : Prop := ∀ q : Port, p.jobs.any (isCatchUp q) = hasRejoining p q


/-- The catch-up target of a job. -/
def jobTarget (j : Job) : Option Port :=
  match j.kind with
  | .catchUp q => some q
  | .compare _ => none

/-- At most one catch-up job for a port and at most four compare jobs (R118). -/
abbrev jobsSound (p : Part) : Prop :=
  (p.jobs.filterMap jobTarget).Nodup ∧ p.jobs.countP isCompare ≤ Config.compareCapacity

/-- The event queue holds at most 32 records and the reply queue at most 2 bodies (R157, R150). -/
abbrev queuesBounded (p : Part) : Prop :=
  p.events.queue.length ≤ Config.eventCapacity ∧ p.mgmt.replies.length ≤ Config.replyCapacity

/-! ## Words for statements -/

/-- The management port is free to execute a frame with this sequence: PORST_N deasserted, room for a reply, the
sequence not the cached one (R147 steps 4 to 6). -/
abbrev takesCommand (s : State) (seq : Byte) : Prop :=
  s.part.porst = false ∧ s.part.mgmt.replies.length < Config.replyCapacity ∧
  s.part.mgmt.cache.map (·.1) ≠ some seq

/-- The part with a reply to a frame placed and cached (R149, R152). -/
def Part.replied (p : Part) (seq code : Byte) (st : Status) (payload : List Byte) : Part :=
  { p with mgmt := { p.mgmt with replies := p.mgmt.replies ++ [replyBody seq code st payload],
                                 cache := some (seq, replyBody seq code st payload) } }

/-- The command answers a next state in which the part is the given one. -/
abbrev leavesPart (c : Instr) (s : State) (p : Part) : Prop := exec c s = .next { s with part := p }

/-- The frame is executed: the reply is placed and cached, and but for it the part is as given. -/
abbrev repliesWith (c : Instr) (s : State) (seq code : Byte) (st : Status) (payload : List Byte) (p : Part) : Prop :=
  leavesPart c s (p.replied seq code st payload)

/-- The frame is refused: the reply carries the status and no payload, and nothing else changes (R148). -/
abbrev refusesWith (c : Instr) (s : State) (seq code : Byte) (st : Status) : Prop :=
  repliesWith c s seq code st [] s.part

/-- What no work inside an event changes: the pins, the time, what is handed over, the management port, the fault mask,
flags already set, records already held, and each port's link state, timers of bring-up and settings. -/
def sameOutside (p p' : Part) : Prop :=
  p'.porst = p.porst ∧ p'.hrst = p.hrst ∧ p'.bootsz = p.bootsz ∧ p'.mbaud = p.mbaud ∧ p'.now = p.now ∧
  p'.handed = p.handed ∧ p'.lossClaims = p.lossClaims ∧ p'.mgmt = p.mgmt ∧ p'.events.mask = p.events.mask ∧
  p.events.summary &&& p'.events.summary = p.events.summary ∧ p.events.queue <+: p'.events.queue ∧
  ∀ q : Port, (p'.port q).link = (p.port q).link ∧ (p'.port q).trainingSince = (p.port q).trainingSince ∧
    (p'.port q).wakeSince = (p.port q).wakeSince ∧ (p'.port q).timeoutIx = (p.port q).timeoutIx ∧
    (p'.port q).silence = (p.port q).silence ∧ (p'.port q).weight = (p.port q).weight

/-- The head of the job queue has started, or the copy window is present: nothing starts (R119). -/
abbrev headHeld (p : Part) : Prop := p.jobs.head?.map (·.started) = some true ∨ p.window.isSome = true

/-- The copy engine is idle: no job, no window, no line claim, and no outcome of a COPY transaction awaited (R118, R121,
R132). -/
abbrev engineIdle (p : Part) : Prop := p.jobs = [] ∧ p.window = none ∧ p.lineClaim = none ∧ copyInFlight p = 0

/-- The window at the start of a catch-up line that is read at `src` (R121, R126). -/
def lineWindow (p : Part) (target src : Port) (r : RegionIx) (e k overtake : Nat) : Window where
  job := .catchUp target
  region := r
  extent := e
  lineNo := k
  addr := lineAddr (p.region r) e k
  source := onePort src
  phase := .claiming
  overtake := overtake
  cancelled := false
  reread := false
  data := []
  claims := [{ port := src, part := .sourceRead, op := .read, addr := downAddr (p.region r) src (lineAddr (p.region r) e k) }]

/-- The usable sources of a catch-up line (R126). -/
def usableSources (p : Part) (target : Port) (r : RegionIx) : List Port :=
  allPorts.filter (fun q => mstate p r q == some .inService && q != target && !portDown p q)

/-- Catch-up jobs for ports in this order, with an idle engine: each starts with COPY_STARTED; the first that finds a run and
a source stays, with its window on the first line of that run; one that finds no run completes at once, one that finds no
source is abandoned at once, and the next starts (R119, R124, R126, R129, R130). -/
def catchUpsStarted : List Port → Part → Part
  | [], p => p
  | q :: qs, p =>
    let p := post (copyStartedEvent q) p
    match selectRun p q with
    | none => catchUpsStarted qs (post (copyDoneEvent q) (takeCompletion q p))
    | some x =>
      match balance p (usableSources p q x.region) with
      | none => catchUpsStarted qs (post (copyAbortedEvent q .source) (takeOutRejoining q .source p))
      | some src =>
        { p with jobs := { kind := .catchUp q, started := true } :: qs.map (fun q' => { kind := .catchUp q', started := false })
                 window := some (lineWindow p q src x.region x.first 0 0) }

/-- The entry leaves the table, and its region's count falls by one; the response goes out unless the entry is ORPHANED
(R17, R20, R27). -/
def Part.finished (p : Part) (e : Entry) (status : RespStatus) (data : Option LineData) : Part :=
  { p with
    table := p.table.filter (fun x => x.tag != e.tag)
    regions := p.regions.set e.region { p.region e.region with inFlight := (p.region e.region).inFlight - 1 }
    trace := if e.state = .orphaned then p.trace
             else p.trace ++ [.response { tag := e.tag, status := status, data := data }] }

/-- The freeing of the entry drains no region: its region is not RETIRING, or another entry or the window is left there
(R37). -/
abbrev drainsNothing (p : Part) (e : Entry) : Prop :=
  (p.region e.region).state ≠ .retiring ∨ 2 ≤ (p.region e.region).inFlight ∨ windowOn p e.region = true

/-- Nothing follows the freeing of the entry: its region does not drain, and no other entry is for its line. -/
abbrev freesQuietly (p : Part) (e : Entry) : Prop :=
  drainsNothing p e ∧ ∀ x ∈ p.table, x.line = e.line → x.tag = e.tag

/-- A RETIRING region has become FREE: its runs are purged from the four lists, its fields cleared, a catch-up job whose port
has no other REJOINING copy withdrawn, and REGION_RETIRED posted (R38, R115). -/
def Part.retired (p : Part) (r : RegionIx) : Part :=
  { p with
    regions := p.regions.set r Region.cleared
    lists := p.lists.map (fun l => l.filter (fun x => x.region != r))
    jobs := p.jobs.filter (fun j =>
      match j.kind with
      | .catchUp q => allRegions.any (fun r' => r' != r && mstate p r' q == some .rejoining)
      | .compare _ => true)
    events := postTo p.events { kind := .regionRetired, region := some r } }

/-- The drain check of a region, where nothing starts after it: a RETIRING region without entries and without the window is
retired, any other stays as it is (R37, R38). -/
def drainChecked (r : RegionIx) (p : Part) : Part :=
  if (p.region r).state = .retiring ∧ (p.region r).inFlight = 0 ∧ windowOn p r = false then p.retired r else p

/-- No job starts by itself: the window is present, or there is no job (R119). -/
abbrev nothingStarts (p : Part) : Prop := p.window.isSome = true ∨ p.jobs = []

/-- MEMBER_EJECTED of each REJOINING copy of a port, in ascending region order (R66, R75). -/
def rejoinRecords (q : Port) (why : Reason) (p : Part) : List EventBody :=
  allRegions.filterMap (fun r =>
    if mstate p r q = some .rejoining
    then some { kind := .memberEjected, port := some q, region := some r, detail := reasonCode why } else none)

/-- The records of a link-loss claim, in ascending region order: MEMBER_EJECTED for a copy that leaves service or the
rebuild, LAST_REPLICA_ERROR without a line for a last replica, each with the claim's reason (R68, R75). -/
def lossRecords (q : Port) (why : Reason) (p : Part) : List EventBody :=
  allRegions.filterMap (fun r =>
    if mstate p r q = some .rejoining ∨ mstate p r q = some .inService ∧ ∃ x ∈ allPorts, x ≠ q ∧ mstate p r x = some .inService
    then some { kind := .memberEjected, port := some q, region := some r, detail := reasonCode why }
    else if mstate p r q = some .inService
    then some { kind := .lastReplicaError, port := some q, region := some r, detail := reasonCode why } else none)

/-- The report abandons no running job: at a REJOINING copy, the port's job waits behind a running one or a window (R66). -/
abbrev reportWaits (p : Part) (r : RegionIx) (q : Port) : Prop :=
  mstate p r q = some .rejoining → headHeld p ∧ ∀ j ∈ p.jobs, isCatchUp q j = true → j.started = false

/-- A failure report taken: the memberships, and, at a REJOINING copy, the port's waiting job abandoned for TARGET (R63 to
R67). -/
def reportTaken (r : RegionIx) (q : Port) (why : Reason) (line : Option UpAddr) (p : Part) : Part :=
  if mstate p r q = some .rejoining ∧ p.jobs.any (isCatchUp q) = true then
    post { kind := .copyAborted, port := some q, detail := 6 }
      { takeReport r q why line p with jobs := p.jobs.filter (fun j => !isCatchUp q j) }
  else takeReport r q why line p

/-- The line's extent is inserted into the list of a copy found FAULTED or DETACHED (R57 step 2). -/
def insertedIfOut (e : Entry) (q : Port) (p : Part) : Part :=
  if mstate p e.region q = some .faulted ∨ mstate p e.region q = some .detached
  then insertRun q { region := e.region, first := extentOf (p.region e.region) e.line, count := 1 } p else p

/-- A read sent on to another copy: READ_REDIRECTED with the port that failed, the entry waiting at the new one (R16, R46,
R51). -/
def redirected (e : Entry) (failed next : Port) (p : Part) : Part :=
  post { kind := .readRedirected, port := some failed, region := some e.region, addr := .line e.line }
    (updateEntry e.tag (fun x => { x with state := .waitingSlot, target := onePort next, ack := 0#4, fail := 0#4,
                                          tried := addPort x.tried next }) p)

/-- The list of a port with the extent of a line inserted (R106). -/
def withLine (p : Part) (r : RegionIx) (q : Port) (a : UpAddr) : List Run :=
  (insertRun q { region := r, first := extentOf (p.region r) a, count := 1 } p).divList q

/-- Of the copies of a region on the ports that satisfy `f`, reported in ascending port order, those that leave service: each
IN_SERVICE one with another one still IN_SERVICE when its report comes (R53, R55, R64, R65). -/
abbrev leavesService (p : Part) (r : RegionIx) (f : Port → Bool) (q : Port) : Prop :=
  mstate p r q = some .inService ∧ f q = true ∧ ∃ x, x ≠ q ∧ mstate p r x = some .inService ∧ (f x = false ∨ q < x)

/-- Entry `e` waits in WAITING_SLOT with port `q` in its target set; it alone does, every other link it or another entry
waits at is up, no other entry is for its line, and the copy engine claims no slot at `q`. -/
def soleWaiter (p : Part) (e : Entry) (q : Port) : Prop :=
  tagsDistinct p ∧ e ∈ p.table ∧ e.state = .waitingSlot ∧ hasPort e.target q = true ∧
  (∀ q', hasPort e.target q' = true → q' = q ∨ portDown p q' = false) ∧ copyClaimAt p q = none ∧
  ∀ x ∈ p.table, x.tag ≠ e.tag → x.line ≠ e.line ∧
    (x.state = .waitingSlot → ∀ q', hasPort x.target q' = true → q' ≠ q ∧ portDown p q' = false)

/-- No entry waits for a line in WAITING_LINE behind the recorded line claim. -/
abbrev claimHoldsNone (p : Part) : Prop := ∀ x ∈ p.table, x.state = .waitingLine → p.lineClaim ≠ some x.line

/-- What an entry of a link into FAILED or OFF does at the port itself and hands over (R85), from `p` to `p'`. -/
def portLost (p p' : Part) (q : Port) (dest : Link) (why : Reason) : Prop :=
  (p'.port q).link = dest ∧ (p'.port q).queue = [] ∧ (p'.port q).held = [] ∧ (p'.port q).passOver = 0 ∧
  (p'.port q).trainingSince = none ∧ (p'.port q).wakeSince = none ∧ (p'.port q).silenceSince = none ∧
  (p'.port q).timeoutIx = (p.port q).timeoutIx ∧ (p'.port q).silence = (p.port q).silence ∧
  (p'.port q).weight = (p.port q).weight ∧
  p'.handed = p.handed ++ (p.port q).queue.map (fun t => { port := q, origin := t.origin, result := .failed why }) ∧
  p'.lossClaims = p.lossClaims ++ [(q, why)] ∧
  ∀ q' : Port, q' ≠ q → (p'.port q').link = (p.port q').link ∧
    (p'.port q').trainingSince = (p.port q').trainingSince ∧ (p'.port q').wakeSince = (p.port q').wakeSince ∧
    (p'.port q').timeoutIx = (p.port q').timeoutIx ∧ (p'.port q').silence = (p.port q').silence ∧
    (p'.port q').weight = (p.port q').weight

/-- The event unit goes from `u` to `u'` with these records, in this order, posted first, as far as there is room, and
with their flags set (R160, R164). -/
def postsFirst (u u' : EventUnit) (bs : List EventBody) : Prop :=
  (u.queue.length + bs.length ≤ Config.eventCapacity →
    u.queue ++ bs.mapIdx (fun i b => { seq := u.next + BitVec.ofNat 16 i, body := b }) <+: u'.queue) ∧
  ∀ b ∈ bs, flagBit b &&& u'.summary = flagBit b

/-- The slot a transaction takes in a port queue (R87, R88): SENT at once on an ACTIVE link, PENDING otherwise. -/
def queuedEntry (p : Part) (q : Port) (k : SlotIx) (o : Origin) (op : Op) (a : DownAddr) : QEntry where
  slot := k
  origin := o
  op := op
  addr := a
  sentAt := if (p.port q).link = .active then some p.now else none

/-- The link state after a grant: the first grant at a DROWSY link starts a wake (R83). -/
def linkAfterGrant (l : Link) : Link := if l = .drowsy then .waking else l

/-- What a grant at a DROWSY link puts out: the request to bring the link back up (R83, R100). -/
def wakeOutput (p : Part) (q : Port) : List Output := if (p.port q).link = .drowsy then [.wakeUp q] else []

/-- What a placement puts out: the transaction, sent at once on an ACTIVE link, later otherwise (R88, R99). -/
def sendOutput (p : Part) (q : Port) (k : SlotIx) (op : Op) (a : DownAddr) : List Output :=
  if (p.port q).link = .active then [.send q k op a] else []

/-- A port after a grant to the dispatcher, but for its queue and held slots: the link and the wake timer, the silence timer
stopped, the pass-over count one higher while the copy engine waits there too (R82, R83, R96). -/
def portGranted (p : Part) (q : Port) : PortState :=
  let x := p.port q
  { x with link := linkAfterGrant x.link
           wakeSince := if x.link = .drowsy then some p.now else x.wakeSince
           silenceSince := none
           passOver := if (copyClaimAt p q).isSome = true then x.passOver + 1 else x.passOver }

/-- The status at the outcome of a host transaction that finishes its ISSUED entry; none when the outcome does not
finish it at once: a failure at a MIRROR region, or a MIRROR write with targets outstanding (R45, R57, R59). -/
def finalStatus (p : Part) (e : Entry) (q : Port) : TxnResult → Option RespStatus
  | .ok _ =>
    if e.kind = .write ∧ (p.region e.region).mode = .mirror then
      if portSubset e.target (addPort e.ack q ||| e.fail) = true
      then some (writeStatus { e with ack := addPort e.ack q }) else none
    else some .ok
  | .error => if (p.region e.region).mode = .mirror then none else some .media
  | .failed why => if (p.region e.region).mode = .mirror then none else some (failureStatus why)

/-- The data of an outcome. -/
def resultData : TxnResult → Option LineData
  | .ok d => d
  | .error => none
  | .failed _ => none

/-- The outcome at port `q` finishes the entry with a status and data, the part being `p` before and `p1` when its report is
taken: an outcome that decides the status at once, a failed MIRROR read that is not sent on, or the last outcome of a
MIRROR write, failed (R16, R20, R45, R51, R57). -/
def finishes (e : Entry) (q : Port) (result : TxnResult) (p p1 : Part) (status : RespStatus) (data : Option LineData) : Prop :=
  (finalStatus p e q result = some status ∧ p1 = p ∧
    data = if e.kind = .read ∧ status = .ok then resultData result else none) ∨
  ∃ why p0, (result = .error ∧ why = .media ∨ result = .failed why) ∧ (p.region e.region).mode = .mirror ∧ data = none ∧
    p0 = reportTaken e.region q why (some e.line) (updateEntry e.tag (recordFail q why) p) ∧
    (e.kind = .read ∧ p1 = p0 ∧ (e.state = .orphaned ∨ chooseRead p1 e = none) ∧
        status = (if why = .media then .media else .portDown) ∨
      e.kind = .write ∧ p1 = insertedIfOut e q p0 ∧ portSubset e.target (e.ack ||| addPort e.fail q) = true ∧
        status = writeStatus (recordFail q why e))

/-- The entry waits for slots at the targets, and with no free slot at one of them a later write gives its held slot there
back (R11, R13; log 22). -/
def slotsAwaited (e : Entry) (targets : PortSet) (p : Part) : Part :=
  (portsOf targets).foldl (fun p q => (taskGiveBack q p).1)
    (updateEntry e.tag (fun x => { x with state := .waitingSlot, target := targets,
                                          tried := if e.kind = .read then x.tried ||| targets else x.tried }) p)

/-- The entry that leaves WAITING_LINE makes its first target choice, from `p` to `p'` (R11, R44 to R46, R53): a DIRECT
request, a MIRROR read, and a MIRROR write whose copies are all on links that are up. -/
def firstChoiceMade (p : Part) (e : Entry) (p' : Part) : Prop :=
  (∀ m, (p.region e.region).mode = .direct → (p.region e.region).members = [m] →
    (portDown p m.port = false → p' = slotsAwaited e (onePort m.port) p) ∧
    (portDown p m.port = true → freesQuietly p e → p' = p.finished e .portDown none)) ∧
  ((p.region e.region).mode = .mirror → e.kind = .read →
    (∀ q p1, chooseRead p e = some (q, p1) → p' = slotsAwaited e (onePort q) p1) ∧
    (chooseRead p e = none → freesQuietly p e → p' = p.finished e .portDown none)) ∧
  ∀ targets, (p.region e.region).mode = .mirror → e.kind = .write → targets ≠ 0#4 →
    (∀ q, hasPort targets q = true ↔ mstate p e.region q = some .inService ∨ mstate p e.region q = some .rejoining) →
    (∀ q, hasPort targets q = true → portDown p q = false) → p' = slotsAwaited e targets p

/-- The regions that a host reset drains, in the order of their last freed entries (R18, R37; the order is log 25's). -/
def drainedByReset (p : Part) : List RegionIx :=
  (lastPlaces ((p.table.filter unplaced).map (·.region))).filter (fun r =>
    (p.region r).state == .retiring && p.table.all (fun e => e.region != r || unplaced e) && !windowOn p r)

/-- The window at the start of a compare line: a READ claimed at every copy that can be read, ascending (R121, R133). -/
def compareWindow (p : Part) (r : RegionIx) (e k overtake : Nat) : Window :=
  let ports := allPorts.filter (fun q => mstate p r q == some .inService && !portDown p q)
  let a := lineAddr (p.region r) e k
  { job := .compare, region := r, extent := e, lineNo := k, addr := a, source := portSetOf (fun q => ports.contains q),
    phase := .claiming, overtake := overtake, cancelled := false, reread := false, data := [],
    claims := ports.map (fun q => { port := q, part := .compareRead, op := .read, addr := downAddr (p.region r) q a }) }

/-- The records of the compare jobs on a region that its retirement ends, in queue order (R136). -/
def compareEnds (r : RegionIx) (jobs : List Job) : List EventBody :=
  jobs.filterMap (fun j =>
    match j.kind with
    | .compare c =>
      if c.region = r
      then some { kind := .compareDone, region := some r, detail := c.mismatches, second := c.compared } else none
    | .catchUp _ => none)

/-- The other jobs, in queue order. -/
def jobsElsewhere (r : RegionIx) (jobs : List Job) : List Job :=
  jobs.filter (fun j =>
    match j.kind with
    | .compare c => c.region != r
    | .catchUp _ => true)

/-! ## Checks of the region commands -/

/-- Every field of a staging record holds a value it may hold on its own (R29 check 3). -/
abbrev stageFits (x : StageRecord) : Prop :=
  1 ≤ x.size.toNat ∧ x.size.toNat ≤ 16384 ∧ x.mode.toNat ≤ 1 ∧ 1 ≤ x.count.toNat ∧ x.count.toNat ≤ 3 ∧
  x.policy.toNat ≤ 2 ∧ (x.policy = 1#8 → x.preferred.toNat ≤ 3) ∧
  ∀ z ∈ [x.slot0, x.slot1, x.slot2].take x.count.toNat, z.port.toNat ≤ 3 ∧ z.base.toNat ≤ 16383

/-- A staged entry's fields agree with one another (R30 check 2). -/
abbrev commitFieldsFit (x : Region) : Prop :=
  x.base + x.size ≤ 65536 ∧ (∀ m ∈ x.members, m.base + x.size ≤ 16384) ∧
  (x.mode = .direct → x.members.length = 1) ∧ (x.mode = .mirror → x.members.length = 2 ∨ x.members.length = 3) ∧
  (x.members.map (·.port)).Nodup ∧
  (x.mode = .mirror → x.policy = .preferred → ∃ m ∈ x.members, x.preferred = some m.port)

/-- Its upstream range overlaps no region in use (R30 check 3, R31). -/
abbrev upstreamClear (p : Part) (x : Region) : Prop :=
  ∀ r, inUse (p.region r) = true → rangesApart x.base x.size (p.region r).base (p.region r).size

/-- No window of its members overlaps a window of a region in use on the same port (R30 check 4, R31). -/
abbrev downstreamClear (p : Part) (x : Region) : Prop :=
  ∀ r, inUse (p.region r) = true → ∀ m ∈ x.members, ∀ n ∈ (p.region r).members, m.port = n.port →
    rangesApart m.base x.size n.base (p.region r).size

/-- With COPY the primary is the port of a member (R30 check 5). -/
abbrev primaryFits (x : Region) (init : Init) (primary : Byte) : Prop :=
  init = .copy → ∃ m ∈ x.members, m.port.val = primary.toNat

/-- The five commit checks pass (R30). -/
abbrev commitPasses (p : Part) (x : Region) (init : Init) (primary : Byte) : Prop :=
  x.state = .staged ∧ commitFieldsFit x ∧ upstreamClear p x ∧ downstreamClear p x ∧ primaryFits x init primary

/-! ## Divergence lists -/

/-- An extent is covered in a list by a run of its region (R103). -/
abbrev covered (l : List Run) (r : RegionIx) (n : Nat) : Prop := ∃ y ∈ l, y.region = r ∧ y.first ≤ n ∧ n < y.stop

/-- Two runs of one region, one after the other in the list: a pair that can be joined (R109). -/
def isPair (l : List Run) (a b : Run) : Prop := a.region = b.region ∧ ∃ pre post, l = pre ++ a :: b :: post

/-- The pair comes first by the three keys: the gap, the region, the first extent of A (R109). -/
def firstPair (l : List Run) (a b : Run) : Prop :=
  isPair l a b ∧ ∀ c d, isPair l c d → b.first - a.stop < d.first - c.stop ∨
    b.first - a.stop = d.first - c.stop ∧ (a.region < c.region ∨ a.region = c.region ∧ a.first ≤ c.first)

/-- The record of an insertion: DIVERGENCE_COALESCED where the list is full and no run of it overlaps or touches the range,
with port, region, gap and the gap's first extent of the joined pair (R108, R109, R110). -/
def coalescedRecord (q : Port) (x : Run) (l : List Run) : Option EventBody :=
  if l.length < 64 ∨ ∃ y ∈ l, y.region = x.region ∧ y.first ≤ x.stop ∧ x.first ≤ y.stop then none
  else (bestPair l).map (fun ab =>
    { kind := .divergenceCoalesced, port := some q, region := some ab.1.region, detail := ab.2.first - ab.1.stop,
      addr := .extent ab.1.stop })

/-- The records of a MIRROR write's placement, from `p` with the memberships of `p1` after it: MEMBER_EJECTED of each copy that
leaves service, then those of the insertions, each in ascending port order (R55, R75, R110). -/
def placementRecords (e : Entry) (p p1 : Part) : List EventBody :=
  allPorts.filterMap (fun q =>
    if leavesService p e.region (fun x => !hasPort e.target x) q
    then some { kind := .memberEjected, port := some q, region := some e.region, detail := reasonCode .link } else none) ++
  allPorts.filterMap (fun q =>
    if mstate p1 e.region q = some .faulted ∨ mstate p1 e.region q = some .detached
    then coalescedRecord q { region := e.region, first := extentOf (p.region e.region) e.line, count := 1 } (p.divList q)
    else none)

/-! ## Management commands as frames (R145, R171, R172) -/

/-- The 20 bytes of a staging record. -/
def stageBytes (x : StageRecord) : List Byte :=
  [x.region, x.mode] ++ be2 x.base.toNat ++ be2 x.size.toNat ++ [x.policy, x.preferred, x.count] ++
  (x.slot0.port :: be2 x.slot0.base.toNat) ++ (x.slot1.port :: be2 x.slot1.base.toNat) ++
  (x.slot2.port :: be2 x.slot2.base.toNat) ++ be2 x.reserved.toNat

/-- Sequence, command code and payload of a management command's frame; none for the other rows. -/
def commandFrame : Instr → Option (Byte × Byte × List Byte)
  | .ident seq => some (seq, 0x01#8, [])
  | .status seq => some (seq, 0x02#8, [])
  | .setKey seq key => some (seq, 0x03#8, [key])
  | .regionStage seq x => some (seq, 0x10#8, stageBytes x)
  | .regionCommit seq region init primary reserved => some (seq, 0x11#8, [region, init, primary, reserved])
  | .regionRetire seq region reserved => some (seq, 0x12#8, [region, reserved])
  | .regionRead seq region reserved => some (seq, 0x13#8, [region, reserved])
  | .portEnable seq port reserved => some (seq, 0x20#8, [port, reserved])
  | .portDisable seq port reserved => some (seq, 0x21#8, [port, reserved])
  | .portSetup seq port timeout silence weight => some (seq, 0x22#8, [port, timeout, silence, weight])
  | .portRead seq port => some (seq, 0x23#8, [port])
  | .detach seq port reserved => some (seq, 0x30#8, [port, reserved])
  | .rejoin seq port reserved => some (seq, 0x31#8, [port, reserved])
  | .divergenceRead seq port start => some (seq, 0x38#8, [port, start])
  | .compare seq region first count => some (seq, 0x40#8, region :: (be3 first.toNat ++ be3 count.toNat))
  | .jobRead seq => some (seq, 0x41#8, [])
  | .jobCancel seq position => some (seq, 0x42#8, [position])
  | .eventFetch seq n => some (seq, 0x50#8, [n])
  | .faultClear seq flags => some (seq, 0x51#8, be2 flags.toNat)
  | .faultMask seq flags => some (seq, 0x52#8, be2 flags.toNat)
  | .admission _ _ _ => none
  | .grant _ _ => none
  | .hostOutcome _ => none
  | .hrstNAssert => none
  | .hrstNDeassert => none
  | .porstNAssert => none
  | .porstNDeassert _ _ => none
  | .deviceReady _ => none
  | .trainingTimerExpiry _ => none
  | .silenceTimerExpiry _ => none
  | .wakeTimerExpiry _ => none
  | .linkError _ => none
  | .deviceResponse _ _ _ => none
  | .responseTimerExpiry _ => none
  | .linkLossClaim _ => none
  | .copyOutcome _ => none
  | .mgmtCharacter _ _ => none
  | .replySent => none

/-- A command body: key, sequence, code, declared length, payload, check (R145). -/
def frameBody (key seq code : Byte) (d : List Byte) : List Byte :=
  [key, seq, code, byte1 d.length] ++ d ++ checkBytes ([key, seq, code, byte1 d.length] ++ d)

end Sys2Proof.Machine
end

