-- ==== Sys2Proof/Certificates/Slice0/Obligations.lean ====
section
/-! DEFINITION. The statements for the provers: what each command does, and what every step keeps. Where a statement names
a premise on the state beside its operands, the premise is a condition of the rule, or an invariant stated here
(TableSoundKept, LineHeldKept). -/

open Sys2Proof Sys2Proof.Machine

/-! ## Steps, reset -/

/-- A step runs the command at the front of the queue on the queue's rest; with an empty queue only the time moves on, by
one microsecond (log 1, log 2). -/
def Obligations.StepRunsFrontCommand : Prop :=
  (∀ (c : Instr) (rest : List Instr) (s : State), s.pending = c :: rest → step s = exec c { s with pending := rest }) ∧
  ∀ s : State, s.pending = [] → step s = .next { s with part := { s.part with now := s.part.now + 1 } }

/-- Every command answers a next state in every state, and leaves the queue of waiting commands alone; where it has nothing
to act on that is the same state (log 4), which other statements say row by row. -/
def Obligations.EveryCommandAnswers : Prop :=
  ∀ (c : Instr) (s : State), ∃ t, exec c s = .next t ∧ t.pending = s.pending

/-- PORST_N: while it is asserted everything is abandoned; at its deassertion the boot region is LIVE with the size
BOOTSZ gives, M0 is TRAINING with its timer started, and everything else is empty or at its power-on value. Model's
choices: the pins, the time and the trace of outputs (logs 3, 2, 11), key, cache, mask and counter already at their
power-on values at the assertion (log 14), and that a deassertion of a PORST_N already deasserted changes nothing (log 4).
MGMT_TX is high at both. -/
def Obligations.PowerOnReset : Prop :=
  (∀ s : State, ∃ t, exec .porstNAssert s = .next t ∧ t.part.porst = true ∧ upReady t.part = false ∧
    t.part.table = [] ∧ t.part.lineClaim = none ∧ t.part.jobs = [] ∧ t.part.window = none ∧ t.part.handed = [] ∧
    t.part.lossClaims = [] ∧ (∀ q, t.part.divList q = [] ∧ (t.part.port q).queue = [] ∧ (t.part.port q).held = []) ∧
    (∀ r q, mstate t.part r q = none) ∧ t.part.mgmt = Mgmt.powerOn ∧ t.part.events = EventUnit.powerOn ∧
    fltAsserted t.part = false ∧ (∀ n, mgmtTx t.part n = true) ∧
    t.part.hrst = s.part.hrst ∧ t.part.now = s.part.now ∧ t.part.trace = s.part.trace) ∧
  (∀ (s : State) (bootsz : BitVec 2) (mbaud : Bool), s.part.porst = true →
    ∃ t, exec (.porstNDeassert bootsz mbaud) s = .next t ∧ t.part.porst = false ∧ t.part.mbaud = mbaud ∧
    t.part.region 0 = { state := .live, base := 0,
                        size := if bootsz = 0#2 then 64 else if bootsz = 1#2 then 256
                                else if bootsz = 2#2 then 1024 else 4096,
                        mode := .direct, members := [{ port := 0, base := 0, state := none }], policy := .balance,
                        preferred := none, alternate := none, inFlight := 0 } ∧
    (∀ r, r ≠ 0 → t.part.region r = Region.cleared) ∧
    (∀ q, t.part.port q = { link := if q = 0 then .training else .off, queue := [], held := [],
                            trainingSince := if q = 0 then some s.part.now else none, wakeSince := none,
                            silenceSince := none, timeoutIx := 2, silence := 0, weight := 4, passOver := 0 } ∧
          t.part.divList q = []) ∧
    t.part.table = [] ∧ t.part.lineClaim = none ∧ t.part.jobs = [] ∧ t.part.window = none ∧ t.part.handed = [] ∧
    t.part.lossClaims = [] ∧
    t.part.mgmt = { rx := .hunting, buffer := [], key := 0x5C#8, cache := none, replies := [] } ∧
    t.part.events = { queue := [], next := 0#16, summary := 0#13, mask := 0x1FFF#13 } ∧
    upReady t.part = !s.part.hrst ∧ fltAsserted t.part = false ∧ (∀ n, mgmtTx t.part n = true) ∧
    t.part.trace = s.part.trace ++ [.bringUp 0]) ∧
  ∀ (s : State) (bootsz : BitVec 2) (mbaud : Bool), s.part.porst = false →
    exec (.porstNDeassert bootsz mbaud) s = .next s

/-! ## Host channel -/

/-- The tag check: a request whose tag a live entry holds is discarded whole, and TAG_COLLISION is posted with the tag;
any other request goes on to the region check. UP_READY is asserted exactly while both reset inputs are deasserted and no
entry is ORPHANED, so an ORPHANED entry is not met; and a tag that no entry holds finds one of the 32 entries free. The
region check: a request for a line that no LIVE region covers is answered UNMAPPED, UNMAPPED_ACCESS is posted with the
line, and nothing else changes. -/
def Obligations.AdmissionTagAndRegionChecks : Prop :=
  (∀ p : Part, upReady p = true ↔ p.porst = false ∧ p.hrst = false ∧ ∀ e ∈ p.table, e.state ≠ .orphaned) ∧
  (∀ (p : Part) (tag : Tag), tagsDistinct p → (∀ e ∈ p.table, e.tag ≠ tag) → p.table.length < 32) ∧
  ∀ (tag : Tag) (op : Op) (line : UpAddr) (s : State), upReady s.part = true →
    ((∃ e ∈ s.part.table, e.tag = tag) →
      leavesPart (.admission tag op line) s (post { kind := .tagCollision, detail := tag.val } s.part)) ∧
    ((∀ e ∈ s.part.table, e.tag ≠ tag) →
      leavesPart (.admission tag op line) s
        (match lookupRegion s.part line with
         | some r => if (s.part.region r).state = .live then createEntry tag op line r s.part
                     else answerUnmapped tag line s.part
         | none => answerUnmapped tag line s.part)) ∧
    (∀ e ∈ s.part.table, e.state ≠ .orphaned) ∧
    ((∀ e ∈ s.part.table, e.tag ≠ tag) →
      (∀ r, regionCovers (s.part.region r) line = true → (s.part.region r).state ≠ .live) →
      leavesPart (.admission tag op line) s
        { s.part with
          trace := s.part.trace ++ [.response { tag := tag, status := .unmapped, data := none }]
          events := postTo s.part.events { kind := .unmappedAccess, addr := .line line } })

/-- An admitted request whose line has an entry beyond WAITING_LINE, or a line claim, is entered in WAITING_LINE, and its
region's in-flight count rises by one. One to a DIRECT region whose line is free: with the port's link up it waits for a
slot there; with the link FAILED or OFF it is answered PORT_DOWN at once and leaves no entry. -/
def Obligations.AdmissionWaitsOrIsDirect : Prop :=
  (∀ (tag : Tag) (op : Op) (line : UpAddr) (r : RegionIx) (s : State), upReady s.part = true →
     (∀ e ∈ s.part.table, e.tag ≠ tag) → lookupRegion s.part line = some r → (s.part.region r).state = .live →
     lineHeld s.part →
     ((∃ e ∈ s.part.table, e.line = line ∧ e.state ≠ .waitingLine) ∨ s.part.lineClaim = some line) →
     leavesPart (.admission tag op line) s
       ((s.part.setTable (s.part.table ++ [newEntry tag op line r])).setRegion r
         { s.part.region r with inFlight := (s.part.region r).inFlight + 1 })) ∧
  ∀ (tag : Tag) (op : Op) (line : UpAddr) (r : RegionIx) (m : Member) (s : State), upReady s.part = true →
    (∀ e ∈ s.part.table, e.tag ≠ tag ∧ e.line ≠ line) → s.part.lineClaim ≠ some line →
    lookupRegion s.part line = some r → (s.part.region r).state = .live → (s.part.region r).mode = .direct →
    (s.part.region r).members = [m] →
    (portDown s.part m.port = false →
      ∃ t, exec (.admission tag op line) s = .next t ∧
        t.part.table = s.part.table ++
          [{ newEntry tag op line r with state := .waitingSlot, target := onePort m.port,
                                         tried := if op = .read then onePort m.port else 0#4 }] ∧
        t.part.region r = { s.part.region r with inFlight := (s.part.region r).inFlight + 1 } ∧
        (∀ r', r' ≠ r → t.part.region r' = s.part.region r') ∧ t.part.trace = s.part.trace ∧
        t.part.events = s.part.events ∧ t.part.lists = s.part.lists ∧
        (∀ q, (t.part.port q).queue = (s.part.port q).queue) ∧ sameOutside s.part t.part) ∧
    (portDown s.part m.port = true →
      leavesPart (.admission tag op line) s
        { s.part with trace := s.part.trace ++ [.response { tag := tag, status := .portDown, data := none }] })

/-- An admitted MIRROR read whose line is free: the region's read policy picks one of the eligible copies, and the entry
waits for a slot there, the ALTERNATE pointer moving to it; with no eligible copy it is answered PORT_DOWN. -/
def Obligations.AdmissionMirrorRead : Prop :=
  ∀ (tag : Tag) (line : UpAddr) (r : RegionIx) (s : State), upReady s.part = true →
    (∀ e ∈ s.part.table, e.tag ≠ tag ∧ e.line ≠ line) → s.part.lineClaim ≠ some line →
    lookupRegion s.part line = some r → (s.part.region r).state = .live → (s.part.region r).mode = .mirror →
    (∀ q, policyChoice s.part (s.part.region r)
        (allPorts.filter (fun q => mstate s.part r q == some .inService && !portDown s.part q)) = some q →
      ∃ t, exec (.admission tag .read line) s = .next t ∧
        t.part.table = s.part.table ++
          [{ newEntry tag .read line r with state := .waitingSlot, target := onePort q, tried := onePort q }] ∧
        t.part.region r = { s.part.region r with
          inFlight := (s.part.region r).inFlight + 1,
          alternate := if (s.part.region r).policy = .alternate then some q else (s.part.region r).alternate } ∧
        (∀ r', r' ≠ r → t.part.region r' = s.part.region r') ∧ t.part.trace = s.part.trace ∧
        t.part.events = s.part.events ∧ t.part.lists = s.part.lists ∧
        (∀ q, (t.part.port q).queue = (s.part.port q).queue) ∧ sameOutside s.part t.part) ∧
    ((∀ q, mstate s.part r q = some .inService → portDown s.part q = true) →
      leavesPart (.admission tag .read line) s
        { s.part with trace := s.part.trace ++ [.response { tag := tag, status := .portDown, data := none }] })

/-- An admitted MIRROR write whose line is free and whose IN_SERVICE and REJOINING copies are all on links that are up:
its targets are those copies' ports, and it waits for a slot at each. -/
def Obligations.AdmissionMirrorWrite : Prop :=
  ∀ (tag : Tag) (mask : ByteMask) (data : LineData) (line : UpAddr) (r : RegionIx) (s : State),
    upReady s.part = true → (∀ e ∈ s.part.table, e.tag ≠ tag ∧ e.line ≠ line) → s.part.lineClaim ≠ some line →
    lookupRegion s.part line = some r → (s.part.region r).state = .live → (s.part.region r).mode = .mirror →
    (∀ q, mstate s.part r q = some .inService ∨ mstate s.part r q = some .rejoining → portDown s.part q = false) →
    (∃ q, mstate s.part r q = some .inService) →
    ∃ t e, exec (.admission tag (.write mask data) line) s = .next t ∧ t.part.table = s.part.table ++ [e] ∧
      e.tag = tag ∧ e.kind = .write ∧ e.payload = some (mask, data) ∧ e.line = line ∧ e.region = r ∧
      e.state = .waitingSlot ∧
      (∀ q, hasPort e.target q = true ↔
        mstate s.part r q = some .inService ∨ mstate s.part r q = some .rejoining) ∧
      e.ack = 0#4 ∧ e.fail = 0#4 ∧ e.counted = 0#4 ∧ e.reasons = [] ∧
      t.part.region r = { s.part.region r with inFlight := (s.part.region r).inFlight + 1 } ∧
      (∀ r', r' ≠ r → t.part.region r' = s.part.region r') ∧ t.part.trace = s.part.trace ∧
      t.part.events = s.part.events ∧ t.part.lists = s.part.lists ∧
      (∀ q, (t.part.port q).queue = (s.part.port q).queue) ∧ sameOutside s.part t.part

/-- An admitted MIRROR write whose line is free, with copies on links that are FAILED or OFF: each IN_SERVICE one is an
immediate failure, in ascending port order: counted, failed with LINK and reported, which ejects it unless it is then the
last replica. The targets are the copies on links that are up; with none the entry is completed PORT_DOWN and no list
changes. (A REJOINING copy on such a link is abandoned with its job: FailureReports.) -/
def Obligations.ImmediateFailuresOfAWrite : Prop :=
  ∀ (tag : Tag) (mask : ByteMask) (data : LineData) (line : UpAddr) (r : RegionIx) (failed : List Port) (s : State),
    upReady s.part = true → (∀ e ∈ s.part.table, e.tag ≠ tag ∧ e.line ≠ line) → s.part.lineClaim ≠ some line →
    lookupRegion s.part line = some r → (s.part.region r).state = .live → (s.part.region r).mode = .mirror →
    (∀ q, mstate s.part r q = some .rejoining → portDown s.part q = false) →
    failed = allPorts.filter (fun q => mstate s.part r q == some .inService && portDown s.part q) →
    ∃ t, exec (.admission tag (.write mask data) line) s = .next t ∧ sameOutside s.part t.part ∧
      (∀ r' q, (r' = r ∧ leavesService s.part r (portDown s.part) q → mstate t.part r' q = some .faulted) ∧
        (¬ (r' = r ∧ leavesService s.part r (portDown s.part) q) → mstate t.part r' q = mstate s.part r' q)) ∧
      (∀ bodies, List.Forall₂ (fun q (b : EventBody) =>
          (leavesService s.part r (portDown s.part) q →
            b = { kind := .memberEjected, port := some q, region := some r, detail := 3 }) ∧
          (¬ leavesService s.part r (portDown s.part) q →
            b = { kind := .lastReplicaError, port := some q, region := some r, detail := 3, addr := .line line }))
          failed bodies → t.part.events = bodies.foldl postTo s.part.events) ∧
      (∀ q, (t.part.port q).queue = (s.part.port q).queue) ∧ t.part.lists = s.part.lists ∧
      ((∃ q, (mstate s.part r q = some .inService ∨ mstate s.part r q = some .rejoining) ∧ portDown s.part q = false) →
        ∃ e, t.part.table = s.part.table ++ [e] ∧ e.tag = tag ∧ e.payload = some (mask, data) ∧ e.line = line ∧
          e.region = r ∧ e.state = .waitingSlot ∧
          (∀ q, hasPort e.target q = true ↔ (mstate s.part r q = some .inService ∨ mstate s.part r q = some .rejoining) ∧
            portDown s.part q = false) ∧
          (∀ q, (hasPort e.fail q = true ↔ q ∈ failed) ∧ (hasPort e.counted q = true ↔ q ∈ failed)) ∧
          e.reasons = failed.map (fun q => (q, .link)) ∧ e.ack = 0#4 ∧ t.part.trace = s.part.trace ∧
          (t.part.region r).inFlight = (s.part.region r).inFlight + 1) ∧
      ((∀ q, mstate s.part r q = some .inService ∨ mstate s.part r q = some .rejoining → portDown s.part q = true) →
        t.part.table = s.part.table ∧
        t.part.trace = s.part.trace ++ [.response { tag := tag, status := .portDown, data := none }] ∧
        (t.part.region r).inFlight = (s.part.region r).inFlight)

/-- The port's oldest outcome (log 27), finishing an entry whose freeing drains no region, with no other entry for its
line (for both FreeingDrainsAndHandsOn): an ISSUED entry gets its one response, with the data of an OK read; an ORPHANED
one is freed without a response. The tag is free and the in-flight count falls by one. The status of a MIRROR write is OK
when a counted port that was IN_SERVICE at placement acknowledged, else MEDIA when a counted port failed with MEDIA, else
PORT_DOWN (the counted set is kept until the freeing, log 9). -/
def Obligations.HostOutcomeFinishes : Prop :=
  (∀ (q : Port) (h : Handed) (rest : List Handed) (tag : Tag) (e : Entry) (status : RespStatus) (s : State),
    s.part.porst = false → takeFirst (fun h => h.port == q && isHost h.origin) s.part.handed = some (h, rest) →
    h.origin = .host tag → findEntry s.part tag = some e → e.state = .issued ∨ e.state = .orphaned →
    finalStatus s.part e q h.result = some status → freesQuietly s.part e →
    leavesPart (.hostOutcome q) s
      { s.part with
        handed := rest
        table := s.part.table.filter (fun x => x.tag != tag)
        regions := s.part.regions.set e.region
          { s.part.region e.region with inFlight := (s.part.region e.region).inFlight - 1 }
        trace := if e.state = .orphaned then s.part.trace else s.part.trace ++
          [.response { tag := tag, status := status,
                       data := if e.kind = .read ∧ status = .ok then resultData h.result else none }] }) ∧
  ∀ e : Entry,
    ((∃ q, hasPort e.counted q = true ∧ hasPort e.ack q = true ∧ hasPort e.inServiceAtPlacement q = true) →
      writeStatus e = .ok) ∧
    ((∀ q, hasPort e.counted q = true → hasPort e.inServiceAtPlacement q = true → hasPort e.ack q = false) →
      (∃ q, hasPort e.counted q = true ∧ hasPort e.fail q = true ∧ (q, Reason.media) ∈ e.reasons) →
      writeStatus e = .media) ∧
    ((∀ q, hasPort e.counted q = true → hasPort e.inServiceAtPlacement q = true → hasPort e.ack q = false) →
      (∀ q, hasPort e.counted q = true → hasPort e.fail q = true → (q, Reason.media) ∉ e.reasons) →
      writeStatus e = .portDown)

/-- A failed outcome of a MIRROR read, the port's oldest (log 27): it is recorded and reported (the last replica stays, any
other IN_SERVICE copy is ejected, and at a REJOINING copy every REJOINING copy of the port leaves the rebuild and its
waiting job is abandoned). An ISSUED read goes to the copy the policy now picks among those not tried, with
READ_REDIRECTED, and with no free slot there a later write gives its held slot back (log 22); with nothing eligible it is
completed MEDIA or PORT_DOWN, by this failure. An ORPHANED one is freed without a response. -/
def Obligations.FailedReadOutcome : Prop :=
  ∀ (q : Port) (h : Handed) (rest : List Handed) (tag : Tag) (why : Reason) (e : Entry) (p1 : Part) (s : State),
    s.part.porst = false → takeFirst (fun h => h.port == q && isHost h.origin) s.part.handed = some (h, rest) →
    h.origin = .host tag → (h.result = .error ∧ why = .media ∨ h.result = .failed why) →
    findEntry s.part tag = some e → e.kind = .read → (s.part.region e.region).mode = .mirror →
    reportWaits s.part e.region q →
    p1 = reportTaken e.region q why (some e.line) (updateEntry tag (recordFail q why) { s.part with handed := rest }) →
    (e.state = .issued → ∀ next p', chooseRead p1 e = some (next, p') →
      (hasFreeSlot (p'.port next) = true → leavesPart (.hostOutcome q) s (redirected e q next p')) ∧
      (hasFreeSlot (p'.port next) = false →
        leavesPart (.hostOutcome q) s (taskGiveBack next (redirected e q next p')).1)) ∧
    (e.state = .issued → chooseRead p1 e = none → freesQuietly s.part e →
      leavesPart (.hostOutcome q) s (p1.finished e (if why = .media then .media else .portDown) none)) ∧
    (e.state = .orphaned → freesQuietly s.part e →
      leavesPart (.hostOutcome q) s (p1.finished e .ok none))

/-- A failed outcome of a MIRROR write, ISSUED or ORPHANED, the port's oldest (log 27): it is recorded and reported, and
then, if the copy is found FAULTED or DETACHED, the line's extent is inserted into its port's list; for a protected last
replica nothing is inserted. With outcomes outstanding that is all; the last one finishes the entry with its status. At a
REJOINING copy every REJOINING copy of the port leaves the rebuild, and the extent is in the list, with the port's job
running too. -/
def Obligations.FailedWriteOutcome : Prop :=
  ∀ (q : Port) (h : Handed) (rest : List Handed) (tag : Tag) (why : Reason) (e : Entry) (p1 p2 : Part) (s : State),
    s.part.porst = false → takeFirst (fun h => h.port == q && isHost h.origin) s.part.handed = some (h, rest) →
    h.origin = .host tag → (h.result = .error ∧ why = .media ∨ h.result = .failed why) →
    findEntry s.part tag = some e → e.state = .issued ∨ e.state = .orphaned → e.kind = .write →
    (s.part.region e.region).mode = .mirror →
    p1 = reportTaken e.region q why (some e.line) (updateEntry tag (recordFail q why) { s.part with handed := rest }) →
    p2 = (if mstate p1 e.region q = some .faulted ∨ mstate p1 e.region q = some .detached
          then insertRun q { region := e.region, first := extentOf (s.part.region e.region) e.line, count := 1 } p1
          else p1) →
    (reportWaits s.part e.region q →
      (portSubset e.target (e.ack ||| addPort e.fail q) = false → leavesPart (.hostOutcome q) s p2) ∧
      (portSubset e.target (e.ack ||| addPort e.fail q) = true → freesQuietly s.part e →
        leavesPart (.hostOutcome q) s (p2.finished e (writeStatus (recordFail q why e)) none))) ∧
    (mstate s.part e.region q = some .rejoining → (s.part.region e.region).state = .live →
      (∀ x ∈ s.part.table, x.line = e.line → x.tag = tag) → listSound (s.part.divList q) →
      claimHoldsNone s.part →
      (s.part.jobs.filter (fun j => !isCatchUp q j) = [] ∨
        headHeld s.part ∧ ∀ j ∈ s.part.jobs, isCatchUp q j = true → j.started = false) →
      ∃ t, exec (.hostOutcome q) s = .next t ∧ sameOutside { s.part with handed := rest } t.part ∧
        (∀ r, mstate s.part r q = some .rejoining → (s.part.region r).state = .live →
          mstate t.part r q = some .faulted) ∧
        (∀ r, mstate t.part r q ≠ some .rejoining) ∧
        ∃ y ∈ t.part.divList q, y.region = e.region ∧ y.first ≤ extentOf (s.part.region e.region) e.line ∧
          extentOf (s.part.region e.region) e.line < y.stop)

/-- What follows the freeing of an entry at HOST_OUTCOME, by the port's oldest outcome (log 27), OK or failed, for an
ISSUED or ORPHANED entry. The last entry of a RETIRING region without the window: the region becomes FREE, its runs are
purged, its memberships gone, jobs left without a REJOINING copy withdrawn, REGION_RETIRED posted. An entry waiting for
the same line behind it, with no line claim there: it leaves WAITING_LINE and makes its first target choice in that event,
after the freeing (log 13). -/
def Obligations.FreeingDrainsAndHandsOn : Prop :=
  ∀ (q : Port) (h : Handed) (rest : List Handed) (tag : Tag) (e : Entry) (p1 : Part) (status : RespStatus)
    (data : Option LineData) (s : State), s.part.porst = false →
    takeFirst (fun h => h.port == q && isHost h.origin) s.part.handed = some (h, rest) → h.origin = .host tag →
    findEntry s.part tag = some e → e.state = .issued ∨ e.state = .orphaned → tagsDistinct s.part →
    ((∃ d, h.result = .ok d) ∨ reportWaits s.part e.region q) → finishes e q h.result { s.part with handed := rest } p1 status data →
    ((s.part.region e.region).state = .retiring → (s.part.region e.region).inFlight = 1 → windowOn s.part e.region = false →
      (∀ x ∈ s.part.table, x.line = e.line → x.tag = tag) → nothingStarts p1 →
      leavesPart (.hostOutcome q) s ((p1.finished e status data).retired e.region)) ∧
    ∀ e2, drainsNothing s.part e → (s.part.table.filter (fun x => x.tag != tag)).find? (fun x => x.line == e.line) = some e2 →
      e2.state = .waitingLine → s.part.lineClaim ≠ some e.line →
      ∃ p', leavesPart (.hostOutcome q) s p' ∧ firstChoiceMade (p1.finished e status data) e2 p'

/-- A failure report and a link-loss claim: an IN_SERVICE copy leaves service unless it is the last replica, which stays
with LAST_REPLICA_ERROR (with the report's line, without one for the claim); a REJOINING one takes every REJOINING copy of
its port with it; others are not changed. MEMBER_EJECTED is posted for each copy that leaves, in ascending region order,
with the reason. With a REJOINING copy taken out, the port's job, where it waits behind a running job or a window, is
abandoned with COPY_ABORTED (TARGET) after the membership events. -/
def Obligations.FailureReports : Prop :=
  (∀ (r : RegionIx) (q : Port) (why : Reason) (line : Option UpAddr) (p : Part),
    (mstate p r q = some .inService → (∃ q', q' ≠ q ∧ mstate p r q' = some .inService) →
      takeReport r q why line p =
        post { kind := .memberEjected, port := some q, region := some r, detail := reasonCode why }
          (setMState r q .faulted p) ∧
      ∀ r' q', mstate (takeReport r q why line p) r' q' =
        if r' = r ∧ q' = q then some .faulted else mstate p r' q') ∧
    (mstate p r q = some .inService → (∀ q', q' ≠ q → mstate p r q' ≠ some .inService) →
      takeReport r q why line p =
        post { kind := .lastReplicaError, port := some q, region := some r, detail := reasonCode why,
               addr := match line with | some a => .line a | none => .absent } p) ∧
    (mstate p r q = some .rejoining →
      (takeReport r q why line p).lists = p.lists ∧
      (takeReport r q why line p).events = (rejoinRecords q why p).foldl postTo p.events ∧
      ∀ r' q', mstate (takeReport r q why line p) r' q' =
        if q' = q ∧ mstate p r' q = some .rejoining then some .faulted else mstate p r' q') ∧
    (mstate p r q ≠ some .inService → mstate p r q ≠ some .rejoining → takeReport r q why line p = p) ∧
    (reportWaits p r q → settle (p, [.report r q why line]) = reportTaken r q why line p)) ∧
  ∀ (q : Port) (why : Reason) (p : Part),
    (∀ r' q', mstate (takeLinkLoss q why p) r' q' =
      if q' = q ∧ (mstate p r' q = some .rejoining ∨
          mstate p r' q = some .inService ∧ ∃ x, x ≠ q ∧ mstate p r' x = some .inService)
      then some .faulted else mstate p r' q') ∧
    (takeLinkLoss q why p).events = (lossRecords q why p).foldl postTo p.events ∧
    ((∀ r', mstate p r' q ≠ some .rejoining) → settle (linkLossWorks q why p) = takeLinkLoss q why p) ∧
    ((∃ r', mstate p r' q = some .rejoining) → headHeld p →
      (∀ j ∈ p.jobs, isCatchUp q j = true → j.started = false) → p.jobs.any (isCatchUp q) = true →
      settle (linkLossWorks q why p) =
        post { kind := .copyAborted, port := some q, detail := 6 }
          { takeLinkLoss q why p with jobs := p.jobs.filter (fun j => !isCatchUp q j) })

/-- HRST_N asserted: every entry not yet placed is freed without a response, every ISSUED entry becomes ORPHANED, UP_READY
is deasserted, the port queues and links stay. Exactly the frees, the falls of the counts and HOST_RESET happen; and a
RETIRING region without the window whose entries were all freed becomes FREE, its runs purged, with REGION_RETIRED before
HOST_RESET, in the order of the regions' last freed entries (log 25). Held asserted, or under PORST_N, nothing is freed
and nothing posted. -/
def Obligations.HostReset : Prop :=
  (∀ s : State, s.part.porst = false → s.part.hrst = false → tagsDistinct s.part →
    (∃ t, exec .hrstNAssert s = .next t ∧ t.part.hrst = true ∧ upReady t.part = false ∧
      sameOutside { s.part with hrst := true } t.part ∧
      t.part.table = (s.part.table.filter (fun e => !unplaced e)).map orphan ∧
      ∀ q, (t.part.port q).queue = (s.part.port q).queue ∧ (t.part.port q).link = (s.part.port q).link) ∧
    ((∀ e ∈ s.part.table, unplaced e = true → (s.part.region e.region).state ≠ .retiring) →
      leavesPart .hrstNAssert s
        (post { kind := .hostReset }
          (((s.part.table.filter unplaced).foldl dropWaiting { s.part with hrst := true }).setTable
            ((s.part.table.filter (fun e => !unplaced e)).map orphan)))) ∧
    (inFlightExact s.part → nothingStarts s.part →
      leavesPart .hrstNAssert s
        (post { kind := .hostReset }
          ((drainedByReset s.part).foldl Part.retired
            (((s.part.table.filter unplaced).foldl dropWaiting { s.part with hrst := true }).setTable
              ((s.part.table.filter (fun e => !unplaced e)).map orphan)))))) ∧
  (∀ s : State, s.part.hrst = true → exec .hrstNAssert s = .next s) ∧
  ∀ s : State, s.part.porst = true → s.part.hrst = false → leavesPart .hrstNAssert s { s.part with hrst := true }

/-- UP_READY is asserted exactly while both reset inputs are deasserted and no entry is ORPHANED; a tag that is free always
finds a free entry of the 32; the deassertion of HRST_N changes nothing but the pin. Rows with nothing to act on change
nothing (model's reading, log 4): ADMISSION while UP_READY is deasserted; a grant on a link FAILED or OFF, in a slot that
is not free, or with no claimant; an outcome or a link-loss claim that no port has handed over; and while PORST_N is
asserted every row but the two reset pins. -/
def Obligations.UpReadyAndIdleRows : Prop :=
  (∀ p : Part, upReady p = true ↔ p.porst = false ∧ p.hrst = false ∧ ∀ e ∈ p.table, e.state ≠ .orphaned) ∧
  (∀ s : State, leavesPart .hrstNDeassert s { s.part with hrst := false }) ∧
  (∀ (p : Part) (tag : Tag), tagsDistinct p → (∀ e ∈ p.table, e.tag ≠ tag) → p.table.length < 32) ∧
  (∀ (tag : Tag) (op : Op) (line : UpAddr) (s : State), upReady s.part = false →
    exec (.admission tag op line) s = .next s) ∧
  (∀ (q : Port) (k : SlotIx) (s : State),
    (portDown s.part q = true ∨ slotFree (s.part.port q) k = false ∨
      presented s.part q = none ∧ copyClaimAt s.part q = none) →
    exec (.grant q k) s = .next s) ∧
  (∀ (q : Port) (s : State),
    ((∀ h ∈ s.part.handed, h.port = q → isHost h.origin = false) → exec (.hostOutcome q) s = .next s) ∧
    ((∀ h ∈ s.part.handed, h.port = q → isCopy h.origin = false) → exec (.copyOutcome q) s = .next s) ∧
    ((∀ c ∈ s.part.lossClaims, c.1 ≠ q) → exec (.linkLossClaim q) s = .next s)) ∧
  ∀ (c : Instr) (s : State), s.part.porst = true → c ≠ .hrstNAssert → c ≠ .hrstNDeassert → c ≠ .porstNAssert →
    (∀ bootsz mbaud, c ≠ .porstNDeassert bootsz mbaud) → exec c s = .next s

/-! ## Slot arbiter -/

/-- A grant to the dispatcher that presents a READ or a DIRECT write: its transaction enters the queue in the granted
slot, at the end of the entry order, sent at once on an ACTIVE link; the entry becomes ISSUED; a DROWSY link wakes, its wake
timer started and the device asked for the link; the silence timer stops; the pass-over count rises by one while the copy
engine waits too. A later write may give a held slot of a full port back (log 22); nothing else changes. -/
def Obligations.GrantPlacesSingleTarget : Prop :=
  ∀ (q : Port) (k : SlotIx) (e : Entry) (s : State), s.part.porst = false → portDown s.part q = false →
    slotFree (s.part.port q) k = true → presented s.part q = some e → grantsToEngine s.part q = false →
    (e.kind = .read ∨ (s.part.region e.region).mode = .direct) →
    ∃ t a, exec (.grant q k) s = .next t ∧ a = downAddr (s.part.region e.region) q e.line ∧
      t.part.port q = { portGranted s.part q with
        queue := (s.part.port q).queue ++ [queuedEntry s.part q k (.host e.tag) (entryOp e) a]
        held := (t.part.port q).held } ∧
      (occupancy (s.part.port q) < 15 → (t.part.port q).held = (s.part.port q).held) ∧
      (∀ q', q' ≠ q → t.part.port q' = s.part.port q') ∧
      t.part = { s.part with
        ports := t.part.ports
        table := s.part.table.map (fun x => if x.tag = e.tag then { x with state := .issued, payload := none } else x)
        trace := s.part.trace ++ wakeOutput s.part q ++ sendOutput s.part q k (entryOp e) a }

/-- A grant to the dispatcher that presents a MIRROR write with slots still missing elsewhere: the slot is held for it; the
port wakes from DROWSY, its silence timer stops and its pass-over count rises by one while the copy engine waits too. A later
write may give a held slot of a full port back (log 22); no queue, no entry, no list and nothing else changes. -/
def Obligations.GrantHoldsSlotForMirrorWrite : Prop :=
  ∀ (q : Port) (k : SlotIx) (e : Entry) (s : State), s.part.porst = false → portDown s.part q = false →
    slotFree (s.part.port q) k = true → presented s.part q = some e → grantsToEngine s.part q = false →
    tagsDistinct s.part → e.kind = .write → (s.part.region e.region).mode = .mirror →
    addPort (heldSet s.part e.tag) q ≠ e.target →
    ∃ t, exec (.grant q k) s = .next t ∧ heldSlot t.part e.tag q = some k ∧
      t.part.port q = { portGranted s.part q with held := (t.part.port q).held } ∧
      (occupancy (s.part.port q) < 15 → (t.part.port q).held = (s.part.port q).held ++ [(k, e.tag)]) ∧
      (∀ q', q' ≠ q → t.part.port q' = s.part.port q') ∧
      t.part = { s.part with ports := t.part.ports, trace := s.part.trace ++ wakeOutput s.part q }

/-- The grant of the last slot a MIRROR write needs: at that one event its transaction enters the held slot of every
target port, sent at once on each ACTIVE link; the granted port wakes from DROWSY, and its pass-over count rises by one while
the copy engine waits there too; the targets IN_SERVICE are counted, and kept for the status (log 9); IN_SERVICE copies that
are no targets are reported again unless last replica, with MEMBER_EJECTED; the line's extent is inserted for every copy then
FAULTED or DETACHED, with DIVERGENCE_COALESCED where it coalesces; the entry becomes ISSUED; nothing else changes. The part
stands so (`p1`) when the write notice goes to the copy engine, with the full-line indication, and one give-back of the port
(log 22) follows the notice (model's choice, log 29). The premise that a port's held tags are distinct is an invariant. -/
def Obligations.GrantPlacesMirrorWriteEverywhere : Prop :=
  ∀ (q : Port) (k : SlotIx) (e : Entry) (s : State), s.part.porst = false → portDown s.part q = false →
    slotFree (s.part.port q) k = true → presented s.part q = some e → grantsToEngine s.part q = false →
    tagsDistinct s.part → heldTagsDistinct s.part → e.kind = .write → (s.part.region e.region).mode = .mirror →
    addPort (heldSet s.part e.tag) q = e.target →
    ∃ t p1 full inService, exec (.grant q k) s = .next t ∧ t.part = settle (p1, [.notice e.line full, .giveBack q]) ∧
      (full = true ↔ ∃ d, e.payload = some (BitVec.allOnes 64, d)) ∧
      (∀ q', hasPort inService q' = true ↔ hasPort e.target q' = true ∧ mstate s.part e.region q' = some .inService) ∧
      p1 = { s.part with
        table := s.part.table.map (fun x => if x.tag = e.tag then
          { x with state := .issued, payload := none, counted := x.counted ||| inService,
                   inServiceAtPlacement := inService } else x)
        regions := s.part.regions.set e.region { s.part.region e.region with
          members := (s.part.region e.region).members.map (fun m =>
            if leavesService s.part e.region (fun x => !hasPort e.target x) m.port
            then { m with state := some .faulted } else m) }
        ports := p1.ports
        lists := p1.lists
        events := (placementRecords e s.part p1).foldl postTo s.part.events
        trace := s.part.trace ++ wakeOutput s.part q ++ (portsOf e.target).flatMap (fun q' =>
          sendOutput s.part q' (if q' = q then k else (heldSlot s.part e.tag q').getD k) (entryOp e)
            (downAddr (s.part.region e.region) q' e.line)) } ∧
      (∀ r' q', (r' = e.region ∧ leavesService s.part e.region (fun x => !hasPort e.target x) q' →
          mstate p1 r' q' = some .faulted) ∧
        (¬ (r' = e.region ∧ leavesService s.part e.region (fun x => !hasPort e.target x) q') →
          mstate p1 r' q' = mstate s.part r' q')) ∧
      (∀ q', p1.divList q' =
        if mstate p1 e.region q' = some .faulted ∨ mstate p1 e.region q' = some .detached
        then withLine s.part e.region q' e.line else s.part.divList q') ∧
      (∀ q', hasPort e.target q' = true → ∃ k', (if q' = q then k' = k else heldSlot s.part e.tag q' = some k') ∧
        p1.port q' = { (if q' = q then portGranted s.part q else s.part.port q') with
          queue := (s.part.port q').queue ++
            [queuedEntry s.part q' k' (.host e.tag) (entryOp e) (downAddr (s.part.region e.region) q' e.line)]
          held := (s.part.port q').held.filter (fun h => h.1 != k')
          silenceSince := none } ∧
        heldSlot p1 e.tag q' = none) ∧
      (∀ q', hasPort e.target q' = false → p1.port q' = s.part.port q') ∧
      (∀ q', (t.part.port q').queue = (p1.port q').queue ∧ (t.part.port q').link = (p1.port q').link) ∧
      (∃ e' ∈ t.part.table, e'.tag = e.tag ∧ e'.state = .issued ∧ e'.payload = none ∧ e'.target = e.target) ∧
      (t.part.port q).link = linkAfterGrant (s.part.port q).link ∧
      (∀ q', q' ≠ q → (t.part.port q').link = (s.part.port q').link) ∧ t.part.now = s.part.now ∧
      t.part.handed = s.part.handed ∧ t.part.lossClaims = s.part.lossClaims ∧ t.part.mgmt = s.part.mgmt ∧
      t.part.events.mask = s.part.events.mask

/-- A grant to the copy engine, waiting alone or passed over as often as the copy weight says: its transaction enters the
queue in the slot, sent at once on an ACTIVE link; a DROWSY link wakes, its wake timer started and the device asked for the
link; the silence timer stops, the pass-over count returns to 0, and the window moves on to READING or WRITING. A later write
may give a held slot of a full port back (log 22); nothing else changes. -/
def Obligations.GrantToCopyEngine : Prop :=
  ∀ (q : Port) (k : SlotIx) (c : Claim) (s : State), s.part.porst = false → portDown s.part q = false →
    slotFree (s.part.port q) k = true → copyClaimAt s.part q = some c →
    (presented s.part q = none ∨ (s.part.port q).weight ≤ (s.part.port q).passOver) →
    ∃ t, exec (.grant q k) s = .next t ∧
      t.part.port q = { portGranted s.part q with
        queue := (s.part.port q).queue ++ [queuedEntry s.part q k (.copy c.part) c.op c.addr]
        held := (t.part.port q).held
        passOver := 0 } ∧
      (occupancy (s.part.port q) < 15 → (t.part.port q).held = (s.part.port q).held) ∧
      (∀ q', q' ≠ q → t.part.port q' = s.part.port q') ∧
      t.part = { s.part with
        ports := t.part.ports
        window := s.part.window.map (windowGranted c)
        trace := s.part.trace ++ wakeOutput s.part q ++ sendOutput s.part q k c.op c.addr }

/-! ## Links and responses -/

/-- A ready report: TRAINING ends in ACTIVE with PORT_LINK_UP, WAKING ends in ACTIVE without an event, every PENDING entry
is sent in entry order with this event's time; in every other state it is ignored. A link error in TRAINING, ACTIVE or
WAKING makes the link FAILED with PORT_LINK_FAILED (LINK), every entry failing for LINK; in DROWSY, OFF and FAILED it is
ignored. The port's own event comes first (log 5). -/
def Obligations.ReadyReportsAndLinkErrors : Prop :=
  (∀ (q : Port) (s : State), s.part.porst = false →
     ((s.part.port q).link = .training ∨ (s.part.port q).link = .waking →
       ∃ t, exec (.deviceReady q) s = .next t ∧
         t.part.port q = { s.part.port q with
           link := .active, trainingSince := none, wakeSince := none,
           queue := (s.part.port q).queue.map (fun x => if x.sentAt.isNone then { x with sentAt := some s.part.now } else x),
           silenceSince := if (s.part.port q).silence ≠ 0 ∧ occupancy (s.part.port q) = 0 then some s.part.now else none } ∧
         (∀ q', q' ≠ q → t.part.port q' = s.part.port q') ∧
         t.part.trace = s.part.trace ++ ((s.part.port q).queue.filter (fun x => x.sentAt.isNone)).map
           (fun x => Output.send q x.slot x.op x.addr) ∧
         t.part.events = (if (s.part.port q).link = .training
           then postTo s.part.events { kind := .portLinkUp, port := some q } else s.part.events) ∧
         t.part.table = s.part.table ∧ t.part.regions = s.part.regions ∧ t.part.lists = s.part.lists ∧
         t.part.handed = s.part.handed ∧ t.part.jobs = s.part.jobs ∧ t.part.window = s.part.window) ∧
     ((s.part.port q).link ≠ .training → (s.part.port q).link ≠ .waking → exec (.deviceReady q) s = .next s)) ∧
  ∀ (q : Port) (s : State), s.part.porst = false →
    ((s.part.port q).link = .training ∨ (s.part.port q).link = .active ∨ (s.part.port q).link = .waking →
      ∃ t, exec (.linkError q) s = .next t ∧ portLost s.part t.part q .failed .link ∧
        postsFirst s.part.events t.part.events [{ kind := .portLinkFailed, port := some q, detail := 3 }] ∧
        t.part.now = s.part.now ∧ t.part.mgmt = s.part.mgmt) ∧
    ((s.part.port q).link = .drowsy ∨ (s.part.port q).link = .off ∨ (s.part.port q).link = .failed →
      exec (.linkError q) s = .next s)

/-- The four expiries; each brings the time to its deadline at least (model's account of time, log 2). Silence: the idle
link becomes DROWSY, the device is told to power down, no event. The three others make the link FAILED with the effects of
an entry into FAILED: training expiry with PORT_LINK_FAILED (TRAINING), wake expiry with WAKE_FAILED before
PORT_LINK_FAILED (LINK), response expiry at the oldest SENT entry with everything failing for TIMEOUT. The port's own
events come first (log 5). A timer that does not run, or measures nothing (a response timer on a link that is not ACTIVE,
or with no SENT entry), expires without effect (log 4). -/
def Obligations.TimerExpiries : Prop :=
  ∀ (q : Port) (t0 : Nat) (s : State), s.part.porst = false →
    (∀ d, (s.part.port q).silenceSince = some t0 → silenceMicros (s.part.port q).silence = some d →
      leavesPart (.silenceTimerExpiry q) s
        { s.part.setPort q { s.part.port q with link := .drowsy, silenceSince := none } with
          now := max s.part.now (t0 + d)
          trace := s.part.trace ++ [.powerDown q] }) ∧
    ((s.part.port q).silenceSince = none → exec (.silenceTimerExpiry q) s = .next s) ∧
    ((s.part.port q).link = .training → (s.part.port q).trainingSince = some t0 →
      ∃ t, exec (.trainingTimerExpiry q) s = .next t ∧ portLost s.part t.part q .failed .link ∧
        postsFirst s.part.events t.part.events [{ kind := .portLinkFailed, port := some q, detail := 4 }] ∧
        t.part.now = max s.part.now (t0 + 5000) ∧ t.part.mgmt = s.part.mgmt) ∧
    ((s.part.port q).link ≠ .training ∨ (s.part.port q).trainingSince = none →
      exec (.trainingTimerExpiry q) s = .next s) ∧
    ((s.part.port q).link = .waking → (s.part.port q).wakeSince = some t0 →
      ∃ t, exec (.wakeTimerExpiry q) s = .next t ∧ portLost s.part t.part q .failed .link ∧
        postsFirst s.part.events t.part.events
          [{ kind := .wakeFailed, port := some q }, { kind := .portLinkFailed, port := some q, detail := 3 }] ∧
        t.part.now = max s.part.now (t0 + 1000) ∧ t.part.mgmt = s.part.mgmt) ∧
    ((s.part.port q).link ≠ .waking ∨ (s.part.port q).wakeSince = none → exec (.wakeTimerExpiry q) s = .next s) ∧
    (∀ x d, (s.part.port q).link = .active → oldestSent (s.part.port q) = some x → x.sentAt = some t0 →
      timeoutMicros (s.part.port q).timeoutIx = some d →
      ∃ t, exec (.responseTimerExpiry q) s = .next t ∧ portLost s.part t.part q .failed .timeout ∧
        postsFirst s.part.events t.part.events [{ kind := .portLinkFailed, port := some q, detail := 2 }] ∧
        t.part.now = max s.part.now (t0 + d) ∧ t.part.mgmt = s.part.mgmt) ∧
    ((s.part.port q).link ≠ .active ∨ oldestSent (s.part.port q) = none ∨
        timeoutMicros (s.part.port q).timeoutIx = none →
      exec (.responseTimerExpiry q) s = .next s)

/-- A response on an ACTIVE link that names a SENT entry and suits its kind: the entry leaves with its outcome and the
silence timer is restarted; one of the wrong form is a link error, its event first (log 5); any other response is
discarded. -/
def Obligations.DeviceResponseByForm : Prop :=
  ∀ (q : Port) (k : SlotIx) (resp : DevResponse) (s : State), s.part.porst = false →
    (∀ x, (s.part.port q).link = .active →
      (s.part.port q).queue.find? (fun x => x.slot == k && x.sentAt.isSome) = some x →
      (∀ result, responseResult x.op resp = some result →
        leavesPart (.deviceResponse q k resp) s
          { s.part.setPort q (restartSilence s.part.now
              { s.part.port q with queue := (s.part.port q).queue.filter (fun y => y.slot != k) }) with
            handed := s.part.handed ++ [{ port := q, origin := x.origin, result := result }] }) ∧
      (responseResult x.op resp = none →
        ∃ t, exec (.deviceResponse q k resp) s = .next t ∧ portLost s.part t.part q .failed .link ∧
          postsFirst s.part.events t.part.events [{ kind := .portLinkFailed, port := some q, detail := 3 }] ∧
          t.part.now = s.part.now ∧ t.part.mgmt = s.part.mgmt)) ∧
    ((s.part.port q).link ≠ .active ∨ (∀ x ∈ (s.part.port q).queue, x.slot = k → x.sentAt = none) →
      exec (.deviceResponse q k resp) s = .next s)

/-- What a link loss does to the waits at the port, after the port's own part and events (log 5), where one entry waits
there (the port's timers set `now` to at least the deadline, model's account of time, log 2): a DIRECT request is answered
PORT_DOWN; a MIRROR read is reported and goes on to another copy with READ_REDIRECTED,
or is answered PORT_DOWN; a MIRROR write loses the target (counted if its copy is IN_SERVICE), is reported, and is then
completed if no target is left, placed if it holds a slot at every target left, and left waiting otherwise. Several waits
of DIRECT requests end in admission order. These are the effects of LINK_ERROR, the expiries, a response of the wrong form
and PORT_DISABLE. -/
def Obligations.LinkLossEndsWaits : Prop :=
  (∀ (q : Port) (dest : Link) (why : Reason) (events : List EventBody) (e : Entry) (p p0 : Part),
    linkDown dest = true → p0 = postAll events (dropLink q dest why p) → soleWaiter p e q →
    ((p.region e.region).mode = .direct → drainsNothing p e →
      loseLink q dest why events p = p0.finished e .portDown none) ∧
    (∀ p1, (p.region e.region).mode = .mirror → e.kind = .read → reportWaits p e.region q →
      p1 = reportTaken e.region q .link (some e.line)
        (updateEntry e.tag (fun x => { x with target := 0#4, reasons := withReason q .link x.reasons }) p0) →
      (∀ next p', chooseRead p1 e = some (next, p') → hasFreeSlot (p'.port next) = true →
        loseLink q dest why events p = redirected e q next p') ∧
      (chooseRead p1 e = none → drainsNothing p e →
        loseLink q dest why events p = p1.finished e .portDown none)) ∧
    ∀ p1 e1, (p.region e.region).mode = .mirror → e.kind = .write → reportWaits p e.region q →
      e1 = { e with target := dropPort e.target q, fail := addPort e.fail q, reasons := withReason q .link e.reasons,
                    counted := if mstate p e.region q = some .inService then addPort e.counted q else e.counted } →
      p1 = reportTaken e.region q .link (some e.line) (updateEntry e.tag (fun _ => e1) p0) →
      (e1.target = 0#4 → drainsNothing p e →
        loseLink q dest why events p = p1.finished e (writeStatus e1) none) ∧
      (e1.target ≠ 0#4 → heldSet p1 e.tag ≠ e1.target → loseLink q dest why events p = p1) ∧
      (e1.target ≠ 0#4 → heldSet p1 e.tag = e1.target → p.window.map (·.addr) ≠ some e.line →
        loseLink q dest why events p = (placeMirror e1 p1).1)) ∧
  (∀ (q : Port) (dest : Link) (why : Reason) (events : List EventBody) (p : Part),
    linkDown dest = true → tagsDistinct p → copyClaimAt p q = none →
    (∀ e ∈ p.table, (∀ x ∈ p.table, x.line = e.line → x.tag = e.tag) ∧ (e.state = .waitingSlot →
      (∀ q', hasPort e.target q' = true → q' = q ∨ portDown p q' = false) ∧ (hasPort e.target q = true →
        (p.region e.region).mode = .direct ∧ (p.region e.region).state = .live))) →
    (loseLink q dest why events p).trace = p.trace ++
      (p.table.filter (fun e => e.state == .waitingSlot && hasPort e.target q)).map
        (fun e => Output.response { tag := e.tag, status := .portDown, data := none }) ∧
    (loseLink q dest why events p).table =
      p.table.filter (fun e => !(e.state == .waitingSlot && hasPort e.target q))) ∧
  ∀ (q : Port) (t0 : Nat) (s : State), s.part.porst = false →
    ((s.part.port q).link = .training ∨ (s.part.port q).link = .active ∨ (s.part.port q).link = .waking →
      leavesPart (.linkError q) s (loseLink q .failed .link [linkFailedEvent q .link] s.part)) ∧
    ((s.part.port q).link = .training → (s.part.port q).trainingSince = some t0 →
      leavesPart (.trainingTimerExpiry q) s
        (loseLink q .failed .link [linkFailedEvent q .training] { s.part with now := max s.part.now (t0 + 5000) })) ∧
    ((s.part.port q).link = .waking → (s.part.port q).wakeSince = some t0 →
      leavesPart (.wakeTimerExpiry q) s
        (loseLink q .failed .link [{ kind := .wakeFailed, port := some q }, linkFailedEvent q .link]
          { s.part with now := max s.part.now (t0 + 1000) })) ∧
    (∀ x d, (s.part.port q).link = .active → oldestSent (s.part.port q) = some x → x.sentAt = some t0 →
      timeoutMicros (s.part.port q).timeoutIx = some d →
      leavesPart (.responseTimerExpiry q) s
        (loseLink q .failed .timeout [linkFailedEvent q .timeout] { s.part with now := max s.part.now (t0 + d) })) ∧
    (∀ x k resp, (s.part.port q).link = .active →
      (s.part.port q).queue.find? (fun x => x.slot == k && x.sentAt.isSome) = some x → responseResult x.op resp = none →
      leavesPart (.deviceResponse q k resp) s (loseLink q .failed .link [linkFailedEvent q .link] s.part)) ∧
    ∀ seq port, takesCommand s seq → portOf port = some q → servesDirect s.part q = false →
      holdsLastReplica s.part q = false → (s.part.port q).link ≠ .off →
      repliesWith (.portDisable seq port 0#8) s seq 0x21#8 .ok [] (loseLink q .off .link [] (s.part.out (.shutDown q)))

/-- The membership machine takes a port's link-loss claim, the oldest of its claims, the others staying (log 19): no copy on
the port stays REJOINING; each IN_SERVICE copy that is not the last replica leaves service and none enters it; first of all
MEMBER_EJECTED is posted for each copy that leaves, and LAST_REPLICA_ERROR without a line for each last replica, in
ascending region order with the claim's reason; with no REJOINING copy there that is all, and no other membership, no list
and no queue changes. -/
def Obligations.LinkLossClaimTaken : Prop :=
  ∀ (q : Port) (why : Reason) (rest : List (Port × Reason)) (s : State), s.part.porst = false →
    takeFirst (fun c => c.1 == q) s.part.lossClaims = some ((q, why), rest) →
    ∃ t, exec (.linkLossClaim q) s = .next t ∧ sameOutside { s.part with lossClaims := rest } t.part ∧
      (∀ r, mstate t.part r q ≠ some .rejoining ∧
        (mstate t.part r q = some .inService →
          mstate s.part r q = some .inService ∧ ∀ x, x ≠ q → mstate s.part r x ≠ some .inService)) ∧
      postsFirst s.part.events t.part.events (lossRecords q why s.part) ∧
      ((∀ r, mstate s.part r q ≠ some .rejoining) →
        (∀ r q', mstate t.part r q' =
          if q' = q ∧ mstate s.part r q = some .inService ∧ (∃ x, x ≠ q ∧ mstate s.part r x = some .inService)
          then some .faulted else mstate s.part r q') ∧
        t.part.events = (lossRecords q why s.part).foldl postTo s.part.events ∧
        t.part.ports = s.part.ports ∧ t.part.lists = s.part.lists ∧ t.part.table = s.part.table ∧
        t.part.jobs = s.part.jobs ∧ t.part.window = s.part.window)

/-! ## Copy engine -/

/-- The copy engine takes an outcome of a catch-up line, at COPY_OUTCOME (log 8), the oldest COPY outcome of the port (log
27). The source's data is kept and a full-line WRITE is claimed at the target; with the re-read flag set, or the source no
longer IN_SERVICE, it is discarded and the line restarts with a source chosen afresh, its overtake count kept. A finished
copy write, and a cancelled line's data, start the next line of the extent, the line claim released. -/
def Obligations.CatchUpLineProgress : Prop :=
  ∀ (q t : Port) (h : Handed) (rest : List Handed) (w : Window) (s : State), s.part.porst = false →
    takeFirst (fun h => h.port == q && isCopy h.origin) s.part.handed = some (h, rest) →
    s.part.window = some w → w.job = .catchUp t → w.phase ≠ .closing →
    (∃ t', exec (.copyOutcome q) s = .next t' ∧ sameOutside { s.part with handed := rest } t'.part) ∧
    (∀ d, h.origin = .copy .sourceRead → h.result = .ok (some d) → w.cancelled = false → w.reread = false →
      mstate s.part w.region q = some .inService → portDown s.part t = false →
      leavesPart (.copyOutcome q) s
        { s.part with
          handed := rest
          window := some { w with data := [(q, d)],
                                  claims := [{ port := t, part := .targetWrite, op := .write (BitVec.allOnes 64) d,
                                               addr := downAddr (s.part.region w.region) t w.addr }] } }) ∧
    (∀ d src, h.origin = .copy .sourceRead → h.result = .ok d → w.cancelled = false →
      w.reread = true ∨ mstate s.part w.region q ≠ some .inService →
      w.addr = lineAddr (s.part.region w.region) w.extent w.lineNo →
      balance s.part (usableSources s.part t w.region) = some src →
      leavesPart (.copyOutcome q) s
        { s.part with handed := rest,
                      window := some (lineWindow s.part t src w.region w.extent w.lineNo w.overtake) }) ∧
    (∀ d src, (h.origin = .copy .targetWrite ∨ h.origin = .copy .sourceRead ∧ w.cancelled = true) → h.result = .ok d →
      claimHoldsNone s.part → w.lineNo + 1 < 1024 → (s.part.region w.region).state = .live →
      balance s.part (usableSources s.part t w.region) = some src →
      leavesPart (.copyOutcome q) s
        { s.part with handed := rest, lineClaim := none,
                      window := some (lineWindow s.part t src w.region w.extent (w.lineNo + 1) 0) })

/-- The ends of catch-up lines, at COPY_OUTCOME (log 8) of the oldest COPY outcome of the port (log 27). A line is done by its
copy write, by a cancelled line's data, or by the failed read of a cancelled line. Line 1,023 done: the extent is removed from
the target's list (as the first extent of a run it leaves it, otherwise nothing changes). A line of 0 to 1,022 done in a
RETIRING region: no next line, and the extent stays whole. In both cases a selection takes the next run (the first in list
order of a LIVE region where the copy is REJOINING), or with none left completes the job: its REJOINING copies enter service,
or DETACHED where runs of a RETIRING region are left, and COPY_DONE follows. A RETIRING region without entries that the window
leaves is drained. A failed source read of a line not cancelled: the job is abandoned for SOURCE if the source stays as last
replica or no other source is left, and the line restarts otherwise. A failed copy write takes the target out of the rebuild. A CLOSING window discards data, reports failures, and is absent when
nothing of it is outstanding. -/
def Obligations.CatchUpLineEnds : Prop :=
  ∀ (q t : Port) (h : Handed) (rest : List Handed) (w : Window) (p : Part) (s : State), s.part.porst = false →
    takeFirst (fun h => h.port == q && isCopy h.origin) s.part.handed = some (h, rest) →
    s.part.window = some w → p = { s.part with handed := rest } →
    (w.job = .catchUp t → w.phase ≠ .closing → w.claims = [] → claimHoldsNone s.part →
      (∀ pd p1,
        ((h.origin = .copy .targetWrite ∨ h.origin = .copy .sourceRead ∧ w.cancelled = true) ∧
            (∃ d, h.result = .ok d) ∧ pd = p ∨
          ∃ why, h.origin = .copy .sourceRead ∧ w.cancelled = true ∧
            (h.result = .error ∧ why = .media ∨ h.result = .failed why) ∧ reportWaits s.part w.region q ∧
            pd = reportTaken w.region q why (some w.addr) p) →
        (w.lineNo = 1023 ∧ p1 = { removeExtent t w.region w.extent pd with lineClaim := none } ∨
          w.lineNo < 1023 ∧ (s.part.region w.region).state = .retiring ∧ p1 = { pd with lineClaim := none }) →
        (∀ x src, selectRun p1 t = some x → balance p1 (usableSources p1 t x.region) = some src →
          leavesPart (.copyOutcome q) s
            (drainChecked w.region { p1 with window := some (lineWindow p1 t src x.region x.first 0 0) })) ∧
        (selectRun p1 t = none → copyInFlight p = 0 → s.part.jobs = [{ kind := .catchUp t, started := true }] →
          leavesPart (.copyOutcome q) s
            (drainChecked w.region { post { kind := .copyDone, port := some t } (takeCompletion t p1) with
              jobs := [], window := none }) ∧
          ∀ r q', mstate (takeCompletion t p1) r q' =
            if q' = t ∧ mstate p1 r t = some .rejoining
            then (if hasRunOf p1 t r = true then some .detached else some .inService) else mstate p1 r q')) ∧
      (∀ why p1, h.origin = .copy .sourceRead → (h.result = .error ∧ why = .media ∨ h.result = .failed why) →
        reportWaits s.part w.region q →
        p1 = reportTaken w.region q why (some w.addr) p →
        (∀ src, w.cancelled = true → w.lineNo + 1 < 1024 → (s.part.region w.region).state = .live →
          balance p1 (usableSources p1 t w.region) = some src →
          leavesPart (.copyOutcome q) s
            { p1 with lineClaim := none,
                      window := some (lineWindow p1 t src w.region w.extent (w.lineNo + 1) 0) }) ∧
        (∀ src, w.cancelled = false → mstate p1 w.region q ≠ some .inService →
          w.addr = lineAddr (s.part.region w.region) w.extent w.lineNo →
          balance p1 (usableSources p1 t w.region) = some src →
          leavesPart (.copyOutcome q) s
            { p1 with window := some (lineWindow p1 t src w.region w.extent w.lineNo w.overtake) }) ∧
        (w.cancelled = false →
          mstate p1 w.region q = some .inService ∨ balance p1 (usableSources p1 t w.region) = none →
          copyInFlight p = 0 → s.part.jobs = [{ kind := .catchUp t, started := true }] →
          leavesPart (.copyOutcome q) s
            (drainChecked w.region { post { kind := .copyAborted, port := some t, detail := 5 }
              (takeOutRejoining t .source p1) with jobs := [], window := none, lineClaim := none }) ∧
          ∀ r q', mstate (takeOutRejoining t .source p1) r q' =
            if q' = t ∧ mstate p1 r t = some .rejoining then some .faulted else mstate p1 r q')) ∧
      (∀ why, h.origin = .copy .targetWrite → q = t → (h.result = .error ∧ why = .media ∨ h.result = .failed why) →
        mstate s.part w.region t = some .rejoining → copyInFlight p = 0 →
        s.part.jobs = [{ kind := .catchUp t, started := true }] →
        leavesPart (.copyOutcome q) s
          (drainChecked w.region { post { kind := .copyAborted, port := some t, detail := 6 } (takeOutRejoining t why p) with
            jobs := [], window := none, lineClaim := none }))) ∧
    (w.phase = .closing →
      (∀ d, h.result = .ok d → copyInFlight p ≠ 0 → leavesPart (.copyOutcome q) s p) ∧
      (∀ why, (h.result = .error ∧ why = .media ∨ h.result = .failed why) →
        reportWaits s.part w.region q → copyInFlight p ≠ 0 →
        leavesPart (.copyOutcome q) s (reportTaken w.region q why (some w.addr) p)) ∧
      (∀ d, h.result = .ok d → copyInFlight p = 0 → s.part.jobs = [] →
        leavesPart (.copyOutcome q) s (drainChecked w.region { p with window := none }))) ∧
    (∀ (r : RegionIx) (e : Nat) (p0 : Part), listSound (p0.divList t) →
      ((∀ x ∈ p0.divList t, x.region = r → x.first ≠ e) → removeExtent t r e p0 = p0) ∧
      ∀ pre x post, p0.divList t = pre ++ x :: post → x.region = r → x.first = e →
        removeExtent t r e p0 = p0.setDivList t
          (pre ++ (if x.count ≤ 1 then [] else [{ x with first := e + 1, count := x.count - 1 }]) ++ post)) ∧
    ∀ p0 : Part,
      (selectRun p0 t = none ↔ ∀ x ∈ p0.divList t, (p0.region x.region).state = .live →
        mstate p0 x.region t ≠ some .rejoining) ∧
      ∀ x, selectRun p0 t = some x ↔ (p0.region x.region).state = .live ∧ mstate p0 x.region t = some .rejoining ∧
        ∃ pre post, p0.divList t = pre ++ x :: post ∧ ∀ y ∈ pre, (p0.region y.region).state = .live →
          mstate p0 y.region t ≠ some .rejoining

/-- Write notices and the line claim. A notice for another line, in another phase than READING, or of a cancelled line has
no effect. In READING a full-line notice cancels a catch-up line, at once where its data is held; a partial one, and any
notice of a compare line, forces a re-read and raises the overtake count, which stops at 8; the notice that brings it to 8
places the line claim. With the release at a line's end, at COPY_OUTCOME (log 8) of the oldest COPY outcome of the port
(log 27), the waiting entry of the line makes its choice in the same event, after the copy engine's own works (model's
choice, log 13). -/
def Obligations.LineClaimAndNotices : Prop :=
  (∀ (line : UpAddr) (full : Bool) (p : Part), p.window = none → taskNotice line full p = (p, [])) ∧
  (∀ (line : UpAddr) (full : Bool) (w : Window) (p raised : Part), p.window = some w →
    raised = { p with lineClaim := if w.overtake = 7 then some w.addr else p.lineClaim } →
    (w.addr ≠ line ∨ w.phase ≠ .reading ∨ w.job ≠ .compare ∧ w.cancelled = true → taskNotice line full p = (p, [])) ∧
    (w.addr = line → w.phase = .reading → w.job = .compare →
      taskNotice line full p =
        ({ raised with window := some { w with overtake := min (w.overtake + 1) 8, reread := true } }, [])) ∧
    ∀ t, w.addr = line → w.phase = .reading → w.job = .catchUp t → w.cancelled = false →
      (w.data = [] → full = true → taskNotice line full p = ({ p with window := some { w with cancelled := true } }, [])) ∧
      (w.data = [] → full = false →
        taskNotice line full p =
          ({ raised with window := some { w with overtake := min (w.overtake + 1) 8, reread := true } }, [])) ∧
      (w.data ≠ [] → full = true → ∃ p', taskNotice line full p = (p', [.lineDone t]) ∧ copyClaimAt p' t = none ∧
        (p'.port t).passOver = (if (copyClaimAt p t).isSome = true then 0 else (p.port t).passOver) ∧
        p'.window.map (·.data) = some [] ∧ p'.lineClaim = p.lineClaim) ∧
      (w.data ≠ [] → full = false → ∃ p', taskNotice line full p = (p', [.chooseSource t]) ∧ copyClaimAt p' t = none ∧
        (p'.port t).passOver = (if (copyClaimAt p t).isSome = true then 0 else (p.port t).passOver) ∧
        p'.window.map (fun x => (x.data, x.phase, x.overtake, x.lineNo)) =
          some ([], .claiming, min (w.overtake + 1) 8, w.lineNo) ∧
        p'.lineClaim = raised.lineClaim)) ∧
  ∀ (t src next : Port) (h : Handed) (rest : List Handed) (w : Window) (d : Option LineData) (e : Entry) (p' : Part)
    (s : State), s.part.porst = false →
    takeFirst (fun h => h.port == t && isCopy h.origin) s.part.handed = some (h, rest) →
    h.origin = .copy .targetWrite → h.result = .ok d → s.part.window = some w → w.job = .catchUp t →
    w.phase ≠ .closing → w.lineNo + 1 < 1024 → (s.part.region w.region).state = .live →
    balance s.part (usableSources s.part t w.region) = some src →
    s.part.lineClaim = some w.addr → s.part.table.find? (fun x => x.line == w.addr) = some e → e.state = .waitingLine →
    e.kind = .read → (s.part.region e.region).mode = .mirror → tagsDistinct s.part →
    chooseRead s.part e = some (next, p') → hasFreeSlot (s.part.port next) = true →
    leavesPart (.copyOutcome t) s
      { updateEntry e.tag (fun x => { x with state := .waitingSlot, target := onePort next,
                                             tried := addPort x.tried next }) p' with
        handed := rest, lineClaim := none,
        window := some (lineWindow s.part t src w.region w.extent (w.lineNo + 1) 0) }

/-- A compare read's data, taken at COPY_OUTCOME (log 8), the oldest COPY outcome of the port (log 27): kept while other
reads of the line are outstanding; with the last one, no re-read to make and two copies still IN_SERVICE, the line is
compared: COMPARE_MISMATCH with the ports that differ from the lowest-numbered copy, if any; the line claim is released;
and with a line of the extent left, and two copies to read, the counts go on and the next line starts. -/
def Obligations.CompareLineResult : Prop :=
  ∀ (q : Port) (h : Handed) (rest : List Handed) (w w' : Window) (d : LineData) (s : State), s.part.porst = false →
    takeFirst (fun h => h.port == q && isCopy h.origin) s.part.handed = some (h, rest) →
    h.origin = .copy .compareRead → h.result = .ok (some d) → s.part.window = some w → w.job = .compare →
    w.phase ≠ .closing → w' = { w with data := w.data ++ [(q, d)] } →
    (w.claims ≠ [] ∨ copyInFlight { s.part with handed := rest } ≠ 0 →
      leavesPart (.copyOutcome q) s { s.part with handed := rest, window := some w' }) ∧
    ∀ (c : CompareJob) (low : Port) (ports : List Port) (differing : PortSet),
      w.claims = [] → copyInFlight { s.part with handed := rest } = 0 → w.reread = false →
      runningCompare s.part = some c →
      (portsOf w.source).filter (fun x => mstate s.part w.region x == some .inService) = low :: ports → ports ≠ [] →
      (∀ x, hasPort differing x = true ↔ x ∈ ports ∧ dataOf w' x ≠ dataOf w' low) →
      ∃ t, exec (.copyOutcome q) s = .next t ∧
        postsFirst s.part.events t.part.events (if differing = 0#4 then [] else
          [{ kind := .compareMismatch, region := some c.region, detail := differing.toNat, addr := .line w.addr }]) ∧
        t.part.lineClaim = none ∧
        (c.nextLine + 1 < 1024 → c.nextExtent < c.first + c.count → 2 ≤ (readablePorts s.part c.region).length →
          claimHoldsNone s.part →
          runningCompare t.part = some { c with
            nextLine := c.nextLine + 1
            compared := min (c.compared + 1) 4294967295
            mismatches := if differing = 0#4 then c.mismatches else min (c.mismatches + 1) 65535 } ∧
          t.part.window.map (fun x => (x.phase, x.extent, x.lineNo, x.region)) =
            some (.claiming, c.nextExtent, c.nextLine + 1, c.region))

/-- The ends of compare lines, at COPY_OUTCOME (log 8) of the oldest COPY outcome of the port (log 27), at its last read. The
line compared, its counts held at their maxima: after line 1,023 the next extent's line 0 starts; at the end of the range the
job leaves with COMPARE_DONE after COMPARE_MISMATCH, its window absent. With the re-read flag, or fewer than two copies still
IN_SERVICE, the data is dropped and the line starts again with the copies that can now be read, overtake count, line claim
and counts kept; with fewer than two to read the job ends (log 17). A failed read is reported and forces a re-read, once no
other read is outstanding. -/
def Obligations.CompareLineEnds : Prop :=
  ∀ (q : Port) (h : Handed) (rest : List Handed) (w : Window) (c : CompareJob) (p : Part) (s : State),
    s.part.porst = false → takeFirst (fun h => h.port == q && isCopy h.origin) s.part.handed = some (h, rest) →
    h.origin = .copy .compareRead → s.part.window = some w → w.job = .compare → w.phase ≠ .closing →
    runningCompare s.part = some c → c.region = w.region → p = { s.part with handed := rest } →
    (∀ d w' low others differing c' mismatch, h.result = .ok (some d) → w.claims = [] → copyInFlight p = 0 →
      claimHoldsNone p → w.reread = false → w' = { w with data := w.data ++ [(q, d)] } →
      (portsOf w.source).filter (fun x => mstate p w.region x == some .inService) = low :: others → others ≠ [] →
      (∀ x, hasPort differing x = true ↔ x ∈ others ∧ dataOf w' x ≠ dataOf w' low) →
      c' = { c with compared := min (c.compared + 1) 4294967295,
                    mismatches := if differing = 0#4 then c.mismatches else min (c.mismatches + 1) 65535 } →
      mismatch = (if differing = 0#4 then [] else
        [({ kind := .compareMismatch, region := some c.region, detail := differing.toNat, addr := .line w.addr } : EventBody)]) →
      (∀ e k, (c.nextLine < 1023 ∧ e = c.nextExtent ∧ k = c.nextLine + 1 ∨
          1023 ≤ c.nextLine ∧ e = c.nextExtent + 1 ∧ k = 0) → e < c.first + c.count →
        2 ≤ (readablePorts p c.region).length → (e ≠ w.extent ∨ k ≠ w.lineNo) →
        leavesPart (.copyOutcome q) s
          { p with
            events := mismatch.foldl postTo p.events
            lineClaim := none
            jobs := { kind := .compare { c' with nextExtent := e, nextLine := k }, started := true } :: p.jobs.tail
            window := some (compareWindow p c.region e k 0) }) ∧
      (1023 ≤ c.nextLine → c.first + c.count ≤ c.nextExtent + 1 → ∀ ends,
        ends = mismatch ++ [({ kind := .compareDone, region := some c.region, detail := c'.mismatches,
                               second := c'.compared } : EventBody)] →
        (∃ p', leavesPart (.copyOutcome q) s p' ∧ postsFirst p.events p'.events ends ∧ p'.lineClaim = none ∧
          p'.jobs.length ≤ p.jobs.tail.length) ∧
        (p.jobs.tail = [] → (p.region w.region).state ≠ .retiring →
          leavesPart (.copyOutcome q) s
            { p with events := ends.foldl postTo p.events, lineClaim := none, jobs := [], window := none }))) ∧
    (∀ d, h.result = .ok (some d) → w.claims = [] → copyInFlight p = 0 →
      (w.reread = true ∨
        ((portsOf w.source).filter (fun x => mstate p w.region x == some .inService)).length < 2) →
      w.extent = c.nextExtent → w.lineNo = c.nextLine →
      (2 ≤ (readablePorts p c.region).length →
        leavesPart (.copyOutcome q) s
          { p with window := some (compareWindow p c.region c.nextExtent c.nextLine w.overtake) }) ∧
      ((readablePorts p c.region).length < 2 → p.jobs.tail = [] → claimHoldsNone p →
        (p.region w.region).state ≠ .retiring →
        leavesPart (.copyOutcome q) s
          { post { kind := .compareDone, region := some c.region, detail := c.mismatches, second := c.compared } p with
            lineClaim := none, jobs := [], window := none })) ∧
    ∀ why p1, (h.result = .error ∧ why = .media ∨ h.result = .failed why) → reportWaits s.part w.region q →
      p1 = reportTaken w.region q why (some w.addr) { p with window := some { w with reread := true } } →
      (w.claims ≠ [] ∨ copyInFlight p ≠ 0 → leavesPart (.copyOutcome q) s p1) ∧
      (w.claims = [] → copyInFlight p = 0 → w.extent = c.nextExtent → w.lineNo = c.nextLine →
        2 ≤ (readablePorts p1 c.region).length →
        leavesPart (.copyOutcome q) s
          { p1 with window := some (compareWindow p1 c.region c.nextExtent c.nextLine w.overtake) })

/-- A slot claim of the copy engine that waits at a port whose link is lost ends at that event as a failure for LINK,
where no request waits there, after the port's own part and events (log 5); a copy-write claim made at a port that is
FAILED or OFF is answered at once in the same way, at COPY_OUTCOME (log 8) of the port's oldest COPY outcome (log 27). A
source read: reported, and another source chosen, or the job abandoned for SOURCE. A copy write: the target leaves the
rebuild, and the job is abandoned for TARGET. A compare read: reported, with a re-read once no
other read is outstanding. -/
def Obligations.EngineClaimEnds : Prop :=
  (∀ (q : Port) (dest : Link) (why : Reason) (events : List EventBody) (c : Claim) (w : Window) (p p0 : Part),
    linkDown dest = true → p.window = some w → w.phase ≠ .closing → copyClaimAt p q = some c → claimHoldsNone p →
    (∀ e ∈ p.table, e.state = .waitingSlot → ∀ q', hasPort e.target q' = true → q' ≠ q ∧ portDown p q' = false) →
    p0 = { postAll events (dropLink q dest why p) with
      window := some { w with claims := w.claims.filter (fun x => x.port != q) } } →
    (∀ t p1, w.job = .catchUp t → w.claims = [c] → c.part = .sourceRead → w.cancelled = false →
      reportWaits p w.region q → p1 = reportTaken w.region q .link (some w.addr) p0 →
      (∀ src, mstate p1 w.region q ≠ some .inService → w.addr = lineAddr (p.region w.region) w.extent w.lineNo →
        balance p1 (usableSources p1 t w.region) = some src →
        loseLink q dest why events p =
          { p1 with window := some (lineWindow p1 t src w.region w.extent w.lineNo w.overtake) }) ∧
      (mstate p1 w.region q = some .inService ∨ balance p1 (usableSources p1 t w.region) = none →
        copyInFlight p = 0 → p.jobs = [{ kind := .catchUp t, started := true }] → (p.region w.region).state = .live →
        loseLink q dest why events p =
          { post { kind := .copyAborted, port := some t, detail := 5 } (takeOutRejoining t .source p1) with
            jobs := [], window := none, lineClaim := none })) ∧
    (w.job = .catchUp q → w.claims = [c] → c.part = .targetWrite → mstate p w.region q = some .rejoining →
      copyInFlight p = 0 → p.jobs = [{ kind := .catchUp q, started := true }] → (p.region w.region).state = .live →
      loseLink q dest why events p =
        { post { kind := .copyAborted, port := some q, detail := 6 } (takeOutRejoining q .link p0) with
          jobs := [], window := none, lineClaim := none }) ∧
    ∀ p1 claims, w.job = .compare → c.part = .compareRead → reportWaits p w.region q →
      claims = w.claims.filter (fun x => x.port != q) →
      p1 = reportTaken w.region q .link (some w.addr)
        { p0 with window := some { w with claims := claims, reread := true } } →
      (claims ≠ [] ∨ copyInFlight p ≠ 0 → loseLink q dest why events p = p1) ∧
      ∀ x, claims = [] → copyInFlight p = 0 → runningCompare p = some x → x.region = w.region → x.nextExtent = w.extent →
        x.nextLine = w.lineNo → 2 ≤ (readablePorts p1 w.region).length →
        loseLink q dest why events p =
          { p1 with window := some (compareWindow p1 w.region w.extent w.lineNo w.overtake) }) ∧
  ∀ (q t : Port) (h : Handed) (rest : List Handed) (d : LineData) (w : Window) (p : Part) (s : State),
    s.part.porst = false → takeFirst (fun h => h.port == q && isCopy h.origin) s.part.handed = some (h, rest) →
    h.origin = .copy .sourceRead → h.result = .ok (some d) → s.part.window = some w → w.job = .catchUp t →
    w.phase ≠ .closing → w.claims = [] → w.cancelled = false → w.reread = false →
    mstate s.part w.region q = some .inService → portDown s.part t = true → mstate s.part w.region t = some .rejoining →
    p = { s.part with handed := rest } → copyInFlight p = 0 → claimHoldsNone p →
    p.jobs = [{ kind := .catchUp t, started := true }] → (p.region w.region).state = .live →
    leavesPart (.copyOutcome q) s
      { post { kind := .copyAborted, port := some t, detail := 6 } (takeOutRejoining t .link p) with
        jobs := [], window := none, lineClaim := none }

/-- The read policies. The BALANCE rule picks the candidate that comes before every other by three keys in turn: link tier
(ACTIVE, then DROWSY or WAKING, then TRAINING), occupancy, port number. PREFERRED takes the preferred port if eligible, and
BALANCE otherwise. ALTERNATE takes the first eligible port after the pointer, wrapping from 3 to 0, the pointer last; from
port 0 on without a pointer. -/
def Obligations.PoliciesPick : Prop :=
  (∀ (p : Part) (candidates : List Port),
    (∀ q, balance p candidates = some q → q ∈ candidates ∧ ∀ x ∈ candidates, x ≠ q →
      linkTier (p.port q).link < linkTier (p.port x).link ∨
      (linkTier (p.port q).link = linkTier (p.port x).link ∧
        (occupancy (p.port q) < occupancy (p.port x) ∨
          (occupancy (p.port q) = occupancy (p.port x) ∧ q < x)))) ∧
    (balance p candidates = none ↔ candidates = [])) ∧
  linkTier .active < linkTier .drowsy ∧ linkTier .drowsy = linkTier .waking ∧ linkTier .waking < linkTier .training ∧
  ∀ (p : Part) (r : Region) (eligible : List Port),
    (r.policy = .balance → policyChoice p r eligible = balance p eligible) ∧
    (r.policy = .preferred → ∀ q, r.preferred = some q →
      policyChoice p r eligible = if q ∈ eligible then some q else balance p eligible) ∧
    (r.policy = .alternate → ∀ q, policyChoice p r eligible = some q ↔
      q ∈ eligible ∧ ∀ x ∈ eligible, x ≠ q →
        match r.alternate with
        | some a => (q.val + 3 - a.val) % 4 < (x.val + 3 - a.val) % 4
        | none => q < x)

/-- An insertion changes no other list. A range that one run covers changes nothing. With a run that overlaps or touches
it, or room in the list, exactly the range becomes covered, without an event. At a full list, for a range that stands
apart, the pair first by gap, then region, then first extent is joined: DIVERGENCE_COALESCED gives port, region, gap and
the gap's first extent, and exactly the gap and the range become covered. The list keeps its shape. -/
def Obligations.InsertionAndCoalescing : Prop :=
  ∀ (q : Port) (x : Run) (p p' : Part) (l : List Run), l = p.divList q → p' = insertRun q x p → listSound l →
    listSound (p'.divList q) ∧ p' = { p with lists := p.lists.set q (p'.divList q), events := p'.events } ∧
    ((∃ y ∈ l, y.region = x.region ∧ y.first ≤ x.first ∧ x.stop ≤ y.stop) → p' = p) ∧
    (l.length < 64 ∨ (∃ y ∈ l, y.region = x.region ∧ y.first ≤ x.stop ∧ x.first ≤ y.stop) →
      p'.events = p.events ∧
      ∀ r n, covered (p'.divList q) r n ↔ covered l r n ∨ x.region = r ∧ x.first ≤ n ∧ n < x.stop) ∧
    (64 ≤ l.length → (∀ y ∈ l, ¬ (y.region = x.region ∧ y.first ≤ x.stop ∧ x.first ≤ y.stop)) →
      ∃ a b, firstPair l a b ∧
        p'.events = postTo p.events { kind := .divergenceCoalesced, port := some q, region := some a.region,
                                      detail := b.first - a.stop, addr := .extent a.stop } ∧
        ∀ r n, covered (p'.divList q) r n ↔ covered l r n ∨ x.region = r ∧ x.first ≤ n ∧ n < x.stop ∨
          a.region = r ∧ a.stop ≤ n ∧ n < b.first) ∧
    p'.events = (coalescedRecord q x l).toList.foldl postTo p.events

/-! ## Management port -/

/-- The serial line: its two rates by MBAUD, sampled while PORST_N is asserted; a character's levels, from a low start bit
through the data bits, least significant first, to a high stop bit, taken at the end of the stop bit, on an idle line that is
high; a low stop bit is a framing error, and so is each character time of a break; sending touches no receiving; MGMT_TX has
a reply's characters back to back and is high between replies (its time: log 23). The receiver, character by character and
state by state, with the framing error and the 206-byte limit. -/
def Obligations.ReceiverTable : Prop :=
  (lineRate false = 115200 ∧ lineRate true = 1000000 ∧
    ∀ (bootsz : BitVec 2) (mbaud : Bool) (s : State), s.part.porst = true →
      ∃ t, exec (.porstNDeassert bootsz mbaud) s = .next t ∧ t.part.mbaud = mbaud) ∧
  (∀ (b : Byte) (stop : Bool) (idle n : Nat) (p : Part),
    characterLevels b stop = false :: (List.range 8).map (fun i => b.getLsbD i) ++ [stop] ∧
    receiveLine (List.replicate idle true ++ characterLevels b stop) p = mgmtCharacter b stop p ∧
    (n < 10 → receiveLine (List.replicate idle true ++ (characterLevels b stop).take n) p = p) ∧
    lineCharacters (List.replicate (10 * n) false) = List.replicate n (0#8, false)) ∧
  (∀ (s : State), s.part.porst = false →
    (∃ t, exec .replySent s = .next t ∧ t.part.mgmt.rx = s.part.mgmt.rx ∧ t.part.mgmt.buffer = s.part.mgmt.buffer) ∧
    (s.part.mgmt.replies = [] → ∀ n, mgmtTx s.part n = true) ∧
    ∀ body rest n, s.part.mgmt.replies = body :: rest →
      mgmtTx s.part n = ((frameChars body).flatMap (fun b => characterLevels b true))[n]?.getD true) ∧
  ∀ (b : Byte) (s : State), s.part.porst = false →
    leavesPart (.mgmtCharacter b false) s (setRx .hunting [] s.part) ∧
    (s.part.mgmt.rx = .hunting → b = 0xF1#8 → leavesPart (.mgmtCharacter b true) s (setRx .inFrame [] s.part)) ∧
    (s.part.mgmt.rx = .hunting → b ≠ 0xF1#8 → exec (.mgmtCharacter b true) s = .next s) ∧
    (s.part.mgmt.rx ≠ .hunting → b = 0xF1#8 → leavesPart (.mgmtCharacter b true) s (setRx .inFrame [] s.part)) ∧
    (s.part.mgmt.rx = .inFrame → b = 0xF2#8 →
      leavesPart (.mgmtCharacter b true) s (takeFrame s.part.mgmt.buffer (setRx .hunting [] s.part))) ∧
    (s.part.mgmt.rx = .inFrame → b = 0xF3#8 →
      leavesPart (.mgmtCharacter b true) s (setRx .escaped s.part.mgmt.buffer s.part)) ∧
    (s.part.mgmt.rx = .inFrame → b ≠ 0xF1#8 → b ≠ 0xF2#8 → b ≠ 0xF3#8 →
      leavesPart (.mgmtCharacter b true) s
        (if s.part.mgmt.buffer.length < 206 then setRx .inFrame (s.part.mgmt.buffer ++ [b]) s.part
         else setRx .hunting [] s.part)) ∧
    (s.part.mgmt.rx = .escaped → b = 0xD1#8 ∨ b = 0xD2#8 ∨ b = 0xD3#8 →
      leavesPart (.mgmtCharacter b true) s
        (if s.part.mgmt.buffer.length < 206 then setRx .inFrame (s.part.mgmt.buffer ++ [b ^^^ 0x20#8]) s.part
         else setRx .hunting [] s.part)) ∧
    (s.part.mgmt.rx = .escaped → b ≠ 0xF1#8 → b ≠ 0xD1#8 → b ≠ 0xD2#8 → b ≠ 0xD3#8 →
      leavesPart (.mgmtCharacter b true) s (setRx .hunting [] s.part))

/-- The taking of a complete frame, at its end byte: dropped when too short, with a bad check, with a wrong key
(KEY_REFUSED) or at a full reply queue; the cached reply again when its sequence is the cached one; executed otherwise. -/
def Obligations.FrameTaking : Prop :=
  ∀ (body : List Byte) (s : State), s.part.porst = false → s.part.mgmt.rx = .inFrame → s.part.mgmt.buffer = body →
    (body.length < 6 → leavesPart (.mgmtCharacter 0xF2#8 true) s (setRx .hunting [] s.part)) ∧
    (6 ≤ body.length → checkPasses body = false →
      leavesPart (.mgmtCharacter 0xF2#8 true) s (setRx .hunting [] s.part)) ∧
    (6 ≤ body.length → checkPasses body = true →
      (byteAt body 0 ≠ s.part.mgmt.key →
        leavesPart (.mgmtCharacter 0xF2#8 true) s (post { kind := .keyRefused } (setRx .hunting [] s.part))) ∧
      (byteAt body 0 = s.part.mgmt.key →
        (2 ≤ s.part.mgmt.replies.length →
          leavesPart (.mgmtCharacter 0xF2#8 true) s (setRx .hunting [] s.part)) ∧
        (∀ reply, s.part.mgmt.replies.length < 2 → s.part.mgmt.cache = some (byteAt body 1, reply) →
          leavesPart (.mgmtCharacter 0xF2#8 true) s
            { s.part with mgmt := { s.part.mgmt with rx := .hunting, buffer := [],
                                                     replies := s.part.mgmt.replies ++ [reply] } }) ∧
        (∀ p' st payload, takesCommand s (byteAt body 1) →
          testedCommand (byteAt body 2) (byteAt body 3) (bodyPayload body) (setRx .hunting [] s.part) = (p', st, payload) →
          leavesPart (.mgmtCharacter 0xF2#8 true) s (p'.replied (byteAt body 1) (byteAt body 2) st payload))))

/-- What is coded on the line is read back: the levels of a frame with any body of up to 206 bytes, after any idle time,
received from any state of the receiver, end in the taking of exactly that body. A character's levels are a low start bit,
the eight data bits from the least significant on, and the stop bit; it is received as MGMT_CHARACTER with that byte and
stop bit; a line held low is a framing error at every character time. -/
def Obligations.FrameCodingRoundTrip : Prop :=
  (∀ (body : List Byte) (idle : Nat) (p : Part), body.length ≤ 206 →
    receiveLine (List.replicate idle true ++ lineLevels (frameChars body)) p = takeFrame body (setRx .hunting [] p)) ∧
  (∀ (b : Byte) (stop : Bool) (p : Part),
    characterLevels b stop = false :: (List.range 8).map (fun i => b.getLsbD i) ++ [stop] ∧
    receiveLine (characterLevels b stop) p = mgmtCharacter b stop p) ∧
  ∀ (n : Nat) (p : Part), receiveLine (List.replicate (10 * (n + 1)) false) p = setRx .hunting [] p

/-- Each management row is its frame: the taking of the frame that carries the command, its payload laid out byte by byte,
the current key and a good check, is the row's meaning (log 10), for each of the twenty commands and every payload. -/
def Obligations.CommandRowsAreFrames : Prop :=
  ∀ (c : Instr) (seq code : Byte) (d : List Byte) (s : State), commandFrame c = some (seq, code, d) →
    s.part.porst = false → leavesPart c s (takeFrame (frameBody s.part.mgmt.key seq code d) s.part)

/-- SET_KEY: any byte becomes the key, and the reply is OK. REPLY_SENT: the oldest reply leaves the queue as a start byte,
its coded body and an end byte, back to back on the line at 115,200 bit/s, or 1,000,000 with MBAUD high (recorded in the
trace, logs 11 and 23), as MGMT_TX had it bit time by bit time; nothing is sent from an empty queue (log 4), and MGMT_TX is
high then. -/
def Obligations.SetKeyAndReplySent : Prop :=
  (∀ (seq key : Byte) (s : State), takesCommand s seq →
    repliesWith (.setKey seq key) s seq 0x03#8 .ok [] { s.part with mgmt := { s.part.mgmt with key := key } }) ∧
  (∀ (body : List Byte) (rest : List (List Byte)) (s : State), s.part.porst = false →
    s.part.mgmt.replies = body :: rest →
    leavesPart .replySent s
      { s.part with
        mgmt := { s.part.mgmt with replies := rest }
        trace := s.part.trace ++ [.replyFrame (if s.part.mbaud = true then 1000000 else 115200)
          ((0xF1#8 :: (body.flatMap codeByte ++ [0xF2#8])).flatMap (fun b => characterLevels b true))] } ∧
    (List.range (lineLevels (frameChars body)).length).map (mgmtTx s.part) = lineLevels (frameChars body)) ∧
  ∀ s : State, s.part.mgmt.replies = [] → exec .replySent s = .next s ∧ ∀ n, mgmtTx s.part n = true

/-- IDENT: vendor 3D52h, part 0440h, revision 01h, 4 ports, 16 regions, in every state. PORT_READ: nine bytes, as they
stand, changing nothing; PENDING, SENT and held slots add up to the occupancy. -/
def Obligations.IdentAndPortRead : Prop :=
  (∀ (seq : Byte) (s : State), takesCommand s seq →
    repliesWith (.ident seq) s seq 0x01#8 .ok [0x3D#8, 0x52#8, 0x04#8, 0x40#8, 0x01#8, 0x04#8, 0x10#8] s.part) ∧
  ∀ (seq port : Byte) (s : State), takesCommand s seq →
    (portOf port = none → refusesWith (.portRead seq port) s seq 0x23#8 .badValue) ∧
    ∀ q, portOf port = some q →
      ∃ pending sent, pending = ((s.part.port q).queue.filter (fun x => x.sentAt.isNone)).length ∧
        sent = ((s.part.port q).queue.filter (fun x => x.sentAt.isSome)).length ∧
        pending + sent + (s.part.port q).held.length = occupancy (s.part.port q) ∧
        repliesWith (.portRead seq port) s seq 0x23#8 .ok
          [byte1 (linkCode (s.part.port q).link), byte1 (occupancy (s.part.port q)), byte1 pending, byte1 sent,
           byte1 (s.part.port q).held.length, byte1 (s.part.port q).timeoutIx, byte1 (s.part.port q).silence,
           byte1 (s.part.port q).weight, byte1 (s.part.port q).passOver] s.part

/-- The four commands that report and change nothing beside IDENT and PORT_READ. STATUS: 79 bytes with each value at its
offset. JOB_READ: 14 bytes for each job and 13 for the window, whose outstanding byte counts outcomes not yet taken
(log 8). REGION_READ: the 28-byte record of the entry. DIVERGENCE_READ: up to 16 runs of the list from the start index on,
after the run count and the number returned. -/
def Obligations.ReadCommands : Prop :=
  (∀ (seq : Byte) (s : State), takesCommand s seq →
    (∃ payload, repliesWith (.status seq) s seq 0x02#8 .ok payload s.part ∧ payload.length = 79 ∧
      (∀ q : Port, payload[q.val]? = some (byte1 (linkCode (s.part.port q).link))) ∧
      (∀ r : RegionIx, payload[4 + 4 * r.val]? = some (byte1 (regionStateCode (s.part.region r).state)) ∧
        payload[5 + 4 * r.val]? = some (statusSlot (s.part.region r) 0) ∧
        payload[6 + 4 * r.val]? = some (statusSlot (s.part.region r) 1) ∧
        payload[7 + 4 * r.val]? = some (statusSlot (s.part.region r) 2)) ∧
      (payload.drop 68).take 4 = headBytes s.part.jobs ++ [byte1 (phaseCode (s.part.window.map (·.phase)))] ∧
      (payload.drop 72).take 4 = be2 s.part.events.summary.toNat ++ be2 s.part.events.mask.toNat ∧
      payload.drop 76 = byte1 s.part.events.queue.length :: be2 s.part.events.next.toNat) ∧
    ∃ payload, repliesWith (.jobRead seq) s seq 0x41#8 .ok payload s.part ∧
      payload.length = 14 + 14 * s.part.jobs.length ∧ payload.head? = some (byte1 s.part.jobs.length) ∧
      payload.tail = s.part.jobs.flatMap jobBytes ++ windowBytes s.part) ∧
  ∀ (seq a b : Byte) (s : State), takesCommand s seq →
    (b ≠ 0#8 ∨ regionOf a = none → refusesWith (.regionRead seq a b) s seq 0x13#8 .badValue) ∧
    (∀ r, b = 0#8 → regionOf a = some r →
      repliesWith (.regionRead seq a b) s seq 0x13#8 .ok (regionRecord r (s.part.region r)) s.part ∧
      (regionRecord r (s.part.region r)).length = 28) ∧
    (portOf a = none → refusesWith (.divergenceRead seq a b) s seq 0x38#8 .badValue) ∧
    ∀ q, portOf a = some q →
      ∃ runs, runs = ((s.part.divList q).drop b.toNat).take 16 ∧
        repliesWith (.divergenceRead seq a b) s seq 0x38#8 .ok
          ([byte1 (s.part.divList q).length, byte1 runs.length] ++
            runs.flatMap (fun x => byte1 x.region.val :: (be3 x.first ++ be3 x.count))) s.part

/-! ## Region commands -/

/-- REGION_STAGE: BAD_VALUE for a bad index or a nonzero reserved byte, then BAD_STATE for an entry in use, then BAD_VALUE
for a field out of range (size, mode, count, policy, a preferred port with PREFERRED, a member's port or base); otherwise
the entry holds the staged fields and is STAGED. -/
def Obligations.RegionStageChecksAndEffect : Prop :=
  ∀ (seq : Byte) (x : StageRecord) (s : State), takesCommand s seq →
    (regionOf x.region = none ∨ stageReservedClear x = false → refusesWith (.regionStage seq x) s seq 0x10#8 .badValue) ∧
    (∀ r, regionOf x.region = some r → stageReservedClear x = true →
      (inUse (s.part.region r) = true → refusesWith (.regionStage seq x) s seq 0x10#8 .badState) ∧
      (inUse (s.part.region r) = false → ¬ stageFits x →
        refusesWith (.regionStage seq x) s seq 0x10#8 .badValue) ∧
      (inUse (s.part.region r) = false → stageFits x → ∃ y,
        repliesWith (.regionStage seq x) s seq 0x10#8 .ok [] (s.part.setRegion r y) ∧
        y.state = .staged ∧ y.base = x.base.toNat ∧ y.size = x.size.toNat ∧ 1 ≤ y.size ∧ y.size ≤ 16384 ∧
        byte1 (modeCode y.mode) = x.mode ∧ byte1 (policyCode y.policy) = x.policy ∧
        y.members.length = x.count.toNat ∧ 1 ≤ y.members.length ∧ y.members.length ≤ 3 ∧
        (∀ (i : Nat) (m : Member) (z : MemberSlot), y.members[i]? = some m → (stageSlots x)[i]? = some z →
          byte1 m.port.val = z.port ∧ m.base = z.base.toNat ∧ m.base < 16384 ∧ m.state = none) ∧
        y.preferred = (if x.policy = 1#8 then portOf x.preferred else none) ∧
        y.alternate = none ∧ y.inFlight = 0))

/-- REGION_COMMIT: its own parameters first, then the five checks in order: STAGED, or BAD_STATE; fields that agree, or
BAD_VALUE; no upstream and no downstream overlap with a region in use, or OVERLAP; with COPY a primary that is a member, or
BAD_VALUE. With TRUST every copy of a MIRROR region is
IN_SERVICE and no run is inserted; with COPY the primary is IN_SERVICE, the others REJOINING or FAULTED by their links,
each with a run over the whole region, then REGION_LIVE is posted (`p1`), and catch-up jobs are requested in ascending port
order: while a job runs or a window is present they wait behind, and at an idle engine they start in turn. -/
def Obligations.RegionCommitChecksAndEffect : Prop :=
  ∀ (seq region init primary reserved : Byte) (s : State), takesCommand s seq →
    (reserved ≠ 0#8 ∨ regionOf region = none ∨ 1 < init.toNat →
      refusesWith (.regionCommit seq region init primary reserved) s seq 0x11#8 .badValue) ∧
    (∀ r i, reserved = 0#8 → regionOf region = some r → initOf init = some i →
      (∀ st, ((s.part.region r).state ≠ .staged ∧ st = .badState) ∨
          ((s.part.region r).state = .staged ∧ ¬ commitFieldsFit (s.part.region r) ∧ st = .badValue) ∨
          ((s.part.region r).state = .staged ∧ commitFieldsFit (s.part.region r) ∧
            ¬ (upstreamClear s.part (s.part.region r) ∧ downstreamClear s.part (s.part.region r)) ∧ st = .overlap) ∨
          ((s.part.region r).state = .staged ∧ commitFieldsFit (s.part.region r) ∧
            upstreamClear s.part (s.part.region r) ∧ downstreamClear s.part (s.part.region r) ∧
            ¬ primaryFits (s.part.region r) i primary ∧ st = .badValue) →
        refusesWith (.regionCommit seq region init primary reserved) s seq 0x11#8 st) ∧
      (commitPasses s.part (s.part.region r) i primary → i = .trust →
        repliesWith (.regionCommit seq region init primary reserved) s seq 0x11#8 .ok []
          (post { kind := .regionLive, region := some r }
            (s.part.setRegion r { s.part.region r with
              state := .live, alternate := none, inFlight := 0,
              members := (s.part.region r).members.map (fun m =>
                { m with state := if (s.part.region r).mode = .mirror then some .inService else none }) }))) ∧
      (commitPasses s.part (s.part.region r) i primary → i = .copy →
        ∃ p' p0 p1, repliesWith (.regionCommit seq region init primary reserved) s seq 0x11#8 .ok [] p' ∧
          sameOutside s.part p' ∧ p1 = post { kind := .regionLive, region := some r } p0 ∧
          ((∀ q, (s.part.divList q).length < 64) → p0.events = s.part.events) ∧
          p0.region r = committed s.part (s.part.region r) .copy primary ∧
          (∀ r', r' ≠ r → p0.region r' = s.part.region r') ∧
          (∀ q, mstate p0 r q =
            if ((s.part.region r).mode = .mirror ∧ (memberAt (s.part.region r) q).isSome = true)
            then some (if q.val = primary.toNat then .inService else copyState (s.part.port q).link) else none) ∧
          (∀ q, isStale (mstate p0 r q) → ∃ y ∈ p0.divList q,
            y.region = r ∧ y.first = 0 ∧ (s.part.region r).size * 256 ≤ y.stop) ∧
          (∀ q, ¬ isStale (mstate p0 r q) → p0.divList q = s.part.divList q) ∧
          p0.table = s.part.table ∧ p0.ports = s.part.ports ∧ p0.window = s.part.window ∧ p0.jobs = s.part.jobs ∧
          p0.handed = s.part.handed ∧
          (headHeld s.part → p' = { p1 with
            jobs := s.part.jobs ++ (allPorts.filter (fun q =>
              mstate p0 r q == some .rejoining && !s.part.jobs.any (isCatchUp q))).map
                (fun q => { kind := .catchUp q, started := false }) }) ∧
          (engineIdle s.part →
            p' = catchUpsStarted (allPorts.filter (fun q => mstate p0 r q == some .rejoining)) p1)))

/-- REGION_RETIRE: the refusals; a LIVE entry becomes RETIRING or, when drained by the command, FREE, and the reply says
which. Every compare job on the region ends, COMPARE_DONE with its counts first of all, in queue order. Requests in flight
or the window on it keep it RETIRING (reply 03h); without them it becomes FREE at once with its runs purged,
REGION_RETIRED after COMPARE_DONE (log 16; reply 00h). With the running compare on it, the line claim is released and the
window becomes CLOSING while reads are outstanding, absent otherwise. -/
def Obligations.RegionRetireChecksAndEffect : Prop :=
  ∀ (seq region reserved : Byte) (s : State), takesCommand s seq →
    (reserved ≠ 0#8 ∨ regionOf region = none →
      refusesWith (.regionRetire seq region reserved) s seq 0x12#8 .badValue) ∧
    ∀ r, reserved = 0#8 → regionOf region = some r →
      ((s.part.region r).state ≠ .live → refusesWith (.regionRetire seq region reserved) s seq 0x12#8 .badState) ∧
      ((s.part.region r).state = .live →
        ∃ p', repliesWith (.regionRetire seq region reserved) s seq 0x12#8 .ok
            [byte1 (regionStateCode (p'.region r).state)] p' ∧
          ((p'.region r).state = .retiring ∨ (p'.region r).state = .free) ∧ sameOutside s.part p' ∧
          postsFirst s.part.events p'.events (compareEnds r s.part.jobs) ∧ compareEnds r p'.jobs = []) ∧
      ∀ p0, (s.part.region r).state = .live →
        p0 = { s.part.setRegion r { s.part.region r with state := .retiring } with
          jobs := jobsElsewhere r s.part.jobs
          events := (compareEnds r s.part.jobs).foldl postTo s.part.events } →
        ((∀ c, runningCompare s.part = some c → c.region ≠ r) → nothingStarts p0 →
          ((s.part.region r).inFlight ≠ 0 ∨ windowOn s.part r = true →
            repliesWith (.regionRetire seq region reserved) s seq 0x12#8 .ok [0x03#8] p0) ∧
          ((s.part.region r).inFlight = 0 → windowOn s.part r = false →
            repliesWith (.regionRetire seq region reserved) s seq 0x12#8 .ok [0x00#8] (p0.retired r))) ∧
        ∀ c w, runningCompare s.part = some c → c.region = r → s.part.window = some w → w.region = r →
          claimHoldsNone s.part →
          (copyInFlight s.part ≠ 0 →
            repliesWith (.regionRetire seq region reserved) s seq 0x12#8 .ok [0x03#8]
              { withdrawClaims p0 with
                lineClaim := none
                window := some { w with phase := .closing, data := [], claims := [] } }) ∧
          (copyInFlight s.part = 0 → p0.jobs = [] →
            ((s.part.region r).inFlight ≠ 0 →
              repliesWith (.regionRetire seq region reserved) s seq 0x12#8 .ok [0x03#8]
                { withdrawClaims p0 with lineClaim := none, window := none }) ∧
            ((s.part.region r).inFlight = 0 →
              repliesWith (.regionRetire seq region reserved) s seq 0x12#8 .ok [0x00#8]
                (({ withdrawClaims p0 with lineClaim := none, window := none } : Part).retired r)))

/-! ## Port commands -/

/-- PORT_ENABLE: from OFF or FAILED the link becomes TRAINING with the training timer started and bring-up begun; in the
other states BAD_STATE. -/
def Obligations.PortEnableChecksAndEffect : Prop :=
  ∀ (seq port reserved : Byte) (s : State), takesCommand s seq →
    (reserved ≠ 0#8 ∨ portOf port = none → refusesWith (.portEnable seq port reserved) s seq 0x20#8 .badValue) ∧
    ∀ q, reserved = 0#8 → portOf port = some q →
      (((s.part.port q).link = .off ∨ (s.part.port q).link = .failed) →
        repliesWith (.portEnable seq port reserved) s seq 0x20#8 .ok []
          { s.part.setPort q { s.part.port q with link := .training, trainingSince := some s.part.now } with
            trace := s.part.trace ++ [.bringUp q] }) ∧
      ((s.part.port q).link ≠ .off → (s.part.port q).link ≠ .failed →
        refusesWith (.portEnable seq port reserved) s seq 0x20#8 .badState)

/-- PORT_DISABLE: BAD_STATE while a DIRECT region in use has its member there, then LAST_REPLICA while the port holds a last
replica; on an OFF port OK and no change; otherwise the link becomes OFF with the effects of an entry into OFF. PORT_SETUP:
the three settings are replaced, in any link state; a changed silence setting restarts the silence timer or stops it; a value
out of range is refused and nothing changes. -/
def Obligations.PortDisableAndSetup : Prop :=
  (∀ (seq port reserved : Byte) (s : State), takesCommand s seq →
     (reserved ≠ 0#8 ∨ portOf port = none → refusesWith (.portDisable seq port reserved) s seq 0x21#8 .badValue) ∧
     ∀ q, reserved = 0#8 → portOf port = some q →
       (servesDirect s.part q = true → refusesWith (.portDisable seq port reserved) s seq 0x21#8 .badState) ∧
       (servesDirect s.part q = false → holdsLastReplica s.part q = true →
         refusesWith (.portDisable seq port reserved) s seq 0x21#8 .lastReplica) ∧
       (servesDirect s.part q = false → holdsLastReplica s.part q = false →
         ((s.part.port q).link = .off → repliesWith (.portDisable seq port reserved) s seq 0x21#8 .ok [] s.part) ∧
         ((s.part.port q).link ≠ .off →
           ∃ p', repliesWith (.portDisable seq port reserved) s seq 0x21#8 .ok [] p' ∧
             portLost s.part p' q .off .link ∧ p'.now = s.part.now ∧ p'.mgmt = s.part.mgmt))) ∧
  ∀ (seq port timeout silence weight : Byte) (s : State), takesCommand s seq →
    (portOf port = none ∨ 5 < timeout.toNat ∨ 4 < silence.toNat ∨ weight = 0#8 ∨ 15 < weight.toNat →
      refusesWith (.portSetup seq port timeout silence weight) s seq 0x22#8 .badValue) ∧
    ∀ q, portOf port = some q → timeout.toNat ≤ 5 → silence.toNat ≤ 4 → 1 ≤ weight.toNat → weight.toNat ≤ 15 →
      repliesWith (.portSetup seq port timeout silence weight) s seq 0x22#8 .ok []
        (s.part.setPort q { s.part.port q with
          timeoutIx := timeout.toNat, silence := silence.toNat, weight := weight.toNat,
          silenceSince :=
            if (s.part.port q).silence = silence.toNat then (s.part.port q).silenceSince
            else if (s.part.port q).link = .active ∧ silence ≠ 0#8 ∧ occupancy (s.part.port q) = 0
            then some s.part.now else none })

/-- DETACH and REJOIN: their checks in order. DETACH leaves no copy of the port IN_SERVICE or REJOINING; where the port
has no catch-up job, or one that waits behind a running job or a window, it makes exactly those copies DETACHED and
withdraws the job; a running one leaves without an event, its claims withdrawn and its line claim released, its window
CLOSING while transactions are outstanding; with nothing outstanding the window is absent, the region it was on is drained if
it is RETIRING and empty, and then (model's choice, log 28) the next catch-up jobs start. REJOIN makes exactly the port's FAULTED and DETACHED copies REJOINING and the
port a target of the waiting writes of those regions, an earlier failure there withdrawn (log 9; `p1`), and requests a
catch-up job unless there is one: while a job runs or a window is present it waits, and one give-back of the port (log 22)
is made where it has no free slot; at an idle engine it starts, after that give-back (model's choice, log 29). -/
def Obligations.DetachAndRejoin : Prop :=
  ∀ (seq port reserved : Byte) (s : State), takesCommand s seq →
    (reserved ≠ 0#8 ∨ portOf port = none →
      refusesWith (.detach seq port reserved) s seq 0x30#8 .badValue ∧
      refusesWith (.rejoin seq port reserved) s seq 0x31#8 .badValue) ∧
    ∀ q, reserved = 0#8 → portOf port = some q →
      ((∃ r, mstate s.part r q = some .inService ∧ ∀ x, x ≠ q → mstate s.part r x ≠ some .inService) →
        refusesWith (.detach seq port reserved) s seq 0x30#8 .lastReplica) ∧
      ((∀ r, mstate s.part r q = some .inService → ∃ x, x ≠ q ∧ mstate s.part r x = some .inService) →
        ∃ p', repliesWith (.detach seq port reserved) s seq 0x30#8 .ok [] p' ∧ sameOutside s.part p' ∧
          (∀ r, mstate p' r q ≠ some .inService ∧ mstate p' r q ≠ some .rejoining) ∧
          ((∀ j ∈ s.part.jobs, isCatchUp q j = true → j.started = false) →
            headHeld s.part ∨ s.part.jobs.any (isCatchUp q) = false →
            (∀ r x, mstate p' r x =
              if x = q ∧ (mstate s.part r q = some .inService ∨ mstate s.part r q = some .rejoining)
              then some .detached else mstate s.part r x) ∧
            p'.ports = s.part.ports ∧ p'.lists = s.part.lists ∧ p'.table = s.part.table ∧
            p'.jobs = s.part.jobs.filter (fun j => !isCatchUp q j) ∧
            p'.window = s.part.window ∧ p'.events = s.part.events) ∧
          (∀ j w, s.part.jobs.find? (isCatchUp q) = some j → j.started = true → s.part.window = some w →
            copyInFlight s.part ≠ 0 → claimHoldsNone s.part →
            (∀ r x, mstate p' r x =
              if x = q ∧ (mstate s.part r q = some .inService ∨ mstate s.part r q = some .rejoining)
              then some .detached else mstate s.part r x) ∧
            p' = { withdrawClaims s.part with
              regions := p'.regions
              jobs := s.part.jobs.filter (fun j => !isCatchUp q j)
              lineClaim := none
              window := some { w with phase := .closing, data := [], claims := [] } }) ∧
          ∀ j w (qs : List Port), s.part.jobs.find? (isCatchUp q) = some j → j.started = true → s.part.window = some w →
            copyInFlight s.part = 0 → claimHoldsNone s.part →
            s.part.jobs.filter (fun j => !isCatchUp q j) = qs.map (fun x => { kind := .catchUp x, started := false }) →
            ∃ p1 p2, (∀ r x, mstate p1 r x =
                if x = q ∧ (mstate s.part r q = some .inService ∨ mstate s.part r q = some .rejoining)
                then some .detached else mstate s.part r x) ∧
              p1 = { withdrawClaims s.part with
                regions := p1.regions
                jobs := qs.map (fun x => { kind := .catchUp x, started := false })
                lineClaim := none
                window := none } ∧
              p2 = drainChecked w.region p1 ∧
              p' = catchUpsStarted (p2.jobs.filterMap jobTarget) { p2 with jobs := [] }) ∧
      ((s.part.port q).link ≠ .active ∧ (s.part.port q).link ≠ .drowsy ∧ (s.part.port q).link ≠ .waking ∨
          (∀ r, mstate s.part r q ≠ some .faulted ∧ mstate s.part r q ≠ some .detached) →
        refusesWith (.rejoin seq port reserved) s seq 0x31#8 .badState) ∧
      (((s.part.port q).link = .active ∨ (s.part.port q).link = .drowsy ∨ (s.part.port q).link = .waking) →
        (∃ r, mstate s.part r q = some .faulted ∨ mstate s.part r q = some .detached) →
        ∃ p' p1, repliesWith (.rejoin seq port reserved) s seq 0x31#8 .ok [] p' ∧ sameOutside s.part p' ∧
          (∀ r x, mstate p1 r x =
            if x = q ∧ (mstate s.part r q = some .faulted ∨ mstate s.part r q = some .detached)
            then some .rejoining else mstate s.part r x) ∧
          p1.table = s.part.table.map (fun e =>
            if e.state = .waitingSlot ∧ e.kind = .write ∧ hasPort e.target q = false ∧
              (mstate s.part e.region q = some .faulted ∨ mstate s.part e.region q = some .detached)
            then { e with target := addPort e.target q, fail := dropPort e.fail q,
                          reasons := e.reasons.filter (fun x => x.1 != q) } else e) ∧
          p1.ports = s.part.ports ∧ p1.lists = s.part.lists ∧ p1.window = s.part.window ∧ p1.jobs = s.part.jobs ∧
          p1.events = s.part.events ∧ p1.handed = s.part.handed ∧ p1.trace = s.part.trace ∧
          (headHeld s.part → p' = (taskGiveBack q { p1 with
            jobs := if s.part.jobs.any (isCatchUp q) = true then s.part.jobs
                    else s.part.jobs ++ [{ kind := .catchUp q, started := false }] }).1) ∧
          (engineIdle s.part → p' = catchUpsStarted [q] (taskGiveBack q p1).1))

/-! ## Job commands -/

/-- COMPARE: its three checks in order; otherwise the job is appended with its next line at the first extent's line 0 and
both counts 0, and the reply is its position. While a job runs or a window is present the new job waits as it is; at an
idle engine it starts: a READ claimed at each copy of the first line that can be read, or, with fewer than two, the end of
the job at once with COMPARE_DONE and counts 0 (log 17). -/
def Obligations.CompareChecksAndEffect : Prop :=
  ∀ (seq region : Byte) (first count : BitVec 24) (s : State), takesCommand s seq →
    (regionOf region = none → refusesWith (.compare seq region first count) s seq 0x40#8 .badValue) ∧
    ∀ r, regionOf region = some r →
      ((s.part.region r).state ≠ .live ∨ (s.part.region r).mode ≠ .mirror ∨ count = 0#24 ∨
          (s.part.region r).size * 256 < first.toNat + count.toNat →
        refusesWith (.compare seq region first count) s seq 0x40#8 .badValue) ∧
      ((s.part.region r).state = .live → (s.part.region r).mode = .mirror → count ≠ 0#24 →
        first.toNat + count.toNat ≤ (s.part.region r).size * 256 →
        (4 ≤ s.part.jobs.countP isCompare →
          refusesWith (.compare seq region first count) s seq 0x40#8 .queueFull) ∧
        (s.part.jobs.countP isCompare < 4 →
          ∃ p', repliesWith (.compare seq region first count) s seq 0x40#8 .ok [byte1 s.part.jobs.length] p' ∧
            sameOutside s.part p' ∧
            (headHeld s.part → p' = { s.part with jobs := s.part.jobs ++
              [{ kind := .compare { region := r, first := first.toNat, count := count.toNat, nextExtent := first.toNat,
                                    nextLine := 0, compared := 0, mismatches := 0 }, started := false }] }) ∧
            (engineIdle s.part → ∀ ports a,
              ports = allPorts.filter (fun q => mstate s.part r q == some .inService && !portDown s.part q) →
              a = lineAddr (s.part.region r) first.toNat 0 →
              (2 ≤ ports.length → p' = { s.part with
                jobs := [{ kind := .compare { region := r, first := first.toNat, count := count.toNat,
                                              nextExtent := first.toNat, nextLine := 0, compared := 0, mismatches := 0 },
                           started := true }]
                window := some { job := .compare, region := r, extent := first.toNat, lineNo := 0, addr := a,
                                 source := portSetOf (fun q => ports.contains q), phase := .claiming, overtake := 0,
                                 cancelled := false, reread := false, data := [],
                                 claims := ports.map (fun q => { port := q, part := .compareRead, op := .read,
                                                                 addr := downAddr (s.part.region r) q a }) } }) ∧
              (ports.length < 2 →
                p' = post { kind := .compareDone, region := some r, detail := 0, second := 0 } s.part))))

/-- JOB_CANCEL: BAD_VALUE past the queue's end, BAD_STATE at a catch-up job, OK at a compare job; a queued one is taken out
with COMPARE_DONE while something runs; the running one ends first of all with COMPARE_DONE carrying its counts, leaves the
queue and releases the line claim; with reads outstanding (in port queues, or handed over and not yet taken, log 8) its
claims are withdrawn and its window is CLOSING. -/
def Obligations.JobCancelChecksAndEffect : Prop :=
  ∀ (seq position : Byte) (s : State), takesCommand s seq →
    (s.part.jobs.length ≤ position.toNat → refusesWith (.jobCancel seq position) s seq 0x42#8 .badValue) ∧
    ∀ j, s.part.jobs[position.toNat]? = some j →
      (∀ q, j.kind = .catchUp q → refusesWith (.jobCancel seq position) s seq 0x42#8 .badState) ∧
      ∀ c, j.kind = .compare c →
        ∃ p', repliesWith (.jobCancel seq position) s seq 0x42#8 .ok [] p' ∧ sameOutside s.part p' ∧
          (j.started = false → headHeld s.part →
            p' = { s.part with
              jobs := s.part.jobs.eraseIdx position.toNat
              events := postTo s.part.events { kind := .compareDone, region := some c.region, detail := c.mismatches,
                                               second := c.compared } }) ∧
          (j.started = true →
            postsFirst s.part.events p'.events
              [{ kind := .compareDone, region := some c.region, detail := c.mismatches, second := c.compared }] ∧
            p'.jobs.length < s.part.jobs.length ∧ p'.lineClaim = none) ∧
          (j.started = true → ∀ w, s.part.window = some w → copyInFlight s.part ≠ 0 → claimHoldsNone s.part →
            p' = { post { kind := .compareDone, region := some c.region, detail := c.mismatches, second := c.compared }
                    (withdrawClaims s.part) with
              jobs := s.part.jobs.eraseIdx position.toNat
              lineClaim := none
              window := some { w with phase := .closing, data := [], claims := [] } })

/-! ## Event unit -/

/-- A post: the record gets the counter's value, the counter advances round 65,536, the kind's flag is set (bits 0 to 3
PORT_FAIL of the port, 4 to 11 one kind each), and the record is appended, or dropped with EVENT_LOST (bit 12) when 32 are
held; posts of one event take consecutive numbers. A record's twelve bytes by its address form. EVENT_FETCH: above 8
BAD_VALUE; otherwise the n oldest records, or all there are, leave the queue and are returned oldest first, after their
number, the number left and the next sequence; nothing else changes. -/
def Obligations.EventPostAndFetch : Prop :=
  (∀ (b : EventBody) (u : EventUnit),
    (u.queue.length < 32 → (postTo u b).queue = u.queue ++ [{ seq := u.next, body := b }] ∧
      (postTo u b).summary = u.summary ||| flagBit b) ∧
    (32 ≤ u.queue.length → (postTo u b).queue = u.queue ∧
      (postTo u b).summary = u.summary ||| flagBit b ||| 0x1000#13) ∧
    (postTo u b).next.toNat = (u.next.toNat + 1) % 65536 ∧ (postTo u b).mask = u.mask ∧
    ∀ i : Nat, (flagBit b).getLsbD i = true ↔
      (b.kind = .portLinkFailed ∨ b.kind = .wakeFailed) ∧ b.port.map (·.val) = some i ∨
      b.kind = .memberEjected ∧ i = 4 ∨ b.kind = .lastReplicaError ∧ i = 5 ∨ b.kind = .copyAborted ∧ i = 6 ∨
      b.kind = .compareMismatch ∧ i = 7 ∨ b.kind = .unmappedAccess ∧ i = 8 ∨ b.kind = .tagCollision ∧ i = 9 ∨
      b.kind = .hostReset ∧ i = 10 ∨ b.kind = .keyRefused ∧ i = 11) ∧
  (∀ (bs : List EventBody) (u : EventUnit), u.queue.length + bs.length ≤ 32 →
    (bs.foldl postTo u).queue = u.queue ++ bs.mapIdx (fun i b => { seq := u.next + BitVec.ofNat 16 i, body := b })) ∧
  (∀ (x : EventRec) (rest : List Byte),
    (∀ a, x.body.addr = .line a → rest = [0x01#8, byte1 x.body.detail] ++ be5 a.toNat) →
    (∀ n, x.body.addr = .extent n → rest = [0x02#8] ++ be3 x.body.detail ++ be3 n) →
    (x.body.addr = .absent → rest = [0x00#8] ++ be2 x.body.detail ++ be4 x.body.second) →
    eventBytes x = be2 x.seq.toNat ++ [byte1 (eventCode x.body.kind), portByte x.body.port, regionByte x.body.region] ++ rest ∧
    (eventBytes x).length = 12) ∧
  ∀ (seq n : Byte) (s : State), takesCommand s seq →
    (8 < n.toNat → refusesWith (.eventFetch seq n) s seq 0x50#8 .badValue) ∧
    (n.toNat ≤ 8 →
      repliesWith (.eventFetch seq n) s seq 0x50#8 .ok
        ([byte1 (min n.toNat s.part.events.queue.length), byte1 (s.part.events.queue.length - n.toNat)] ++
          be2 s.part.events.next.toNat ++ (s.part.events.queue.take n.toNat).flatMap eventBytes)
        { s.part with events := { s.part.events with queue := s.part.events.queue.drop n.toNat } })

/-- FLT_N is asserted while a flag is both set and enabled (never under PORST_N). FAULT_CLEAR clears exactly the named flags
and FAULT_MASK replaces the mask, FLT_N following; a set with one of bits 13 to 15 is refused and nothing changes. -/
def Obligations.FaultClearAndMask : Prop :=
  (∀ p : Part, fltAsserted p = true ↔ p.porst = false ∧
    ∃ i, p.events.summary.getLsbD i = true ∧ p.events.mask.getLsbD i = true) ∧
  ∀ (seq : Byte) (flags : BitVec 16) (s : State), takesCommand s seq →
    (0x2000 ≤ flags.toNat → refusesWith (.faultClear seq flags) s seq 0x51#8 .badValue ∧
      refusesWith (.faultMask seq flags) s seq 0x52#8 .badValue) ∧
    (flags.toNat < 0x2000 →
      (∃ p', repliesWith (.faultClear seq flags) s seq 0x51#8 .ok [] p' ∧
        p' = { s.part with events := { s.part.events with summary := p'.events.summary } } ∧
        (∀ i, p'.events.summary.getLsbD i = (s.part.events.summary.getLsbD i && !flags.getLsbD i)) ∧
        (fltAsserted p' = true ↔
          ∃ i, p'.events.summary.getLsbD i = true ∧ s.part.events.mask.getLsbD i = true)) ∧
      ∃ p', repliesWith (.faultMask seq flags) s seq 0x52#8 .ok [] p' ∧
        p' = { s.part with events := { s.part.events with mask := p'.events.mask } } ∧
        (∀ i, p'.events.mask.getLsbD i = flags.getLsbD i) ∧
        (fltAsserted p' = true ↔ ∃ i, s.part.events.summary.getLsbD i = true ∧ flags.getLsbD i = true))

/-! ## What every step keeps -/

/-- Every invariant below holds right after reset. -/
def Obligations.InvariantsAtReset : Prop :=
  tableSound State.reset.part ∧ lineHeld State.reset.part ∧ allSlotsDistinct State.reset.part ∧
  heldTagsDistinct State.reset.part ∧
  allPortsSound State.reset.part ∧ lastReplicaKept State.reset.part ∧ allListsSound State.reset.part ∧
  runsAreStale State.reset.part ∧ jobsSound State.reset.part ∧ queuesBounded State.reset.part ∧
  regionsApart State.reset.part ∧ catchUpJobsExact State.reset.part

/-- Every step keeps the request table sound: one entry per tag, and each region's in-flight count the number of its
entries, 0 outside LIVE and RETIRING. -/
def Obligations.TableSoundKept : Prop := ∀ s t, tableSound s.part → step s = .next t → tableSound t.part

/-- Every step keeps the line hold: an entry beyond WAITING_LINE is the earliest live entry for its line. -/
def Obligations.LineHeldKept : Prop := ∀ s t, lineHeld s.part → step s = .next t → lineHeld t.part

/-- Every step keeps the slots of each port distinct, held or in the queue; every step keeps the tags of each port's held
slots distinct, one slot for an entry; and every step keeps each port sound: what its
link state says of its queue, its held slots, its timers and which entries are SENT, and the ranges of its settings and
its pass-over count. -/
def Obligations.PortsSoundKept : Prop :=
  (∀ s t, allSlotsDistinct s.part → step s = .next t → allSlotsDistinct t.part) ∧
  (∀ s t, heldTagsDistinct s.part → step s = .next t → heldTagsDistinct t.part) ∧
  ∀ s t, allPortsSound s.part → step s = .next t → allPortsSound t.part

/-- Every step keeps a trusted copy: a MIRROR region in use has an IN_SERVICE membership. -/
def Obligations.LastReplicaKept : Prop := ∀ s t, lastReplicaKept s.part → step s = .next t → lastReplicaKept t.part

/-- Every step keeps the shape of the divergence lists: at most 64 runs, in order, neither overlapping nor touching. -/
def Obligations.ListsSoundKept : Prop := ∀ s t, allListsSound s.part → step s = .next t → allListsSound t.part

/-- Every step keeps the lists to copies out of service: no list holds a run of a region in which its port's membership is
IN_SERVICE, or of a region that is not in use. -/
def Obligations.RunsAreStaleKept : Prop := ∀ s t, runsAreStale s.part → step s = .next t → runsAreStale t.part

/-- Every step keeps the queues within their bounds: one catch-up job per port, four compare jobs, 32 event records, two
replies. -/
def Obligations.QueuesKept : Prop :=
  ∀ s t, jobsSound s.part ∧ queuesBounded s.part → step s = .next t → jobsSound t.part ∧ queuesBounded t.part

/-- Every step keeps the regions in use apart: distinct member ports, no overlap upstream, and none downstream on a port. -/
def Obligations.RegionsApartKept : Prop := ∀ s t, regionsApart s.part → step s = .next t → regionsApart t.part

/-- Every step keeps the catch-up jobs to the ports with a REJOINING copy: a job for a port is in the queue exactly while the
port has one. -/
def Obligations.CatchUpJobsKept : Prop := ∀ s t, catchUpJobsExact s.part → step s = .next t → catchUpJobsExact t.part

/-- A fault flag is sticky: no command but FAULT_CLEAR, PORST_N and a frame's end (the end byte with a high stop bit, which
may carry a FAULT_CLEAR) clears one, and none but FAULT_MASK, PORST_N and a frame's end changes the mask. -/
def Obligations.FaultFlagsAreSticky : Prop :=
  ∀ (c : Instr) (s t : State), s.part.porst = false → exec c s = .next t → c ≠ .porstNAssert →
    c ≠ .mgmtCharacter 0xF2#8 true →
    ((∀ seq flags, c ≠ .faultClear seq flags) →
      s.part.events.summary &&& t.part.events.summary = s.part.events.summary) ∧
    ((∀ seq flags, c ≠ .faultMask seq flags) → t.part.events.mask = s.part.events.mask)
end

