-- ==== Sys2Proof/Laws/State.lean ====
section
/-! SUPPORT. One lemma for each field of the part and each named update of it, so that no proof unfolds a record
update. -/

namespace Sys2Proof.Machine

/-! ## setPort -/

@[simp] theorem porst_setPort (p : Part) (q : Port) (x : PortState) : (p.setPort q x).porst = p.porst := rfl
@[simp] theorem hrst_setPort (p : Part) (q : Port) (x : PortState) : (p.setPort q x).hrst = p.hrst := rfl
@[simp] theorem bootsz_setPort (p : Part) (q : Port) (x : PortState) : (p.setPort q x).bootsz = p.bootsz := rfl
@[simp] theorem mbaud_setPort (p : Part) (q : Port) (x : PortState) : (p.setPort q x).mbaud = p.mbaud := rfl
@[simp] theorem now_setPort (p : Part) (q : Port) (x : PortState) : (p.setPort q x).now = p.now := rfl
@[simp] theorem table_setPort (p : Part) (q : Port) (x : PortState) : (p.setPort q x).table = p.table := rfl
@[simp] theorem lineClaim_setPort (p : Part) (q : Port) (x : PortState) : (p.setPort q x).lineClaim = p.lineClaim := rfl
@[simp] theorem regions_setPort (p : Part) (q : Port) (x : PortState) : (p.setPort q x).regions = p.regions := rfl
@[simp] theorem lossClaims_setPort (p : Part) (q : Port) (x : PortState) : (p.setPort q x).lossClaims = p.lossClaims := rfl
@[simp] theorem handed_setPort (p : Part) (q : Port) (x : PortState) : (p.setPort q x).handed = p.handed := rfl
@[simp] theorem lists_setPort (p : Part) (q : Port) (x : PortState) : (p.setPort q x).lists = p.lists := rfl
@[simp] theorem jobs_setPort (p : Part) (q : Port) (x : PortState) : (p.setPort q x).jobs = p.jobs := rfl
@[simp] theorem window_setPort (p : Part) (q : Port) (x : PortState) : (p.setPort q x).window = p.window := rfl
@[simp] theorem mgmt_setPort (p : Part) (q : Port) (x : PortState) : (p.setPort q x).mgmt = p.mgmt := rfl
@[simp] theorem events_setPort (p : Part) (q : Port) (x : PortState) : (p.setPort q x).events = p.events := rfl
@[simp] theorem trace_setPort (p : Part) (q : Port) (x : PortState) : (p.setPort q x).trace = p.trace := rfl

/-! ## setRegion -/

@[simp] theorem porst_setRegion (p : Part) (r : RegionIx) (x : Region) : (p.setRegion r x).porst = p.porst := rfl
@[simp] theorem hrst_setRegion (p : Part) (r : RegionIx) (x : Region) : (p.setRegion r x).hrst = p.hrst := rfl
@[simp] theorem bootsz_setRegion (p : Part) (r : RegionIx) (x : Region) : (p.setRegion r x).bootsz = p.bootsz := rfl
@[simp] theorem mbaud_setRegion (p : Part) (r : RegionIx) (x : Region) : (p.setRegion r x).mbaud = p.mbaud := rfl
@[simp] theorem now_setRegion (p : Part) (r : RegionIx) (x : Region) : (p.setRegion r x).now = p.now := rfl
@[simp] theorem table_setRegion (p : Part) (r : RegionIx) (x : Region) : (p.setRegion r x).table = p.table := rfl
@[simp] theorem lineClaim_setRegion (p : Part) (r : RegionIx) (x : Region) : (p.setRegion r x).lineClaim = p.lineClaim := rfl
@[simp] theorem lossClaims_setRegion (p : Part) (r : RegionIx) (x : Region) : (p.setRegion r x).lossClaims = p.lossClaims := rfl
@[simp] theorem ports_setRegion (p : Part) (r : RegionIx) (x : Region) : (p.setRegion r x).ports = p.ports := rfl
@[simp] theorem handed_setRegion (p : Part) (r : RegionIx) (x : Region) : (p.setRegion r x).handed = p.handed := rfl
@[simp] theorem lists_setRegion (p : Part) (r : RegionIx) (x : Region) : (p.setRegion r x).lists = p.lists := rfl
@[simp] theorem jobs_setRegion (p : Part) (r : RegionIx) (x : Region) : (p.setRegion r x).jobs = p.jobs := rfl
@[simp] theorem window_setRegion (p : Part) (r : RegionIx) (x : Region) : (p.setRegion r x).window = p.window := rfl
@[simp] theorem mgmt_setRegion (p : Part) (r : RegionIx) (x : Region) : (p.setRegion r x).mgmt = p.mgmt := rfl
@[simp] theorem events_setRegion (p : Part) (r : RegionIx) (x : Region) : (p.setRegion r x).events = p.events := rfl
@[simp] theorem trace_setRegion (p : Part) (r : RegionIx) (x : Region) : (p.setRegion r x).trace = p.trace := rfl

/-! ## setDivList -/

@[simp] theorem porst_setDivList (p : Part) (q : Port) (l : List Run) : (p.setDivList q l).porst = p.porst := rfl
@[simp] theorem hrst_setDivList (p : Part) (q : Port) (l : List Run) : (p.setDivList q l).hrst = p.hrst := rfl
@[simp] theorem bootsz_setDivList (p : Part) (q : Port) (l : List Run) : (p.setDivList q l).bootsz = p.bootsz := rfl
@[simp] theorem mbaud_setDivList (p : Part) (q : Port) (l : List Run) : (p.setDivList q l).mbaud = p.mbaud := rfl
@[simp] theorem now_setDivList (p : Part) (q : Port) (l : List Run) : (p.setDivList q l).now = p.now := rfl
@[simp] theorem table_setDivList (p : Part) (q : Port) (l : List Run) : (p.setDivList q l).table = p.table := rfl
@[simp] theorem lineClaim_setDivList (p : Part) (q : Port) (l : List Run) : (p.setDivList q l).lineClaim = p.lineClaim := rfl
@[simp] theorem regions_setDivList (p : Part) (q : Port) (l : List Run) : (p.setDivList q l).regions = p.regions := rfl
@[simp] theorem lossClaims_setDivList (p : Part) (q : Port) (l : List Run) : (p.setDivList q l).lossClaims = p.lossClaims := rfl
@[simp] theorem ports_setDivList (p : Part) (q : Port) (l : List Run) : (p.setDivList q l).ports = p.ports := rfl
@[simp] theorem handed_setDivList (p : Part) (q : Port) (l : List Run) : (p.setDivList q l).handed = p.handed := rfl
@[simp] theorem jobs_setDivList (p : Part) (q : Port) (l : List Run) : (p.setDivList q l).jobs = p.jobs := rfl
@[simp] theorem window_setDivList (p : Part) (q : Port) (l : List Run) : (p.setDivList q l).window = p.window := rfl
@[simp] theorem mgmt_setDivList (p : Part) (q : Port) (l : List Run) : (p.setDivList q l).mgmt = p.mgmt := rfl
@[simp] theorem events_setDivList (p : Part) (q : Port) (l : List Run) : (p.setDivList q l).events = p.events := rfl
@[simp] theorem trace_setDivList (p : Part) (q : Port) (l : List Run) : (p.setDivList q l).trace = p.trace := rfl

/-! ## setTable -/

@[simp] theorem porst_setTable (p : Part) (t : List Entry) : (p.setTable t).porst = p.porst := rfl
@[simp] theorem hrst_setTable (p : Part) (t : List Entry) : (p.setTable t).hrst = p.hrst := rfl
@[simp] theorem bootsz_setTable (p : Part) (t : List Entry) : (p.setTable t).bootsz = p.bootsz := rfl
@[simp] theorem mbaud_setTable (p : Part) (t : List Entry) : (p.setTable t).mbaud = p.mbaud := rfl
@[simp] theorem now_setTable (p : Part) (t : List Entry) : (p.setTable t).now = p.now := rfl
@[simp] theorem lineClaim_setTable (p : Part) (t : List Entry) : (p.setTable t).lineClaim = p.lineClaim := rfl
@[simp] theorem regions_setTable (p : Part) (t : List Entry) : (p.setTable t).regions = p.regions := rfl
@[simp] theorem lossClaims_setTable (p : Part) (t : List Entry) : (p.setTable t).lossClaims = p.lossClaims := rfl
@[simp] theorem ports_setTable (p : Part) (t : List Entry) : (p.setTable t).ports = p.ports := rfl
@[simp] theorem handed_setTable (p : Part) (t : List Entry) : (p.setTable t).handed = p.handed := rfl
@[simp] theorem lists_setTable (p : Part) (t : List Entry) : (p.setTable t).lists = p.lists := rfl
@[simp] theorem jobs_setTable (p : Part) (t : List Entry) : (p.setTable t).jobs = p.jobs := rfl
@[simp] theorem window_setTable (p : Part) (t : List Entry) : (p.setTable t).window = p.window := rfl
@[simp] theorem mgmt_setTable (p : Part) (t : List Entry) : (p.setTable t).mgmt = p.mgmt := rfl
@[simp] theorem events_setTable (p : Part) (t : List Entry) : (p.setTable t).events = p.events := rfl
@[simp] theorem trace_setTable (p : Part) (t : List Entry) : (p.setTable t).trace = p.trace := rfl
@[simp] theorem table_setTable (p : Part) (t : List Entry) : (p.setTable t).table = t := rfl

/-! ## setWindow -/

@[simp] theorem porst_setWindow (p : Part) (w : Option Window) : (p.setWindow w).porst = p.porst := rfl
@[simp] theorem hrst_setWindow (p : Part) (w : Option Window) : (p.setWindow w).hrst = p.hrst := rfl
@[simp] theorem bootsz_setWindow (p : Part) (w : Option Window) : (p.setWindow w).bootsz = p.bootsz := rfl
@[simp] theorem mbaud_setWindow (p : Part) (w : Option Window) : (p.setWindow w).mbaud = p.mbaud := rfl
@[simp] theorem now_setWindow (p : Part) (w : Option Window) : (p.setWindow w).now = p.now := rfl
@[simp] theorem table_setWindow (p : Part) (w : Option Window) : (p.setWindow w).table = p.table := rfl
@[simp] theorem lineClaim_setWindow (p : Part) (w : Option Window) : (p.setWindow w).lineClaim = p.lineClaim := rfl
@[simp] theorem regions_setWindow (p : Part) (w : Option Window) : (p.setWindow w).regions = p.regions := rfl
@[simp] theorem lossClaims_setWindow (p : Part) (w : Option Window) : (p.setWindow w).lossClaims = p.lossClaims := rfl
@[simp] theorem ports_setWindow (p : Part) (w : Option Window) : (p.setWindow w).ports = p.ports := rfl
@[simp] theorem handed_setWindow (p : Part) (w : Option Window) : (p.setWindow w).handed = p.handed := rfl
@[simp] theorem lists_setWindow (p : Part) (w : Option Window) : (p.setWindow w).lists = p.lists := rfl
@[simp] theorem jobs_setWindow (p : Part) (w : Option Window) : (p.setWindow w).jobs = p.jobs := rfl
@[simp] theorem mgmt_setWindow (p : Part) (w : Option Window) : (p.setWindow w).mgmt = p.mgmt := rfl
@[simp] theorem events_setWindow (p : Part) (w : Option Window) : (p.setWindow w).events = p.events := rfl
@[simp] theorem trace_setWindow (p : Part) (w : Option Window) : (p.setWindow w).trace = p.trace := rfl
@[simp] theorem window_setWindow (p : Part) (w : Option Window) : (p.setWindow w).window = w := rfl

/-! ## out -/

@[simp] theorem porst_out (p : Part) (o : Output) : (p.out o).porst = p.porst := rfl
@[simp] theorem hrst_out (p : Part) (o : Output) : (p.out o).hrst = p.hrst := rfl
@[simp] theorem bootsz_out (p : Part) (o : Output) : (p.out o).bootsz = p.bootsz := rfl
@[simp] theorem mbaud_out (p : Part) (o : Output) : (p.out o).mbaud = p.mbaud := rfl
@[simp] theorem now_out (p : Part) (o : Output) : (p.out o).now = p.now := rfl
@[simp] theorem table_out (p : Part) (o : Output) : (p.out o).table = p.table := rfl
@[simp] theorem lineClaim_out (p : Part) (o : Output) : (p.out o).lineClaim = p.lineClaim := rfl
@[simp] theorem regions_out (p : Part) (o : Output) : (p.out o).regions = p.regions := rfl
@[simp] theorem lossClaims_out (p : Part) (o : Output) : (p.out o).lossClaims = p.lossClaims := rfl
@[simp] theorem ports_out (p : Part) (o : Output) : (p.out o).ports = p.ports := rfl
@[simp] theorem handed_out (p : Part) (o : Output) : (p.out o).handed = p.handed := rfl
@[simp] theorem lists_out (p : Part) (o : Output) : (p.out o).lists = p.lists := rfl
@[simp] theorem jobs_out (p : Part) (o : Output) : (p.out o).jobs = p.jobs := rfl
@[simp] theorem window_out (p : Part) (o : Output) : (p.out o).window = p.window := rfl
@[simp] theorem mgmt_out (p : Part) (o : Output) : (p.out o).mgmt = p.mgmt := rfl
@[simp] theorem events_out (p : Part) (o : Output) : (p.out o).events = p.events := rfl
@[simp] theorem trace_out (p : Part) (o : Output) : (p.out o).trace = p.trace ++ [o] := rfl

/-! ## Ports, regions and lists under the updates -/

@[simp] theorem port_setRegion (p : Part) (r : RegionIx) (x : Region) (q' : Port) : (p.setRegion r x).port q' = p.port q' := rfl
@[simp] theorem port_setDivList (p : Part) (q : Port) (l : List Run) (q' : Port) : (p.setDivList q l).port q' = p.port q' := rfl
@[simp] theorem port_setTable (p : Part) (t : List Entry) (q' : Port) : (p.setTable t).port q' = p.port q' := rfl
@[simp] theorem port_setWindow (p : Part) (w : Option Window) (q' : Port) : (p.setWindow w).port q' = p.port q' := rfl
@[simp] theorem port_out (p : Part) (o : Output) (q' : Port) : (p.out o).port q' = p.port q' := rfl
@[simp] theorem region_setPort (p : Part) (q : Port) (x : PortState) (r' : RegionIx) : (p.setPort q x).region r' = p.region r' := rfl
@[simp] theorem region_setDivList (p : Part) (q : Port) (l : List Run) (r' : RegionIx) : (p.setDivList q l).region r' = p.region r' := rfl
@[simp] theorem region_setTable (p : Part) (t : List Entry) (r' : RegionIx) : (p.setTable t).region r' = p.region r' := rfl
@[simp] theorem region_setWindow (p : Part) (w : Option Window) (r' : RegionIx) : (p.setWindow w).region r' = p.region r' := rfl
@[simp] theorem region_out (p : Part) (o : Output) (r' : RegionIx) : (p.out o).region r' = p.region r' := rfl
@[simp] theorem divList_setPort (p : Part) (q : Port) (x : PortState) (q' : Port) : (p.setPort q x).divList q' = p.divList q' := rfl
@[simp] theorem divList_setRegion (p : Part) (r : RegionIx) (x : Region) (q' : Port) : (p.setRegion r x).divList q' = p.divList q' := rfl
@[simp] theorem divList_setTable (p : Part) (t : List Entry) (q' : Port) : (p.setTable t).divList q' = p.divList q' := rfl
@[simp] theorem divList_setWindow (p : Part) (w : Option Window) (q' : Port) : (p.setWindow w).divList q' = p.divList q' := rfl
@[simp] theorem divList_out (p : Part) (o : Output) (q' : Port) : (p.out o).divList q' = p.divList q' := rfl

@[simp] theorem port_setPort_self (p : Part) (q : Port) (x : PortState) : (p.setPort q x).port q = x := by
  simp [Part.port, Part.setPort]

@[simp] theorem port_setPort_ne (p : Part) (q q' : Port) (x : PortState) (h : q' ≠ q) :
    (p.setPort q x).port q' = p.port q' := by
  have : q.val ≠ q'.val := fun e => h (Fin.ext e.symm)
  simp [Part.port, Part.setPort, this]

theorem port_setPort (p : Part) (q q' : Port) (x : PortState) :
    (p.setPort q x).port q' = if q' = q then x else p.port q' := by
  by_cases h : q' = q
  · subst h; simp
  · simp [h]

@[simp] theorem region_setRegion_self (p : Part) (r : RegionIx) (x : Region) : (p.setRegion r x).region r = x := by
  simp [Part.region, Part.setRegion]

@[simp] theorem region_setRegion_ne (p : Part) (r r' : RegionIx) (x : Region) (h : r' ≠ r) :
    (p.setRegion r x).region r' = p.region r' := by
  have : r.val ≠ r'.val := fun e => h (Fin.ext e.symm)
  simp [Part.region, Part.setRegion, this]

theorem region_setRegion (p : Part) (r r' : RegionIx) (x : Region) :
    (p.setRegion r x).region r' = if r' = r then x else p.region r' := by
  by_cases h : r' = r
  · subst h; simp
  · simp [h]

@[simp] theorem divList_setDivList_self (p : Part) (q : Port) (l : List Run) : (p.setDivList q l).divList q = l := by
  simp [Part.divList, Part.setDivList]

@[simp] theorem divList_setDivList_ne (p : Part) (q q' : Port) (l : List Run) (h : q' ≠ q) :
    (p.setDivList q l).divList q' = p.divList q' := by
  have : q.val ≠ q'.val := fun e => h (Fin.ext e.symm)
  simp [Part.divList, Part.setDivList, this]

theorem divList_setDivList (p : Part) (q q' : Port) (l : List Run) :
    (p.setDivList q l).divList q' = if q' = q then l else p.divList q' := by
  by_cases h : q' = q
  · subst h; simp
  · simp [h]

/-! ## Posting -/

@[simp] theorem porst_post (b : EventBody) (p : Part) : (post b p).porst = p.porst := rfl
@[simp] theorem hrst_post (b : EventBody) (p : Part) : (post b p).hrst = p.hrst := rfl
@[simp] theorem bootsz_post (b : EventBody) (p : Part) : (post b p).bootsz = p.bootsz := rfl
@[simp] theorem mbaud_post (b : EventBody) (p : Part) : (post b p).mbaud = p.mbaud := rfl
@[simp] theorem now_post (b : EventBody) (p : Part) : (post b p).now = p.now := rfl
@[simp] theorem table_post (b : EventBody) (p : Part) : (post b p).table = p.table := rfl
@[simp] theorem lineClaim_post (b : EventBody) (p : Part) : (post b p).lineClaim = p.lineClaim := rfl
@[simp] theorem regions_post (b : EventBody) (p : Part) : (post b p).regions = p.regions := rfl
@[simp] theorem lossClaims_post (b : EventBody) (p : Part) : (post b p).lossClaims = p.lossClaims := rfl
@[simp] theorem ports_post (b : EventBody) (p : Part) : (post b p).ports = p.ports := rfl
@[simp] theorem handed_post (b : EventBody) (p : Part) : (post b p).handed = p.handed := rfl
@[simp] theorem lists_post (b : EventBody) (p : Part) : (post b p).lists = p.lists := rfl
@[simp] theorem jobs_post (b : EventBody) (p : Part) : (post b p).jobs = p.jobs := rfl
@[simp] theorem window_post (b : EventBody) (p : Part) : (post b p).window = p.window := rfl
@[simp] theorem mgmt_post (b : EventBody) (p : Part) : (post b p).mgmt = p.mgmt := rfl
@[simp] theorem trace_post (b : EventBody) (p : Part) : (post b p).trace = p.trace := rfl
@[simp] theorem events_post (b : EventBody) (p : Part) : (post b p).events = postTo p.events b := rfl
@[simp] theorem port_post (b : EventBody) (p : Part) (q : Port) : (post b p).port q = p.port q := rfl
@[simp] theorem region_post (b : EventBody) (p : Part) (r : RegionIx) : (post b p).region r = p.region r := rfl
@[simp] theorem divList_post (b : EventBody) (p : Part) (q : Port) : (post b p).divList q = p.divList q := rfl

end Sys2Proof.Machine
end

