-- ==== Sys2Proof/Laws/Ops.lean ====
section
/-! SUPPORT. What each shared operation can do, said once: sets of ports, posting, the part under a command, the event's
works, frames, the request table, memberships. -/

namespace Sys2Proof.Machine

/-! ## Sets of ports -/

theorem mem_allPorts (q : Port) : q ∈ allPorts := by revert q; decide

theorem mem_allRegions (r : RegionIx) : r ∈ allRegions := by revert r; decide

theorem hasPort_onePort (q q' : Port) : hasPort (onePort q) q' = decide (q = q') := by revert q q'; decide

theorem hasPort_addPort (s : PortSet) (q q' : Port) : hasPort (addPort s q) q' = (hasPort s q' || decide (q = q')) := by
  revert s q q'; decide

theorem hasPort_dropPort (s : PortSet) (q q' : Port) :
    hasPort (dropPort s q) q' = (hasPort s q' && !decide (q = q')) := by
  revert s q q'; decide

theorem mem_portsOf (s : PortSet) (q : Port) : q ∈ portsOf s ↔ hasPort s q = true := by
  simp [portsOf, mem_allPorts]

theorem hasPort_portSetOf (f : Port → Bool) (q : Port) : hasPort (portSetOf f) q = f q := by
  have h : ∀ a b c d : Bool, ∀ q : Port,
      hasPort (portSetOf (fun x => [a, b, c, d].getD x.val false)) q = [a, b, c, d].getD q.val false := by decide
  have e : f = fun x : Port => [f 0, f 1, f 2, f 3].getD x.val false := by
    funext x; revert x; simp [Fin.forall_fin_succ]
  rw [e]; exact h _ _ _ _ q

/-! ## Commands and the part -/

theorem onPart_running (f : Part → Part) (s : State) (h : s.part.porst = false) :
    onPart f s = .next { s with part := f s.part } := by
  simp [onPart, h]

theorem onPart_held (f : Part → Part) (s : State) (h : s.part.porst = true) : onPart f s = .next s := by
  simp [onPart, h]

/-! ## Posting -/

theorem postTo_room (u : EventUnit) (b : EventBody) (h : u.queue.length < Config.eventCapacity) :
    postTo u b = { u with queue := u.queue ++ [{ seq := u.next, body := b }], next := u.next + 1#16,
                          summary := u.summary ||| flagBit b } := by
  simp [postTo, h]

theorem postTo_full (u : EventUnit) (b : EventBody) (h : Config.eventCapacity ≤ u.queue.length) :
    postTo u b = { u with next := u.next + 1#16, summary := u.summary ||| flagBit b ||| eventLostBit } := by
  simp [postTo, Nat.not_lt.mpr h]

/-- A post keeps the queue's bound, the records held, the mask and every flag already set. -/
theorem postTo_keeps (u : EventUnit) (b : EventBody) :
    ((postTo u b).queue.length ≤ Config.eventCapacity ↔ u.queue.length ≤ Config.eventCapacity) ∧
    (postTo u b).mask = u.mask ∧ u.summary &&& (postTo u b).summary = u.summary ∧ u.queue <+: (postTo u b).queue := by
  unfold postTo
  split
  · refine ⟨?_, rfl, ?_, List.prefix_append _ _⟩
    · simp only [List.length_append, List.length_cons, List.length_nil]; omega
    · ext i hi; simp; grind
  · refine ⟨Iff.rfl, rfl, ?_, List.prefix_refl _⟩
    ext i hi; simp; grind

/-! ## The works of an event -/

/-- What is taken next comes from the works at hand, and the others are what is left of them, in their order. -/
theorem nextWork_spec (p : Part) : ∀ (ts : List Task) (t : Task) (rest : List Task), nextWork p ts = some (t, rest) →
    ∃ pre post, ts = pre ++ t :: post ∧ rest = pre ++ post ∧ (∀ u ∈ pre, workRank p u ≠ 0 ∧ workRank p t < workRank p u) ∧
      ∀ u ∈ post, workRank p t = 0 ∨ workRank p t ≤ workRank p u
  | [], _, _, h => by simp [nextWork] at h
  | x :: xs, t, rest, h => by
    unfold nextWork at h
    by_cases h0 : workRank p x = 0
    · simp [h0] at h
      obtain ⟨rfl, rfl⟩ := h
      exact ⟨[], xs, rfl, rfl, by simp, fun u _ => .inl h0⟩
    · simp only [beq_iff_eq, h0, if_false] at h
      cases hn : nextWork p xs with
      | none =>
        have hx : xs = [] := by
          cases xs with
          | nil => rfl
          | cons y ys =>
            unfold nextWork at hn
            split at hn
            · simp at hn
            · cases hy : nextWork p ys with
              | none => simp [hy] at hn
              | some v => simp only [hy] at hn; split at hn <;> simp at hn
        simp only [hn, Option.some.injEq, Prod.mk.injEq] at h
        obtain ⟨rfl, rfl⟩ := h
        exact ⟨[], [], by simp [hx], rfl, by simp, by simp⟩
      | some v =>
        obtain ⟨u, us⟩ := v
        obtain ⟨pre, post, h1, h2, h3, h4⟩ := nextWork_spec p xs u us hn
        simp only [hn] at h
        split at h
        · rename_i hle
          simp only [Option.some.injEq, Prod.mk.injEq] at h
          obtain ⟨rfl, rfl⟩ := h
          refine ⟨[], xs, rfl, rfl, by simp, fun v hv => .inr ?_⟩
          rw [h1] at hv
          rcases List.mem_append.mp hv with hv | hv
          · exact Nat.le_trans hle (Nat.le_of_lt (h3 v hv).2)
          · rcases List.mem_cons.mp hv with rfl | hv
            · exact hle
            · rcases h4 v hv with h4 | h4 <;> omega
        · rename_i hle
          simp only [Option.some.injEq, Prod.mk.injEq] at h
          obtain ⟨rfl, rfl⟩ := h
          refine ⟨x :: pre, post, by simp [h1], by simp [h2], ?_, h4⟩
          intro v hv
          rcases List.mem_cons.mp hv with rfl | hv
          · exact ⟨h0, by omega⟩
          · exact h3 v hv

@[simp] theorem nextWork_nil (p : Part) : nextWork p [] = none := rfl

/-- A work that is no turn is taken before everything behind it. -/
theorem nextWork_atOnce {p : Part} {t : Task} {ts : List Task} (h : workRank p t = 0) :
    nextWork p (t :: ts) = some (t, ts) := by simp [nextWork, h]

/-- A single work is taken. -/
@[simp] theorem nextWork_one (p : Part) (t : Task) : nextWork p [t] = some (t, []) := by simp [nextWork]

theorem runAgenda_nil (n : Nat) (p : Part) : runAgenda n [] p = p := by cases n <;> rfl

theorem runAgenda_next {p : Part} {ts rest : List Task} {t : Task} (h : nextWork p ts = some (t, rest)) (n : Nat) :
    runAgenda (n + 1) ts p = runAgenda n ((runTask t p).2 ++ rest) (runTask t p).1 := by simp [runAgenda, h]

/-- What each work keeps, a whole event keeps. -/
theorem runAgenda_keeps {R : Part → Part → Prop} (hrefl : ∀ p, R p p) (htrans : ∀ a b c, R a b → R b c → R a c)
    (h : ∀ t p, R p (runTask t p).1) : ∀ n ts p, R p (runAgenda n ts p)
  | 0, _, p => hrefl p
  | n + 1, ts, p => by
    unfold runAgenda
    split
    · exact hrefl p
    · exact htrans _ _ _ (h _ p) (runAgenda_keeps hrefl htrans h n _ _)

theorem runAgenda_inv {I : Part → Prop} (h : ∀ t p, I p → I (runTask t p).1) :
    ∀ n ts p, I p → I (runAgenda n ts p)
  | 0, _, _, hp => hp
  | n + 1, ts, p, hp => by
    unfold runAgenda
    split
    · exact hp
    · exact runAgenda_inv h n _ _ (h _ p hp)

theorem settle_inv {I : Part → Prop} (h : ∀ t p, I p → I (runTask t p).1) (a : Act) (ha : I a.1) : I (settle a) :=
  runAgenda_inv h _ _ _ ha

/-- The works of an event come to an end in a number of works, at a part. -/
inductive Works : List Task → Part → Part → Nat → Prop where
  | nil (p : Part) : Works [] p p 0
  | next {t : Task} {ts rest : List Task} {p p' : Part} {n : Nat} (hn : nextWork p ts = some (t, rest))
      (h : Works ((runTask t p).2 ++ rest) (runTask t p).1 p' n) : Works ts p p' (n + 1)

/-- A work at the front that is no turn comes next. -/
theorem Works.cons {t : Task} {ts : List Task} {p p' : Part} {n : Nat} (h0 : workRank p t = 0)
    (h : Works ((runTask t p).2 ++ ts) (runTask t p).1 p' n) : Works (t :: ts) p p' (n + 1) :=
  .next (nextWork_atOnce h0) h

theorem runAgenda_of_works {ts : List Task} {p p' : Part} {n : Nat} (h : Works ts p p' n) :
    ∀ m, n ≤ m → runAgenda m ts p = p' := by
  induction h with
  | nil p => intro m _; exact runAgenda_nil m p
  | next hn _ ih =>
    intro m hm
    obtain ⟨k, rfl⟩ : ∃ k, m = k + 1 := ⟨m - 1, by omega⟩
    rw [runAgenda_next hn]
    exact ih k (by omega)

theorem agendaBound_large (ts : List Task) (p : Part) : 4096 ≤ agendaBound ts p := by unfold agendaBound; omega

theorem settle_of_works {a : Act} {p' : Part} {n : Nat} (h : Works a.2 a.1 p' n) (hn : n ≤ 4096) : settle a = p' :=
  runAgenda_of_works h _ (Nat.le_trans hn (agendaBound_large _ _))

@[simp] theorem settle_nil (p : Part) : settle (p, []) = p := runAgenda_nil _ _

theorem settle_one (t : Task) (p p' : Part) (h : runTask t p = (p', [])) : settle (p, [t]) = p' := by
  refine settle_of_works (n := 1) (.next (nextWork_one p t) ?_) (by omega)
  simp only [h, List.nil_append]; exact .nil _

/-! ## Frames -/

theorem takeCommand_full (seq code : Byte) (run : Command) (p : Part) (h : Config.replyCapacity ≤ p.mgmt.replies.length) :
    takeCommand seq code run p = p := by simp [takeCommand, repliesFull, h]

theorem cachedReply_none (p : Part) (seq : Byte) (h : p.mgmt.cache.map (·.1) ≠ some seq) : cachedReply p seq = none := by
  unfold cachedReply
  split
  · rename_i s body e
    have : s ≠ seq := fun e' => h (by simp [e, e'])
    simp [this]
  · rfl

/-- A frame that is neither dropped nor replayed is executed, and its reply is placed and cached. -/
theorem takeCommand_runs (seq code : Byte) (run : Command) (p : Part)
    (hr : p.mgmt.replies.length < Config.replyCapacity) (hc : p.mgmt.cache.map (·.1) ≠ some seq) :
    takeCommand seq code run p = (run p).1.replied seq code (run p).2.1 (run p).2.2 := by
  simp [takeCommand, repliesFull, Nat.not_le.mpr hr, cachedReply_none p seq hc, executeCommand, placeReply, Part.replied]

theorem onFrame_runs (seq code : Byte) (run : Command) (s : State) (h : takesCommand s seq) :
    onFrame seq code run s = .next { s with part := (run s.part).1.replied seq code (run s.part).2.1 (run s.part).2.2 } := by
  rw [onFrame, onPart_running _ _ h.1, takeCommand_runs _ _ _ _ h.2.1 h.2.2]

/-! ## The request table -/

@[simp] theorem table_updateEntry (tag : Tag) (f : Entry → Entry) (p : Part) :
    (updateEntry tag f p).table = p.table.map (fun e => if e.tag == tag then f e else e) := rfl

@[simp] theorem table_removeEntry (tag : Tag) (p : Part) :
    (removeEntry tag p).table = p.table.filter (fun e => e.tag != tag) := rfl

theorem findEntry_mem {p : Part} {tag : Tag} {e : Entry} (h : findEntry p tag = some e) : e ∈ p.table ∧ e.tag = tag := by
  refine ⟨List.mem_of_find?_eq_some h, ?_⟩
  have := List.find?_some h
  simpa using this

/-- With distinct tags the entry found for a tag is the entry that has it. -/
theorem findEntry_of_mem {p : Part} (hd : tagsDistinct p) {e : Entry} (he : e ∈ p.table) : findEntry p e.tag = some e := by
  unfold findEntry
  revert hd he
  unfold tagsDistinct
  generalize p.table = l
  intro hd he
  induction l with
  | nil => simp at he
  | cons x xs ih =>
    simp only [List.map_cons, List.nodup_cons] at hd
    rcases List.mem_cons.mp he with rfl | hx
    · simp
    · have : x.tag ≠ e.tag := fun h => hd.1 (h ▸ List.mem_map_of_mem hx)
      simp [this, ih hd.2 hx]

/-! ## Memberships -/

theorem memberAt_setMState (r : RegionIx) (q q' : Port) (st : MState) (p : Part) :
    memberAt ((setMState r q st p).region r) q' =
      if q' = q then (memberAt (p.region r) q).map (fun m => { m with state := some st })
      else memberAt (p.region r) q' := by
  have hf : ((fun m : Member => m.port == q') ∘ fun m => if m.port == q then { m with state := some st } else m) =
      fun m => m.port == q' := by
    funext m; simp only [Function.comp]; split <;> rfl
  simp only [setMState, region_setRegion_self, memberAt, List.find?_map, hf]
  by_cases hq : q' = q
  · subst hq
    cases hm : (p.region r).members.find? (fun m => m.port == q') with
    | none => simp
    | some m =>
      have := List.find?_some hm
      simp at this
      simp [this]
  · cases hm : (p.region r).members.find? (fun m => m.port == q') with
    | none => simp [hq]
    | some m =>
      have := List.find?_some hm
      simp at this
      simp [this, hq]

/-- A membership that has a state takes the one it is given, and no other membership changes. -/
theorem mstate_setMState (r r' : RegionIx) (q q' : Port) (st : MState) (p : Part) :
    mstate (setMState r q st p) r' q' =
      if r' = r ∧ q' = q then (if inUse (p.region r) then (memberAt (p.region r) q).map (fun _ => st) else none)
      else mstate p r' q' := by
  by_cases hr : r' = r
  · subst hr
    have hu : inUse ((setMState r' q st p).region r') = inUse (p.region r') := by simp [setMState, inUse]
    by_cases hq : q' = q
    · subst hq
      simp only [mstate, hu, memberAt_setMState]
      cases memberAt (p.region r') q' <;> simp
    · simp only [mstate, hu, memberAt_setMState, hq, if_false, and_false]
  · have : (setMState r q st p).region r' = p.region r' := by simp [setMState, hr]
    simp [mstate, this, hr]

/-! ## Outcomes handed over -/

/-- The first element that passes a test, and the others in their order. -/
theorem takeFirst_spec {α : Type} (f : α → Bool) : ∀ (l : List α) (x : α) (rest : List α),
    takeFirst f l = some (x, rest) →
    ∃ pre post, l = pre ++ x :: post ∧ rest = pre ++ post ∧ f x = true ∧ ∀ y ∈ pre, f y = false
  | [], _, _, h => by simp [takeFirst] at h
  | y :: ys, x, rest, h => by
    unfold takeFirst at h
    by_cases hy : f y = true
    · simp [hy] at h
      obtain ⟨rfl, rfl⟩ := h
      exact ⟨[], ys, rfl, rfl, hy, by simp⟩
    · simp [hy] at h
      cases ht : takeFirst f ys with
      | none => simp [ht] at h
      | some z =>
        obtain ⟨z, zs⟩ := z
        simp [ht] at h
        obtain ⟨rfl, rfl⟩ := h
        obtain ⟨pre, post, h1, h2, h3, h4⟩ := takeFirst_spec f ys z zs ht
        refine ⟨y :: pre, post, by simp [h1], by simp [h2], h3, ?_⟩
        intro w hw
        rcases List.mem_cons.mp hw with rfl | hw
        · simpa using hy
        · exact h4 w hw

/-! ## Reports and drains -/

/-- A report at a copy that is not REJOINING abandons no job (R63). -/
theorem reportTaken_plain {p : Part} {r : RegionIx} {q : Port} (why : Reason) (line : Option UpAddr)
    (h : mstate p r q ≠ some .rejoining) : reportTaken r q why line p = takeReport r q why line p := by
  simp [reportTaken, h]

/-- A purge takes the region's runs out of the four lists, and changes nothing else (R115). -/
theorem purgeRegion_lists (r : RegionIx) (p : Part) :
    purgeRegion r p = { p with lists := p.lists.map (fun l => l.filter (fun x => x.region != r)) } := by
  have : (purgeRegion r p).lists = p.lists.map (fun l => l.filter (fun x => x.region != r)) := by
    apply Vector.ext
    intro i hi
    have : i = 0 ∨ i = 1 ∨ i = 2 ∨ i = 3 := by omega
    rcases this with rfl | rfl | rfl | rfl <;>
      simp [purgeRegion, allPorts, purgeAt, Part.setDivList, Part.divList]
  rw [← this]; rfl

/-- The memberships of a cleared region have ceased; the others stand (R38). -/
theorem mstate_cleared (r r' : RegionIx) (q : Port) (p : Part) :
    mstate (p.setRegion r Region.cleared) r' q = if r' = r then none else mstate p r' q := by
  by_cases h : r' = r
  · subst h; simp [mstate, Part.region, Part.setRegion, Region.cleared, inUse]
  · have hv : r.val ≠ r'.val := fun e => h (Fin.ext e.symm)
    have : (p.setRegion r Region.cleared).region r' = p.region r' := by simp [Part.region, Part.setRegion, hv]
    simp only [mstate, this, h, if_false]

/-- The drain check of a drained region makes it FREE; a new head may then start (R37, R38). -/
theorem taskDrainCheck_drained (r : RegionIx) (p : Part) (h : drained p r = true) :
    taskDrainCheck r p = (p.retired r, [.headStart]) := by
  have hj : ∀ l : Vector (List Run) 4, keepsJob (({ p with lists := l } : Part).setRegion r Region.cleared) =
      fun j => match j.kind with
        | .catchUp q => allRegions.any (fun r' => r' != r && mstate p r' q == some .rejoining)
        | .compare _ => true := by
    intro l; funext j
    cases hk : j.kind with
    | compare c => simp [keepsJob, hk]
    | catchUp q =>
      have : ∀ r', mstate ({ p with lists := l } : Part) r' q = mstate p r' q := fun _ => rfl
      simp only [keepsJob, hk, hasRejoining, mstate_cleared, this]
      congr 1; funext r'
      by_cases hr : r' = r <;> simp [hr]
  simp only [taskDrainCheck, h, if_true, purgeRegion_lists, hj]
  rfl

/-- The drain check of a region that is not drained does nothing (R37). -/
theorem taskDrainCheck_kept (r : RegionIx) (p : Part) (h : drained p r = false) : taskDrainCheck r p = (p, []) := by
  simp [taskDrainCheck, h]

theorem drained_iff (r : RegionIx) (p : Part) :
    drained p r = true ↔ (p.region r).state = .retiring ∧ (p.region r).inFlight = 0 ∧ windowOn p r = false := by
  simp [drained, and_assoc]

/-- The part after a drain check, whatever follows (R37, R38). -/
theorem taskDrainCheck_fst (r : RegionIx) (p : Part) : (taskDrainCheck r p).1 = drainChecked r p := by
  by_cases h : drained p r = true
  · rw [taskDrainCheck_drained r p h, drainChecked, if_pos ((drained_iff r p).mp h)]
  · rw [taskDrainCheck_kept r p (by simpa using h), drainChecked, if_neg (fun h' => h ((drained_iff r p).mpr h'))]

/-! ## Held slots -/

/-- A tag holds a slot of a port exactly while one of the held slots is for it (R13). -/
theorem heldSlot_none (p : Part) (tag : Tag) (q : Port) :
    heldSlot p tag q = none ↔ ∀ h ∈ (p.port q).held, h.2 ≠ tag := by
  simp [heldSlot]

/-- Where a port's held tags are distinct, the slot a tag holds there is its only one: with that slot gone it holds none
(R13). -/
theorem heldSlot_only {l : List (SlotIx × Tag)} (hd : (l.map (·.2)).Nodup) {tag : Tag} {k : SlotIx}
    (h : (l.find? (fun x => x.2 == tag)).map (·.1) = some k) : ∀ x ∈ l.filter (fun x => x.1 != k), x.2 ≠ tag := by
  intro x hx hxt
  obtain ⟨y, hy, rfl⟩ := Option.map_eq_some_iff.mp h
  have hyt : y.2 = tag := by simpa using List.find?_some hy
  have hxy : x = y := List.inj_on_of_nodup_map hd (List.mem_filter.mp hx).1 (List.mem_of_find?_eq_some hy) (hxt.trans hyt.symm)
  simp [hxy] at hx

end Sys2Proof.Machine
end

