-- ==== Sys2Proof/Laws/Frame.lean ====
section
/-! SUPPORT. What no work inside an event changes (`sameOutside`), for every operation and for a whole event. -/

namespace Sys2Proof.Machine

theorem sameOutside_refl (p : Part) : sameOutside p p := by simp [sameOutside]

theorem sameOutside_trans {a b c : Part} (h : sameOutside a b) (h' : sameOutside b c) : sameOutside a c := by
  obtain ⟨h1, h2, h3, h4, h5, h6, h7, h8, h9, h10, h12, h11⟩ := h
  obtain ⟨k1, k2, k3, k4, k5, k6, k7, k8, k9, k10, k12, k11⟩ := h'
  refine ⟨k1.trans h1, k2.trans h2, k3.trans h3, k4.trans h4, k5.trans h5, k6.trans h6, k7.trans h7, k8.trans h8,
    k9.trans h9, ?_, h12.trans k12, fun q => ?_⟩
  · rw [← h10, BitVec.and_assoc, k10]
  · obtain ⟨a1, a2, a3, a4, a5, a6⟩ := h11 q
    obtain ⟨b1, b2, b3, b4, b5, b6⟩ := k11 q
    exact ⟨b1.trans a1, b2.trans a2, b3.trans a3, b4.trans a4, b5.trans a5, b6.trans a6⟩

/-! ## The named updates -/

theorem setPort_same (p : Part) (q : Port) (x : PortState) (h : x.link = (p.port q).link)
    (h1 : x.trainingSince = (p.port q).trainingSince) (h2 : x.wakeSince = (p.port q).wakeSince)
    (h3 : x.timeoutIx = (p.port q).timeoutIx) (h4 : x.silence = (p.port q).silence)
    (h5 : x.weight = (p.port q).weight) : sameOutside p (p.setPort q x) := by
  refine ⟨rfl, rfl, rfl, rfl, rfl, rfl, rfl, rfl, rfl, by simp, List.prefix_refl _, fun q' => ?_⟩
  rw [port_setPort]
  split
  · rename_i e; subst e; exact ⟨h, h1, h2, h3, h4, h5⟩
  · simp

theorem setRegion_same (p : Part) (r : RegionIx) (x : Region) : sameOutside p (p.setRegion r x) := by simp [sameOutside]
theorem setDivList_same (p : Part) (q : Port) (l : List Run) : sameOutside p (p.setDivList q l) := by simp [sameOutside]
theorem setTable_same (p : Part) (t : List Entry) : sameOutside p (p.setTable t) := by simp [sameOutside]
theorem setWindow_same (p : Part) (w : Option Window) : sameOutside p (p.setWindow w) := by simp [sameOutside]
theorem out_same (p : Part) (o : Output) : sameOutside p (p.out o) := by simp [sameOutside]

theorem post_same (b : EventBody) (p : Part) : sameOutside p (post b p) := by
  have h := (postTo_keeps p.events b).2
  simp [sameOutside, h.1, h.2.1, h.2.2]

theorem postAll_same (bs : List EventBody) : ∀ p, sameOutside p (postAll bs p) := by
  induction bs with
  | nil => exact sameOutside_refl
  | cons b bs ih => exact fun p => sameOutside_trans (post_same b p) (ih _)

/-- A fold of operations that each keep the outside keeps it. -/
theorem foldl_same {α : Type} (f : Part → α → Part) (h : ∀ p x, sameOutside p (f p x)) :
    ∀ (l : List α) p, sameOutside p (l.foldl f p)
  | [], p => sameOutside_refl p
  | x :: xs, p => sameOutside_trans (h p x) (foldl_same f h xs (f p x))

/-- Records that differ in the table, the line claim, the jobs or the lists only. -/
theorem lineClaim_same (p : Part) (c : Option UpAddr) : sameOutside p { p with lineClaim := c } := by
  simp [sameOutside, Part.port]

theorem jobs_same (p : Part) (j : List Job) : sameOutside p { p with jobs := j } := by simp [sameOutside, Part.port]

/-! ## Operations -/

theorem updateEntry_same (tag : Tag) (f : Entry → Entry) (p : Part) : sameOutside p (updateEntry tag f p) :=
  setTable_same p _

theorem removeEntry_same (tag : Tag) (p : Part) : sameOutside p (removeEntry tag p) := setTable_same p _

theorem lowerInFlight_same (r : RegionIx) (p : Part) : sameOutside p (lowerInFlight r p) := setRegion_same p _ _

theorem raiseInFlight_same (r : RegionIx) (p : Part) : sameOutside p (raiseInFlight r p) := setRegion_same p _ _

theorem setMState_same (r : RegionIx) (q : Port) (st : MState) (p : Part) : sameOutside p (setMState r q st p) :=
  setRegion_same p _ _

theorem placeTxn_same (q : Port) (k : SlotIx) (o : Origin) (op : Op) (a : DownAddr) (p : Part) :
    sameOutside p (placeTxn q k o op a p) := by
  unfold placeTxn
  dsimp only
  split
  · refine sameOutside_trans ?_ (out_same _ _)
    exact setPort_same p q _ rfl rfl rfl rfl rfl rfl
  · exact setPort_same p q _ rfl rfl rfl rfl rfl rfl

theorem clearPassOver_same (q : Port) (p : Part) : sameOutside p (clearPassOver q p) :=
  setPort_same p q _ rfl rfl rfl rfl rfl rfl

theorem withdrawClaimAt_same (q : Port) (p : Part) : sameOutside p (withdrawClaimAt q p) := by
  unfold withdrawClaimAt
  split
  · split
    · exact sameOutside_trans (setWindow_same p _) (clearPassOver_same _ _)
    · exact sameOutside_refl p
  · exact sameOutside_refl p

theorem withdrawClaims_same (p : Part) : sameOutside p (withdrawClaims p) := by
  unfold withdrawClaims
  exact foldl_same _ (fun p q => withdrawClaimAt_same q p) _ p

theorem ejectMember_same (r : RegionIx) (q : Port) (why : Reason) (p : Part) : sameOutside p (ejectMember r q why p) :=
  sameOutside_trans (setMState_same _ _ _ _) (post_same _ _)

theorem takeOutRejoining_same (q : Port) (why : Reason) (p : Part) : sameOutside p (takeOutRejoining q why p) := by
  unfold takeOutRejoining
  refine foldl_same _ (fun p r => ?_) _ p
  split
  · exact ejectMember_same _ _ _ _
  · exact sameOutside_refl p

theorem takeReport_same (r : RegionIx) (q : Port) (why : Reason) (line : Option UpAddr) (p : Part) :
    sameOutside p (takeReport r q why line p) := by
  unfold takeReport
  split
  · split
    · exact ejectMember_same _ _ _ _
    · exact post_same _ _
  · exact takeOutRejoining_same _ _ _
  all_goals exact sameOutside_refl p

theorem completeAt_same (q : Port) (p : Part) (r : RegionIx) : sameOutside p (completeAt q p r) := by
  unfold completeAt
  split
  · split
    · exact setMState_same _ _ _ _
    · exact sameOutside_trans (setMState_same _ _ _ _) (post_same _ _)
  · exact sameOutside_refl p

theorem takeCompletion_same (q : Port) (p : Part) : sameOutside p (takeCompletion q p) := by
  unfold takeCompletion
  exact foldl_same _ (completeAt_same q) _ p

theorem coalesce_same (q : Port) (p : Part) : sameOutside p (coalesce q p) := by
  unfold coalesce
  split
  · exact sameOutside_trans (setDivList_same p _ _) (post_same _ _)
  · exact sameOutside_refl p

theorem insertRun_same (q : Port) (x : Run) (p : Part) : sameOutside p (insertRun q x p) := by
  unfold insertRun
  dsimp only
  split
  · exact setDivList_same p _ _
  · exact sameOutside_trans (coalesce_same q p) (setDivList_same _ _ _)

theorem insertIfOut_same (e : Entry) (p : Part) (q : Port) : sameOutside p (insertIfOut e p q) := by
  unfold insertIfOut
  split
  · exact insertRun_same _ _ _
  · exact sameOutside_refl p

theorem purgeRegion_same (r : RegionIx) (p : Part) : sameOutside p (purgeRegion r p) := by
  unfold purgeRegion purgeAt
  exact foldl_same _ (fun p _ => setDivList_same p _ _) _ p

theorem chooseRead_same {p p' : Part} {e : Entry} {q : Port} (h : chooseRead p e = some (q, p')) : sameOutside p p' := by
  unfold chooseRead at h
  dsimp only at h
  split at h
  · simp at h
  · simp only [Option.some.injEq, Prod.mk.injEq] at h
    obtain ⟨_, h⟩ := h
    subst h
    split
    · exact setRegion_same p _ _
    · exact sameOutside_refl p

theorem freeEntry_same (e : Entry) (p : Part) : sameOutside p (freeEntry e p).1 :=
  sameOutside_trans (removeEntry_same _ _) (lowerInFlight_same _ _)

theorem completeEntry_same (e : Entry) (st : RespStatus) (p : Part) : sameOutside p (completeEntry e st p).1 :=
  sameOutside_trans (out_same p _) (freeEntry_same _ _)

theorem finishEntry_same (e : Entry) (st : RespStatus) (p : Part) : sameOutside p (finishEntry e st p).1 := by
  unfold finishEntry
  split
  · exact freeEntry_same _ _
  · exact completeEntry_same _ _ _

theorem finishWrite_same (tag : Tag) (p : Part) : sameOutside p (finishWrite tag p).1 := by
  unfold finishWrite
  split
  · exact sameOutside_refl p
  · split
    · exact finishEntry_same _ _ _
    · exact sameOutside_refl p

theorem enterWaitingSlot_same (e : Entry) (t : PortSet) (p : Part) : sameOutside p (enterWaitingSlot e t p).1 :=
  updateEntry_same _ _ _

theorem placeMirror_same (e : Entry) (p : Part) : sameOutside p (placeMirror e p).1 := by
  unfold placeMirror
  dsimp only
  refine sameOutside_trans (foldl_same _ (fun p q => ?_) _ p) (sameOutside_trans (updateEntry_same _ _ _)
    (sameOutside_trans (foldl_same _ (fun p q => ?_) _ _) (sameOutside_trans
      (foldl_same _ (insertIfOut_same e) _ _) (updateEntry_same _ _ _))))
  · unfold placeAt
    split
    · exact placeTxn_same _ _ _ _ _ _
    · exact sameOutside_refl p
  · unfold placementReport
    split
    · exact takeReport_same _ _ _ _ _
    · exact sameOutside_refl p

theorem placeIfComplete_same (tag : Tag) (p : Part) : sameOutside p (placeIfComplete tag p).1 := by
  unfold placeIfComplete
  split
  · exact sameOutside_refl p
  · split
    · exact placeMirror_same _ _
    · exact sameOutside_refl p

theorem endWait_same (e : Entry) (q : Port) (p : Part) : sameOutside p (endWait e q p).1 := by
  unfold endWait
  split
  · exact sameOutside_trans (updateEntry_same _ _ _) (completeEntry_same _ _ _)
  · split <;> exact updateEntry_same _ _ _

theorem releaseLineClaim_same (p : Part) : sameOutside p (releaseLineClaim p).1 := by
  unfold releaseLineClaim
  split
  · exact lineClaim_same p _
  · exact sameOutside_refl p

theorem postEnd_same (ev : Option EventBody) (p : Part) : sameOutside p (postEnd ev p) := by
  unfold postEnd
  split
  · exact post_same _ p
  · exact sameOutside_refl p

theorem endRunning_same (rest : List Job) (ev : Option EventBody) (p : Part) : sameOutside p (endRunning rest ev p).1 :=
  sameOutside_trans (withdrawClaims_same p) (sameOutside_trans (releaseLineClaim_same _)
    (sameOutside_trans (postEnd_same ev _) (sameOutside_trans (jobs_same _ rest) (setWindow_same _ _))))

theorem leaveRunning_same (rest : List Job) (ev : Option EventBody) (p : Part) :
    sameOutside p (leaveRunning rest ev p).1 := endRunning_same rest ev p

theorem leaveCatchUp_same (q : Port) (ev : Option EventBody) (p : Part) : sameOutside p (leaveCatchUp q ev p).1 := by
  unfold leaveCatchUp
  split
  · exact sameOutside_refl p
  · split
    · exact leaveRunning_same _ _ _
    · exact sameOutside_trans (postEnd_same ev p) (jobs_same _ _)

theorem taskReport_same (r : RegionIx) (q : Port) (why : Reason) (line : Option UpAddr) (p : Part) :
    sameOutside p (taskReport r q why line p).1 := by
  unfold taskReport
  split
  · exact sameOutside_trans (takeReport_same _ _ _ _ _) (leaveCatchUp_same _ _ _)
  · exact takeReport_same _ _ _ _ _

theorem startLine_same (job : WindowJob) (r : RegionIx) (e k : Nat) (p : Part) :
    sameOutside p (startLine job r e k p).1 := setWindow_same p _

theorem restartLine_same (q : Port) (w : Window) (p : Part) : sameOutside p (restartLine q w p).1 := setWindow_same p _

theorem abandonSource_same (q : Port) (p : Part) : sameOutside p (abandonSource q p).1 := by
  unfold abandonSource
  exact sameOutside_trans (takeOutRejoining_same _ _ _) (leaveRunning_same _ _ _)

theorem overtaken_same (w : Window) (p : Part) : sameOutside p (overtaken w p).2 := by
  unfold overtaken
  dsimp only
  split
  · exact lineClaim_same p _
  · exact sameOutside_refl p

theorem setRunningCompare_same (c : CompareJob) (p : Part) : sameOutside p (setRunningCompare c p) := jobs_same p _

theorem postMismatch_same (d : PortSet) (r : RegionIx) (a : UpAddr) (p : Part) :
    sameOutside p (postMismatch d r a p) := by
  unfold postMismatch
  split
  · exact sameOutside_refl p
  · exact post_same _ _

theorem recordLine_same (d : PortSet) (w : Window) (p : Part) : sameOutside p (recordLine d w p).1 := by
  unfold recordLine
  split
  · exact sameOutside_refl p
  · dsimp only
    have h := fun (r : RegionIx) (a : UpAddr) (c : CompareJob) =>
      sameOutside_trans (postMismatch_same d r a p) (setRunningCompare_same c _)
    split
    · exact h _ _ _
    · exact sameOutside_trans (h _ _ _) (leaveRunning_same _ _ _)

theorem compareLine_same (w : Window) (p : Part) : sameOutside p (compareLine w p).1 := by
  unfold compareLine
  dsimp only
  split
  · exact sameOutside_refl p
  · exact sameOutside_trans (releaseLineClaim_same p) (recordLine_same _ _ _)

theorem compareProgress_same (p : Part) : sameOutside p (compareProgress p).1 := by
  unfold compareProgress
  split
  · exact sameOutside_refl p
  · split
    · split
      · exact sameOutside_refl p
      · exact compareLine_same _ _
    · exact sameOutside_refl p

/-! ## Works -/

theorem chooseFirst_same (e : Entry) (p : Part) : sameOutside p (chooseFirst e p).1 := by
  unfold chooseFirst
  split
  · unfold chooseDirect
    split
    · split
      · exact completeEntry_same _ _ _
      · exact enterWaitingSlot_same _ _ _
    · exact completeEntry_same _ _ _
  · split
    · split
      · rename_i h; exact sameOutside_trans (chooseRead_same h) (enterWaitingSlot_same _ _ _)
      · exact completeEntry_same _ _ _
    · exact sameOutside_refl p

theorem taskLeave_same (line : UpAddr) (p : Part) : sameOutside p (taskLeave line p).1 := by
  unfold taskLeave
  split
  · exact sameOutside_refl p
  · exact chooseFirst_same _ _

theorem taskRedirect_same (tag : Tag) (q : Port) (why : Reason) (p : Part) :
    sameOutside p (taskRedirect tag q why p).1 := by
  unfold taskRedirect
  split
  · exact sameOutside_refl p
  · split
    · exact freeEntry_same _ _
    · split
      · exact sameOutside_refl p
      · split
        · rename_i h
          exact sameOutside_trans (chooseRead_same h) (sameOutside_trans (updateEntry_same _ _ _) (post_same _ _))
        · exact completeEntry_same _ _ _

theorem taskHeadStart_same (p : Part) : sameOutside p (taskHeadStart p).1 := by
  unfold taskHeadStart
  split
  · split
    · exact sameOutside_refl p
    · dsimp only
      split
      · exact sameOutside_trans (jobs_same p _) (post_same _ _)
      · exact jobs_same p _
  all_goals exact sameOutside_refl p

theorem taskChooseSource_same (q : Port) (p : Part) : sameOutside p (taskChooseSource q p).1 := by
  unfold taskChooseSource
  split
  · exact sameOutside_refl p
  · split
    · exact abandonSource_same _ _
    · exact setWindow_same p _

theorem taskSelection_same (q : Port) (p : Part) : sameOutside p (taskSelection q p).1 := by
  unfold taskSelection
  split
  · exact startLine_same _ _ _ _ _
  · exact sameOutside_trans (takeCompletion_same _ _) (leaveRunning_same _ _ _)

theorem nextCatchUpLine_same (q : Port) (w : Window) (p : Part) : sameOutside p (nextCatchUpLine q w p).1 := by
  unfold nextCatchUpLine
  split
  · split
    · exact startLine_same _ _ _ _ _
    · exact sameOutside_refl p
  · exact setDivList_same p _ _

theorem taskLineDone_same (q : Port) (p : Part) : sameOutside p (taskLineDone q p).1 := by
  unfold taskLineDone
  split
  · exact sameOutside_refl p
  · split
    · exact sameOutside_trans (releaseLineClaim_same p) (nextCatchUpLine_same _ _ _)
    · exact sameOutside_refl p

theorem taskCompareStart_same (p : Part) : sameOutside p (taskCompareStart p).1 := by
  unfold taskCompareStart
  split
  · exact sameOutside_refl p
  · dsimp only
    split
    · exact leaveRunning_same _ _ _
    · exact sameOutside_trans (startLine_same _ _ _ _ p) (setWindow_same _ _)

theorem taskCopyFailed_same (part : CopyPart) (q : Port) (why : Reason) (p : Part) :
    sameOutside p (taskCopyFailed part q why p).1 := by
  unfold taskCopyFailed
  split
  · exact sameOutside_refl p
  · dsimp only
    split
    · exact sameOutside_refl p
    · split
      all_goals exact sameOutside_refl p

theorem taskAfterSourceFailure_same (t s : Port) (p : Part) : sameOutside p (taskAfterSourceFailure t s p).1 := by
  unfold taskAfterSourceFailure
  split
  · exact sameOutside_refl p
  · split
    · split
      · exact sameOutside_refl p
      · split
        · exact abandonSource_same _ _
        · exact restartLine_same _ _ _
    · exact sameOutside_refl p

theorem noticeReading_same (t : Port) (full : Bool) (w : Window) (p : Part) :
    sameOutside p (noticeReading t full w p).1 := by
  unfold noticeReading
  split
  · exact sameOutside_refl p
  · split
    · split
      · exact setWindow_same p _
      · exact sameOutside_trans (overtaken_same w p) (setWindow_same _ _)
    · split
      · exact sameOutside_trans (withdrawClaimAt_same _ _) (setWindow_same _ _)
      · exact sameOutside_trans (sameOutside_trans (overtaken_same w p) (withdrawClaimAt_same _ _)) (restartLine_same _ _ _)

theorem taskNotice_same (line : UpAddr) (full : Bool) (p : Part) : sameOutside p (taskNotice line full p).1 := by
  unfold taskNotice
  split
  · exact sameOutside_refl p
  · split
    · split
      · exact noticeReading_same _ _ _ _
      · exact sameOutside_trans (overtaken_same _ p) (setWindow_same _ _)
    · exact sameOutside_refl p

theorem taskDrainCheck_same (r : RegionIx) (p : Part) : sameOutside p (taskDrainCheck r p).1 := by
  unfold taskDrainCheck
  split
  · exact sameOutside_trans (purgeRegion_same r p) (sameOutside_trans (setRegion_same _ _ _)
      (sameOutside_trans (jobs_same _ _) (post_same _ _)))
  · exact sameOutside_refl p

theorem taskServeLost_same (p : Part) : sameOutside p (taskServeLost p).1 := by
  unfold taskServeLost
  split
  · exact sameOutside_refl p
  · split
    · exact endWait_same _ _ _
    · exact sameOutside_refl p

/-- No work inside an event changes what lies outside it. -/
theorem runTask_same (t : Task) (p : Part) : sameOutside p (runTask t p).1 := by
  cases t with
  | leave line => exact taskLeave_same _ _
  | immediateFailure tag q =>
    simp only [runTask, taskImmediateFailure]
    split
    · exact sameOutside_refl p
    · split
      · exact updateEntry_same _ _ _
      · exact sameOutside_refl p
  | fixTargets tag =>
    simp only [runTask, taskFixTargets]
    split
    · exact sameOutside_refl p
    · split
      · exact sameOutside_refl p
      · split
        · exact completeEntry_same _ _ _
        · exact enterWaitingSlot_same _ _ _
  | giveBack q =>
    simp only [runTask, taskGiveBack]
    split
    · exact sameOutside_refl p
    · split
      · exact setPort_same p q _ rfl rfl rfl rfl rfl rfl
      · exact sameOutside_refl p
  | serveLost => exact taskServeLost_same _
  | redirect tag q why => exact taskRedirect_same _ _ _ _
  | afterShrink tag =>
    simp only [runTask, taskAfterShrink]
    split
    · exact sameOutside_refl p
    · split
      · exact sameOutside_refl p
      · split
        · exact completeEntry_same _ _ _
        · exact placeIfComplete_same _ _
  | afterWriteFailure tag q =>
    simp only [runTask, taskAfterWriteFailure]
    split
    · exact sameOutside_refl p
    · exact sameOutside_trans (insertIfOut_same _ _ _) (finishWrite_same _ _)
  | report r q why line => exact taskReport_same _ _ _ _ _
  | drainCheck r => exact taskDrainCheck_same _ _
  | headStart => exact taskHeadStart_same _
  | selection q => exact taskSelection_same _ _
  | chooseSource q => exact taskChooseSource_same _ _
  | lineDone q => exact taskLineDone_same _ _
  | afterSourceFailure t s => exact taskAfterSourceFailure_same _ _ _
  | compareStart => exact taskCompareStart_same _
  | afterCompareFailure => exact compareProgress_same _
  | closeCheck =>
    simp only [runTask, taskCloseCheck]
    split
    · exact sameOutside_refl p
    · split
      · exact setWindow_same p _
      · exact sameOutside_refl p
  | claimLost q =>
    simp only [runTask, taskClaimLost]
    split
    · exact sameOutside_refl p
    · exact withdrawClaimAt_same _ _
  | copyFailed part q why => exact taskCopyFailed_same _ _ _ _
  | notice line full => exact taskNotice_same _ _ _
  | posting b => exact post_same _ _

/-- A whole event's works change nothing outside. -/
theorem settle_same (a : Act) : sameOutside a.1 (settle a) :=
  runAgenda_keeps sameOutside_refl (fun _ _ _ => sameOutside_trans) runTask_same _ _ _

end Sys2Proof.Machine
end

