-- ==== Sys2Proof/Laws/Serial.lean ====
section
/-! SUPPORT. The line of the management port: what is sent is read back, an idle line carries nothing, and a break is a
framing error at every character time. -/

namespace Sys2Proof.Machine

@[simp] theorem lineCharacters_nil : lineCharacters [] = [] := by simp [lineCharacters]

@[simp] theorem lineCharacters_idle (l : List Bool) : lineCharacters (true :: l) = lineCharacters l := by
  simp [lineCharacters]

/-- Any idle time before the levels adds no character. -/
theorem lineCharacters_idles (n : Nat) (l : List Bool) :
    lineCharacters (List.replicate n true ++ l) = lineCharacters l := by
  induction n with
  | zero => rfl
  | succ n ih => simpa [List.replicate_succ] using ih

theorem dataByte_bits (b : Byte) :
    dataByte (b.getLsbD 0) (b.getLsbD 1) (b.getLsbD 2) (b.getLsbD 3) (b.getLsbD 4) (b.getLsbD 5) (b.getLsbD 6)
      (b.getLsbD 7) = b := by
  revert b; decide +kernel

/-- The levels of a character are read as that character. -/
theorem lineCharacters_character (b : Byte) (stop : Bool) (l : List Bool) :
    lineCharacters (characterLevels b stop ++ l) = (b, stop) :: lineCharacters l := by
  simp only [characterLevels, List.cons_append, List.nil_append, lineCharacters, dataByte_bits]

/-- Characters sent back to back are read as those characters, each with a high stop bit. -/
theorem lineCharacters_lineLevels (chars : List Byte) (l : List Bool) :
    lineCharacters (lineLevels chars ++ l) = chars.map (fun b => (b, true)) ++ lineCharacters l := by
  induction chars with
  | nil => simp [lineLevels]
  | cons b bs ih =>
    have : lineLevels (b :: bs) ++ l = characterLevels b true ++ (lineLevels bs ++ l) := by simp [lineLevels]
    rw [this, lineCharacters_character, ih]; rfl

/-- A line held low for n character times is n framing errors. -/
theorem lineCharacters_break (n : Nat) :
    lineCharacters (List.replicate (10 * n) false) = List.replicate n (0#8, false) := by
  induction n with
  | zero => simp
  | succ n ih =>
    have : List.replicate (10 * (n + 1)) false = characterLevels 0#8 false ++ List.replicate (10 * n) false := by
      rw [show 10 * (n + 1) = 10 + 10 * n by omega, List.replicate_add]; rfl
    rw [this, lineCharacters_character, ih]; rfl

/-- MGMT_TX is high while PORST_N is asserted (R156). -/
theorem mgmtTx_porst {p : Part} (h : p.porst = true) (n : Nat) : mgmtTx p n = true := by simp [mgmtTx, h]

/-- MGMT_TX is high with no reply waiting (R142). -/
theorem mgmtTx_idle {p : Part} (h : p.mgmt.replies = []) (n : Nat) : mgmtTx p n = true := by simp [mgmtTx, h]

/-- While a reply is sent MGMT_TX has the levels of its frame, and it is high when they are over (R142, R150). -/
theorem mgmtTx_sending {p : Part} {body : List Byte} {rest : List (List Byte)} (h : p.porst = false)
    (hr : p.mgmt.replies = body :: rest) (n : Nat) :
    mgmtTx p n = (lineLevels (frameChars body))[n]?.getD true := by simp [mgmtTx, h, hr]

/-- A frame on the line, after any idle time, is received character by character. -/
theorem receiveLine_lineLevels (n : Nat) (chars : List Byte) (p : Part) :
    receiveLine (List.replicate n true ++ lineLevels chars) p = chars.foldl (fun p b => receive b p) p := by
  have h := lineCharacters_lineLevels chars []
  simp only [List.append_nil, lineCharacters_nil] at h
  simp [receiveLine, lineCharacters_idles, h, List.foldl_map, mgmtCharacter]

end Sys2Proof.Machine
end

