-- ==== Sys2Proof/Machine/Device.lean ====
section
/-! DEFINITION. What the Q440 requires of a memory device (R99, R100), as a reference device beside the block. It is no
part of State: a device's answers reach the block as the operands of DEVICE_RESPONSE and DEVICE_READY (log 15). -/

namespace Sys2Proof.Machine

/-- A transaction as the port sends it: slot number, operation, downstream line address (R99). -/
structure Sent where
  slot : SlotIx
  op   : Op
  addr : DownAddr
deriving DecidableEq, Repr

/-- A device: the lines written so far, and the transactions received and not yet performed, oldest first. -/
structure Device where
  lines   : List (DownAddr × LineData)
  waiting : List Sent
deriving DecidableEq, Repr

/-- The bits of a line that a byte mask lets through: bits 8n+7 to 8n for each set bit n (R99). -/
def maskBits (m : ByteMask) : LineData :=
  (List.range 64).foldl (fun acc n => if m.getLsbD n then acc ||| (0xFF#512 <<< (8 * n)) else acc) 0#512

/-- A write stores each byte whose mask bit is set and leaves the others (R99). -/
def storeMasked (m : ByteMask) (new old : LineData) : LineData := (old &&& ~~~(maskBits m)) ||| (new &&& maskBits m)

/-- The contents of a line: as last written, else whatever the device held before (`held`, which the spec leaves
unknown: R176). -/
def Device.line (held : DownAddr → LineData) (d : Device) (a : DownAddr) : LineData :=
  ((d.lines.find? (fun x => x.1 == a)).map (·.2)).getD (held a)

/-- The contents of a line replaced. -/
def Device.setLine (d : Device) (a : DownAddr) (v : LineData) : Device :=
  { d with lines := (a, v) :: d.lines.filter (fun x => x.1 != a) }

/-- A transaction performed, with its one response (R99). -/
def Device.perform (held : DownAddr → LineData) (d : Device) (t : Sent) : Device × DevResponse :=
  match t.op with
  | .read => (d, .okData (d.line held t.addr))
  | .write m v => (d.setLine t.addr (storeMasked m v (d.line held t.addr)), .ok)

/-- A transaction received from the port. -/
def Device.receive (d : Device) (t : Sent) : Device := { d with waiting := d.waiting ++ [t] }

/-- The device may perform a waiting transaction when none before it is for the same line (R99). -/
def Device.mayPerform (d : Device) (t : Sent) : Bool :=
  d.waiting.contains t && (d.waiting.takeWhile (fun x => x != t)).all (fun x => x.addr != t.addr)

/-- A waiting transaction leaves with its response (R99). -/
def Device.answer (held : DownAddr → LineData) (d : Device) (t : Sent) : Device × DevResponse :=
  ({ d with waiting := d.waiting.erase t }).perform held t

/-- Bring-up clears the link: what was sent before it is not performed after it, and not answered (R100). -/
def Device.bringUp (d : Device) : Device := { d with waiting := [] }

end Sys2Proof.Machine
end

