-- ==== Sys2Proof/Tests/Slice0.lean ====
section
/-! SUPPORT. Checks of the author's own work: the ill-formed command, values the spec's worked examples give, single steps,
and for each statement a state and operands that meet its premises, clause by clause. -/

namespace Sys2Proof.Tests

open Sys2Proof.Machine

/-! ## Small states -/

/-- A port with power-on settings in a link state. -/
def linked (l : Link) : PortState :=
  { PortState.powerOff with
    link := l
    trainingSince := if l = .training then some 0 else none
    wakeSince := if l = .waking then some 0 else none }

/-- The part after power-on with all four links in one state. -/
def allLinks (l : Link) : Part :=
  { Part.powerOn false 0#2 false 0 [] with ports := Vector.replicate 4 (linked l), trace := [] }

/-- A region with copies on M0, M1 and M2 in the given states, upstream at granule 64. -/
def trio (a b c : MState) : Region :=
  { Region.cleared with
    state := .live
    base := 64
    size := 1
    mode := .mirror
    members := [{ port := 0, base := 64, state := some a }, { port := 1, base := 0, state := some b },
                { port := 2, base := 0, state := some c }] }

/-- Links ACTIVE, region 0 DIRECT on M0, region 1 with two good copies and one being rebuilt. -/
def duo : Part := (allLinks .active).setRegion 1 (trio .inService .inService .rejoining)

/-- A state with no command waiting. -/
def at' (p : Part) : State := { part := p, pending := [] }

/-- The first line of region 0 and of region 1. -/
def line0 : UpAddr := 0#40
def line1 : UpAddr := 0x40000000#40

/-- An entry in a state with a target set. -/
def entry (tag : Tag) (op : Op) (line : UpAddr) (r : RegionIx) (x : EntryState) (target : PortSet) : Entry :=
  { newEntry tag op line r with state := x, target := target }

/-- A part whose table holds the entries, each counted in its region. -/
def withTable (es : List Entry) (p : Part) : Part := es.foldl (fun p e => raiseInFlight e.region p) (p.setTable es)

/-- A one-line write. -/
def aWrite : Op := .write 1#64 3#512

/-- What a command answers, as a part. -/
def after (c : Instr) (p : Part) : Part :=
  match exec c (at' p) with
  | .next t => t.part
  | .fault _ => p
  | .refused _ => p

/-! ## WellFormed -/

/-- A request names a line; an address inside a line is ill formed, and the check refuses it. -/
theorem test_wellFormed_line :
    (Instr.admission 0 .read 64#40).wellFormed = true ∧ (Instr.admission 0 .read 65#40).wellFormed = false ∧
    (Instr.admission 31 aWrite 0xFFFFFFFFC1#40).wellFormed = false := by decide

/-- No row of the table has bits, so no word spells a command, and nothing is queued for one. -/
theorem test_noWordSpellsACommand :
    decodeTableWord 32 0x12345678 = none ∧ State.reset.withFetchWord 32 0x12345678 = State.reset := by decide +kernel

/-! ## Values of the spec's worked examples -/

/-- The check value of the nine digits (R145). -/
theorem test_crc_digits :
    crc16 [0x31#8, 0x32#8, 0x33#8, 0x34#8, 0x35#8, 0x36#8, 0x37#8, 0x38#8, 0x39#8] = 0x29B1#16 := by decide +kernel

/-- The SET_KEY frame of chapter 10: the escaped key, and 10 to 12 characters. -/
theorem test_setKey_frame :
    (frameChars (frameBody 0x5C#8 0x21#8 0x03#8 [0xF1#8])).take 7 =
      [0xF1#8, 0x5C#8, 0x21#8, 0x03#8, 0x01#8, 0xF3#8, 0xD1#8] ∧
    (frameBody 0x5C#8 0x21#8 0x03#8 [0xF1#8]).length = 7 := by decide +kernel

/-- A character's ten levels, its start bit low, bit 0 first, its stop bit high (R142); a reply goes out at the strapped
rate. -/
theorem test_character_levels :
    characterLevels 0xF1#8 true = [false, true, false, false, false, true, true, true, true, true] ∧
    lineCharacters [true, true, false, true, false, false, false, true, true, true, true, true, true] = [(0xF1#8, true)] ∧
    (after .replySent { duo with mbaud := true, mgmt := { duo.mgmt with replies := [[]] } }).trace =
      [.replyFrame 1000000 (characterLevels 0xF1#8 true ++ characterLevels 0xF2#8 true)] := by decide +kernel

/-- MGMT_TX: the start bit and the first data bit of a reply's start byte, its last stop bit, the time after it, and no reply
(R142). -/
theorem test_mgmtTx :
    (let p := { duo with mgmt := { duo.mgmt with replies := [[]] } }
     (List.range 21).map (mgmtTx p) = characterLevels 0xF1#8 true ++ characterLevels 0xF2#8 true ++ [true] ∧
     mgmtTx (after .replySent p) 0 = true ∧ mgmtTx (after .porstNAssert p) 0 = true) ∧
    mgmtTx duo 0 = true := by decide +kernel

/-- The flags of R164: PORT_FAIL of M0 and M3, the first and the last of the single kinds, a kind without a flag, and
EVENT_LOST. -/
theorem test_flags :
    flagBit { kind := .portLinkFailed, port := some 0 } = 0x0001#13 ∧ flagBit { kind := .wakeFailed, port := some 3 } = 0x0008#13 ∧
    flagBit { kind := .memberEjected, port := some 3 } = 0x0010#13 ∧ flagBit { kind := .keyRefused } = 0x0800#13 ∧
    flagBit { kind := .copyDone, port := some 1 } = 0#13 ∧ eventLostBit = 0x1000#13 := by decide

/-- The three event records of chapter 10. -/
theorem test_event_records :
    eventBytes { seq := 50, body := { kind := .divergenceCoalesced, port := some 2, region := some 4, detail := 3,
                                      addr := .extent 101 } } =
      [0x00#8, 0x32#8, 0x38#8, 0x02#8, 0x04#8, 0x02#8, 0x00#8, 0x00#8, 0x03#8, 0x00#8, 0x00#8, 0x65#8] ∧
    (eventBytes { seq := 0, body := { kind := .lastReplicaError, port := some 1, region := some 5, detail := 1,
                                      addr := .line 0x2000C0000#40 } }).drop 2 =
      [0x12#8, 0x01#8, 0x05#8, 0x01#8, 0x01#8, 0x02#8, 0x00#8, 0x0C#8, 0x00#8, 0x00#8] ∧
    (eventBytes { seq := 0, body := { kind := .compareDone, region := some 5, detail := 3, second := 2048 } }).drop 2 =
      [0x49#8, 0xFF#8, 0x05#8, 0x00#8, 0x00#8, 0x03#8, 0x00#8, 0x00#8, 0x08#8, 0x00#8] := by decide +kernel

/-- The region record of chapter 10. -/
theorem test_region_record :
    regionRecord 3 { state := .live, base := 256, size := 64, mode := .mirror,
                     members := [{ port := 1, base := 0, state := some .inService },
                                 { port := 0, base := 256, state := some .rejoining }],
                     policy := .balance, preferred := none, alternate := none, inFlight := 0 } =
      [0x03#8, 0x01#8, 0x01#8, 0x00#8, 0x00#8, 0x40#8, 0x00#8, 0xFF#8, 0x02#8,
       0x01#8, 0x00#8, 0x00#8, 0x00#8, 0x01#8, 0x00#8, 0xFF#8, 0x00#8, 0x00#8,
       0x00#8, 0x00#8, 0x02#8, 0xFF#8, 0x00#8, 0x00#8, 0x03#8, 0xFF#8, 0x00#8, 0x00#8] := by decide +kernel

/-- The staging record of chapter 10 for that region. -/
def stage3 : StageRecord where
  region := 3#8
  mode := 1#8
  base := 256#16
  size := 64#16
  policy := 0#8
  preferred := 0#8
  count := 2#8
  slot0 := { port := 1#8, base := 0#16 }
  slot1 := { port := 0#8, base := 256#16 }
  slot2 := { port := 0#8, base := 0#16 }
  reserved := 0#16

/-- It stages; with 0FFh as its preferred port byte, or in member slot 2, it is refused. -/
theorem test_stage_reserved :
    stageReservedClear stage3 = true ∧ (stagedRegion stage3).isSome = true ∧
    stageReservedClear { stage3 with preferred := 0xFF#8 } = false ∧
    stageReservedClear { stage3 with slot2 := { port := 0xFF#8, base := 0#16 } } = false := by decide

/-- Address translation: region 3 of chapter 2's sequence, line 100000040h, on M0 at granule 256. -/
theorem test_downAddr :
    downAddr { Region.cleared with state := .live, base := 256, size := 64, mode := .mirror,
                                   members := [{ port := 0, base := 256, state := some .rejoining }] } 0 0x100000040#40 =
      0x100000040#38 := by decide +kernel

/-- The divergence list of chapter 6's sequence at its first coalescing, four runs of it: the pair with the smallest gap is
joined (here 101 to 103 between two runs of region 4). -/
theorem test_coalescing_choice :
    bestPair [{ region := 1, first := 0, count := 2 }, { region := 1, first := 10, count := 2 },
              { region := 4, first := 100, count := 1 }, { region := 4, first := 104, count := 1 }] =
      some ({ region := 4, first := 100, count := 1 }, { region := 4, first := 104, count := 1 }) ∧
    joinPair { region := 4, first := 100, count := 1 } { region := 4, first := 104, count := 1 }
      [{ region := 1, first := 0, count := 2 }, { region := 4, first := 100, count := 1 },
       { region := 4, first := 104, count := 1 }] =
      [{ region := 1, first := 0, count := 2 }, { region := 4, first := 100, count := 5 }] := by decide +kernel

/-- Insertion: a covered extent changes nothing, a touching one merges, an apart one is placed in order. -/
theorem test_insertion_cases :
    insertOpen { region := 1, first := 11, count := 1 } [{ region := 1, first := 10, count := 2 }] =
      [{ region := 1, first := 10, count := 2 }] ∧
    insertOpen { region := 1, first := 12, count := 1 }
        [{ region := 1, first := 10, count := 2 }, { region := 1, first := 13, count := 1 }] =
      [{ region := 1, first := 10, count := 4 }] ∧
    insertOpen { region := 1, first := 5, count := 1 } [{ region := 1, first := 10, count := 2 }] =
      [{ region := 1, first := 5, count := 1 }, { region := 1, first := 10, count := 2 }] := by decide +kernel

/-- A write changes only its masked bytes on a device (R99). -/
theorem test_device_mask : storeMasked 0x2#64 (BitVec.allOnes 512) 0#512 = 0xFF00#512 := by decide +kernel

/-! ## Single steps -/

/-- A READ of region 0 waits for a slot of M0, and the grant places it and sends it. -/
theorem test_read_is_placed :
    (after (.admission 7 .read line0) duo).table.map (fun e => (e.tag, e.state, e.target)) = [(7, .waitingSlot, 1#4)] ∧
    (after (.grant 0 15) (after (.admission 7 .read line0) duo)).trace = [.send 0 15 .read 0#38] := by decide +kernel

/-- A MIRROR write needs a slot at each of its three targets. -/
theorem test_write_needs_all_slots :
    (after (.admission 9 aWrite line1) duo).table.map (fun e => (e.state, e.target)) = [(.waitingSlot, 7#4)] ∧
    (after (.grant 1 0) (after (.admission 9 aWrite line1) duo)).table.map (·.state) = [.waitingSlot] := by decide +kernel

/-- The answer to a READ reaches the host with its data, and the tag is free. -/
theorem test_read_is_answered :
    (after (.hostOutcome 0) { withTable [entry 7 .read line0 0 .issued 1#4] duo with
        handed := [{ port := 0, origin := .host 7, result := .ok (some 5#512) }] }).trace =
      [.response { tag := 7, status := .ok, data := some 5#512 }] ∧
    (after (.hostOutcome 0) { withTable [entry 7 .read line0 0 .issued 1#4] duo with
        handed := [{ port := 0, origin := .host 7, result := .ok (some 5#512) }] }).table = [] := by decide +kernel

/-- A link error at M1 posts PORT_LINK_FAILED; its link-loss claim then ejects the copy there. -/
theorem test_link_error_and_claim :
    (after (.linkError 1) duo).events.queue.map (·.body.kind) = [.portLinkFailed] ∧
    mstate (after (.linkLossClaim 1) (after (.linkError 1) duo)) 1 1 = some .faulted := by decide +kernel

/-- REJOIN of a detached copy queues a catch-up job, which starts and completes at once, the list being empty. -/
theorem test_rejoin_completes :
    mstate (after (.rejoin 1#8 2#8 0#8) ((allLinks .active).setRegion 1 (trio .inService .inService .detached))) 1 2 =
      some .inService := by decide +kernel

/-- A queued compare starts its reads at the three copies in ascending order. -/
theorem test_compare_claims :
    ((after (.compare 1#8 1#8 0#24 1#24) ((allLinks .active).setRegion 1 (trio .inService .inService .inService))).window.map
      (fun w => w.claims.map (·.port))) = some [0, 1, 2] := by decide +kernel

/-- A frame with a wrong key is dropped with KEY_REFUSED. -/
theorem test_wrong_key :
    (takeFrame (frameBody 0x5D#8 1#8 1#8 []) duo).events.queue.map (·.body.kind) = [.keyRefused] ∧
    (takeFrame (frameBody 0x5D#8 1#8 1#8 []) duo).mgmt.replies = [] := by decide +kernel

/-- A frame of an unlisted code is answered BAD_COMMAND; one byte too many, BAD_LENGTH. -/
theorem test_command_tests :
    (testedCommand 0x7F#8 0#8 [] duo).2.1 = .badCommand ∧ (testedCommand 0x01#8 1#8 [0#8] duo).2.1 = .badLength ∧
    (testedCommand 0x01#8 1#8 [] duo).2.1 = .lengthShort ∧ (testedCommand 0x01#8 0#8 [0#8] duo).2.1 = .lengthLong := by
  decide +kernel

/-! ## The premises of the statements are met -/

theorem witness_StepRunsFrontCommand :
    (at' duo).pending = [] ∧ ({ at' duo with pending := [.replySent, .ident 1#8] } : State).pending = [.replySent, .ident 1#8] :=
  by decide +kernel

theorem witness_PowerOnReset : (after .porstNAssert duo).porst = true ∧ duo.porst = false := by decide +kernel

/-- A table with a live entry for tag 5, and one without. -/
theorem witness_AdmissionTagAndRegionChecks_tag :
    upReady (withTable [entry 5 .read line0 0 .issued 1#4] duo) = true ∧
    (∃ e ∈ (withTable [entry 5 .read line0 0 .issued 1#4] duo).table, e.tag = 5) ∧
    ∀ e ∈ (withTable [entry 5 .read line0 0 .issued 1#4] duo).table, e.tag ≠ 6 := by decide +kernel

/-- The first line past region 1, and a line of a RETIRING region. -/
theorem witness_AdmissionTagAndRegionChecks_region :
    upReady duo = true ∧ (∀ e ∈ duo.table, e.tag ≠ 0) ∧
    (∀ r, regionCovers (duo.region r) 0x41000000#40 = true → (duo.region r).state ≠ .live) ∧
    ∀ r, regionCovers ((duo.setRegion 0 { Region.boot 0#2 with state := .retiring }).region r) line0 = true →
      ((duo.setRegion 0 { Region.boot 0#2 with state := .retiring }).region r).state ≠ .live := by decide +kernel

/-- A line held by an entry, and a line claimed. -/
theorem witness_AdmissionWaitsOrIsDirect_line :
    (let p := withTable [entry 5 .read line0 0 .issued 1#4] duo
     upReady p = true ∧ (∀ e ∈ p.table, e.tag ≠ 6) ∧ lookupRegion p line0 = some 0 ∧ (p.region 0).state = .live ∧
     lineHeld p ∧ ∃ e ∈ p.table, e.line = line0 ∧ e.state ≠ .waitingLine) ∧
    (let p := { duo with lineClaim := some line1 }
     upReady p = true ∧ (∀ e ∈ p.table, e.tag ≠ 6) ∧ lookupRegion p line1 = some 1 ∧ (p.region 1).state = .live ∧
     lineHeld p ∧ p.lineClaim = some line1) := by decide +kernel

/-- M0 ACTIVE, and M0 FAILED; the line is the last of the region. -/
theorem witness_AdmissionWaitsOrIsDirect_direct :
    (let line : UpAddr := 0x3FFFFFC0#40
     upReady duo = true ∧ (∀ e ∈ duo.table, e.tag ≠ 31 ∧ e.line ≠ line) ∧ duo.lineClaim ≠ some line ∧
     lookupRegion duo line = some 0 ∧ (duo.region 0).state = .live ∧ (duo.region 0).mode = .direct ∧
     (duo.region 0).members = [{ port := 0, base := 0, state := none }] ∧ portDown duo 0 = false) ∧
    (let p := duo.setPort 0 (linked .failed)
     upReady p = true ∧ lookupRegion p line0 = some 0 ∧ (p.region 0).state = .live ∧ (p.region 0).mode = .direct ∧
     (p.region 0).members = [{ port := 0, base := 0, state := none }] ∧ portDown p 0 = true) := by decide +kernel

/-- A choice for each policy, and no eligible copy. -/
theorem witness_AdmissionMirrorRead :
    (upReady duo = true ∧ (∀ e ∈ duo.table, e.tag ≠ 0 ∧ e.line ≠ line1) ∧ duo.lineClaim ≠ some line1 ∧
     lookupRegion duo line1 = some 1 ∧ (duo.region 1).state = .live ∧ (duo.region 1).mode = .mirror ∧
     policyChoice duo (duo.region 1)
       (allPorts.filter (fun q => mstate duo 1 q == some .inService && !portDown duo q)) = some 0 ∧
     policyChoice duo { duo.region 1 with policy := .preferred, preferred := some 1 }
       (allPorts.filter (fun q => mstate duo 1 q == some .inService && !portDown duo q)) = some 1 ∧
     policyChoice duo { duo.region 1 with policy := .alternate, alternate := some 0 }
       (allPorts.filter (fun q => mstate duo 1 q == some .inService && !portDown duo q)) = some 1) ∧
    (let p := (allLinks .failed).setRegion 1 (trio .inService .faulted .detached)
     upReady p = true ∧ lookupRegion p line1 = some 1 ∧ (p.region 1).mode = .mirror ∧
     ∀ q, mstate p 1 q = some .inService → portDown p q = true) := by decide +kernel

theorem witness_AdmissionMirrorWrite :
    upReady duo = true ∧ (∀ e ∈ duo.table, e.tag ≠ 0 ∧ e.line ≠ line1) ∧ duo.lineClaim ≠ some line1 ∧
    lookupRegion duo line1 = some 1 ∧ (duo.region 1).state = .live ∧ (duo.region 1).mode = .mirror ∧
    (∀ q, mstate duo 1 q = some .inService ∨ mstate duo 1 q = some .rejoining → portDown duo q = false) ∧
    ∃ q, mstate duo 1 q = some .inService := by decide +kernel

/-- A copy that leaves and two that stay up; and two copies that fail, the second of them as last replica. -/
theorem witness_ImmediateFailuresOfAWrite :
    (let p := duo.setPort 0 (linked .failed)
     upReady p = true ∧ lookupRegion p line1 = some 1 ∧
     (∀ q, mstate p 1 q = some .rejoining → portDown p q = false) ∧ leavesService p 1 (portDown p) 0 ∧
     allPorts.filter (fun q => mstate p 1 q == some .inService && portDown p q) = [0] ∧
     ∃ q, (mstate p 1 q = some .inService ∨ mstate p 1 q = some .rejoining) ∧ portDown p q = false) ∧
    (let p := (allLinks .off).setRegion 1 (trio .inService .inService .detached)
     (∀ q, mstate p 1 q = some .rejoining → portDown p q = false) ∧ leavesService p 1 (portDown p) 0 ∧
     ¬ leavesService p 1 (portDown p) 1 ∧
     allPorts.filter (fun q => mstate p 1 q == some .inService && portDown p q) = [0, 1] ∧
     ∀ q, mstate p 1 q = some .inService ∨ mstate p 1 q = some .rejoining → portDown p q = true) := by
  unfold leavesService; decide +kernel

/-- A handed outcome and the state around it. -/
def handing (q : Port) (o : Origin) (r : TxnResult) (p : Part) : Part :=
  { p with handed := [{ port := q, origin := o, result := r }] }

/-- An ISSUED read with its data, an ORPHANED write of two copies with its last acknowledgement, and the three
statuses; a copy counted before placement and added again by REJOIN never makes a write OK. -/
theorem witness_HostOutcomeFinishes :
    (let e := entry 7 .read line0 0 .issued 1#4
     let p := handing 0 (.host 7) (.ok (some 5#512)) (withTable [e] duo)
     p.porst = false ∧ takeFirst (fun h => h.port == 0 && isHost h.origin) p.handed =
       some ({ port := 0, origin := .host 7, result := .ok (some 5#512) }, []) ∧
     findEntry p 7 = some e ∧ finalStatus p e 0 (.ok (some 5#512)) = some .ok ∧ (p.region 0).state = .live ∧
     ∀ x ∈ p.table, x.line = line0 → x.tag = 7) ∧
    (let e := { entry 31 aWrite line1 1 .orphaned 3#4 with ack := 1#4, counted := 3#4, inServiceAtPlacement := 3#4 }
     let p := handing 1 (.host 31) (.ok none) (withTable [e] duo)
     p.porst = false ∧ findEntry p 31 = some e ∧ finalStatus p e 1 (.ok none) = some .ok ∧ (p.region 1).state = .live ∧
     ∀ x ∈ p.table, x.line = line1 → x.tag = 31) ∧
    (let e := { entry 31 aWrite line1 1 .issued 7#4 with counted := 3#4, inServiceAtPlacement := 2#4 }
     writeStatus { e with ack := 2#4 } = .ok ∧ writeStatus { e with ack := 5#4 } = .portDown ∧
     writeStatus { e with fail := 3#4, reasons := [(0, .link), (1, .media)] } = .media ∧
     writeStatus { e with fail := 3#4, reasons := [(0, .link), (1, .timeout)] } = .portDown) := by decide +kernel

/-- A failed read of M0: another copy to read, with a free slot and with none; no copy left to read; and an orphan. -/
theorem witness_FailedReadOutcome :
    let e : Entry := { entry 7 .read line1 1 .issued 1#4 with tried := 1#4 }
    let failed (e : Entry) (p : Part) : Part :=
      reportTaken 1 0 .media (some line1) (updateEntry 7 (recordFail 0 .media) (withTable [e] p))
    let p := handing 0 (.host 7) .error (withTable [e] duo)
    p.porst = false ∧ takeFirst (fun h => h.port == 0 && isHost h.origin) p.handed =
      some ({ port := 0, origin := .host 7, result := .error }, []) ∧ findEntry p 7 = some e ∧
    (p.region 1).mode = .mirror ∧ reportWaits p 1 0 ∧ freesQuietly p e ∧
    (chooseRead (failed e duo) e).map (fun x => (x.1, hasFreeSlot (x.2.port x.1))) = some (1, true) ∧
    (chooseRead (failed e (duo.setPort 1 { linked .active with held := (List.range 16).map (fun n => (Fin.ofNat 16 n, 9)) })) e).map
      (fun x => (x.1, hasFreeSlot (x.2.port x.1))) = some (1, false) ∧
    (chooseRead (failed { e with tried := 3#4 } duo) { e with tried := 3#4 }).isNone = true ∧
    (findEntry (withTable [{ e with state := .orphaned }] duo) 7).map (·.state) = some .orphaned := by decide +kernel

/-- A failed read of M2, a copy being rebuilt by now, whose job waits; and one freed of a RETIRING region with another
entry. -/
theorem witness_FailedReadOutcome_rejoining :
    let e : Entry := { entry 7 .read line1 1 .issued 4#4 with tried := 4#4 }
    let p : Part := { withTable [e, entry 8 .read 0x40000040#40 1 .issued 1#4]
      (duo.setRegion 1 { duo.region 1 with state := .retiring }) with
        jobs := [{ kind := .catchUp 1, started := true }, { kind := .catchUp 2, started := false }] }
    mstate p 1 2 = some .rejoining ∧ reportWaits p 1 2 ∧ drainsNothing p e ∧
    (chooseRead (reportTaken 1 2 .media (some line1) (updateEntry 7 (recordFail 2 .media) p)) e).map (·.1) = some 0 := by
  decide +kernel

/-- A failed write of M1 with another outcome outstanding, and as the last one; a failed write of M2, a copy being rebuilt,
with its job running alone and with its job waiting. -/
theorem witness_FailedWriteOutcome :
    (let e := { entry 31 aWrite line1 1 .issued 3#4 with counted := 3#4, inServiceAtPlacement := 3#4 }
     let p := handing 1 (.host 31) (.failed .timeout) (withTable [e] duo)
     p.porst = false ∧ findEntry p 31 = some e ∧ (p.region 1).mode = .mirror ∧ reportWaits p 1 1 ∧
     portSubset e.target (e.ack ||| addPort e.fail 1) = false ∧
     portSubset e.target (1#4 ||| addPort e.fail 1) = true ∧ freesQuietly p e) ∧
    (let e := entry 31 aWrite line1 1 .issued 7#4
     let p := handing 2 (.host 31) .error (withTable [e] duo)
     let alone : List Job := [{ kind := .catchUp 2, started := true }]
     let behind : Part := { p with jobs := [{ kind := .catchUp 1, started := true }, { kind := .catchUp 2, started := false }] }
     mstate p 1 2 = some .rejoining ∧ (p.region 1).state = .live ∧ (∀ x ∈ p.table, x.line = line1 → x.tag = 31) ∧ listSound (p.divList 2) ∧ claimHoldsNone p ∧
     alone.filter (fun j => !isCatchUp 2 j) = [] ∧ headHeld behind ∧
     ∀ j ∈ behind.jobs, isCatchUp 2 j = true → j.started = false) := by decide +kernel

/-- The last entry of a RETIRING region: a DIRECT read with its data, and a failed MIRROR write. -/
theorem witness_FreeingDrainsAndHandsOn_drain :
    (let e := entry 7 .read line0 0 .issued 1#4
     let p := handing 0 (.host 7) (.ok (some 5#512))
       (withTable [e] (duo.setRegion 0 { duo.region 0 with state := .retiring }))
     p.porst = false ∧ takeFirst (fun h => h.port == 0 && isHost h.origin) p.handed =
       some ({ port := 0, origin := .host 7, result := .ok (some 5#512) }, []) ∧ findEntry p 7 = some e ∧ tagsDistinct p ∧
     reportWaits p 0 0 ∧ finalStatus { p with handed := [] } e 0 (.ok (some 5#512)) = some .ok ∧
     (p.region 0).state = .retiring ∧ (p.region 0).inFlight = 1 ∧ windowOn p 0 = false ∧
     (∀ x ∈ p.table, x.line = line0 → x.tag = 7) ∧ nothingStarts p) ∧
    (let e := { entry 31 aWrite line1 1 .orphaned 3#4 with ack := 1#4, counted := 3#4, inServiceAtPlacement := 3#4 }
     let p := handing 1 (.host 31) .error (withTable [e] (duo.setRegion 1 { duo.region 1 with state := .retiring }))
     findEntry p 31 = some e ∧ (p.region 1).mode = .mirror ∧ portSubset e.target (e.ack ||| addPort e.fail 1) = true ∧
     (p.region 1).inFlight = 1 ∧
     nothingStarts (insertedIfOut e 1 (reportTaken 1 1 .media (some line1) (updateEntry 31 (recordFail 1 .media) p)))) := by
  decide +kernel

/-- An entry that waits behind a finished one: a DIRECT read with its port up and down, a MIRROR read with and without a copy
to read, and a MIRROR write with its three copies up. -/
theorem witness_FreeingDrainsAndHandsOn_handOn :
    (let e := entry 7 .read line0 0 .issued 1#4
     let e2 := newEntry 9 .read line0 0
     let p := handing 0 (.host 7) (.ok (some 5#512)) (withTable [e, e2] duo)
     drainsNothing p e ∧ (p.table.filter (fun x => x.tag != 7)).find? (fun x => x.line == e.line) = some e2 ∧
     e2.state = .waitingLine ∧ p.lineClaim ≠ some e.line ∧ (duo.region 0).members = [{ port := 0, base := 0, state := none }] ∧
     portDown p 0 = false ∧ portDown (p.setPort 0 (linked .off)) 0 = true ∧ freesQuietly (p.finished e .ok none) e2) ∧
    (let p := (withTable [entry 7 .read line1 1 .issued 1#4, newEntry 9 .read line1 1] duo).finished
       (entry 7 .read line1 1 .issued 1#4) .ok none
     (chooseRead p (newEntry 9 .read line1 1)).map (·.1) = some 0 ∧
     (chooseRead { p with ports := (allLinks .off).ports } (newEntry 9 .read line1 1)).isNone = true ∧
     (newEntry 9 aWrite line1 1).kind = .write ∧
     (∀ q, hasPort 7#4 q = true ↔ mstate p 1 q = some .inService ∨ mstate p 1 q = some .rejoining) ∧
     ∀ q, hasPort 7#4 q = true → portDown p q = false) := by decide +kernel

/-- A copy beside another, a last replica, a copy being rebuilt, a copy out of service, and a job that waits. -/
theorem witness_FailureReports :
    (mstate duo 1 0 = some .inService ∧ ∃ q', q' ≠ 0 ∧ mstate duo 1 q' = some .inService) ∧
    (let p := duo.setRegion 1 (trio .inService .faulted .rejoining)
     mstate p 1 0 = some .inService ∧ ∀ q', q' ≠ 0 → mstate p 1 q' ≠ some .inService) ∧
    mstate duo 1 2 = some .rejoining ∧ mstate duo 1 3 ≠ some .inService ∧ mstate duo 1 3 ≠ some .rejoining ∧
    (∀ r, mstate duo r 1 ≠ some .rejoining) ∧
    (let p : Part := { duo with jobs := [{ kind := .catchUp 1, started := true }, { kind := .catchUp 2, started := false }] }
     reportWaits p 1 2 ∧ headHeld p ∧ (∀ j ∈ p.jobs, isCatchUp 2 j = true → j.started = false) ∧
     p.jobs.any (isCatchUp 2) = true) := by
  decide +kernel

/-- Two RETIRING regions drained by a host reset, region 1 by its last freed entry before region 0; and one that an ISSUED
entry keeps. -/
theorem witness_HostReset_drained :
    (let p := withTable [newEntry 1 .read line0 0, entry 2 .read line1 1 .waitingSlot 1#4, newEntry 3 .read 64#40 0]
       ((duo.setRegion 0 { duo.region 0 with state := .retiring }).setRegion 1 { duo.region 1 with state := .retiring })
     tagsDistinct p ∧ inFlightExact p ∧ nothingStarts p ∧ drainedByReset p = [1, 0]) ∧
    (let p := withTable [newEntry 1 .read line0 0, entry 3 .read 64#40 0 .issued 1#4]
       (duo.setRegion 0 { duo.region 0 with state := .retiring })
     tagsDistinct p ∧ inFlightExact p ∧ nothingStarts p ∧ drainedByReset p = []) := by decide +kernel

/-- Entries waiting and issued, none of a RETIRING region; HRST_N held; PORST_N asserted. -/
theorem witness_HostReset :
    (let p := withTable [entry 1 .read line0 0 .waitingLine 0#4, entry 2 .read line1 1 .issued 1#4] duo
     p.porst = false ∧ p.hrst = false ∧ tagsDistinct p ∧
     ∀ e ∈ p.table, unplaced e = true → (p.region e.region).state ≠ .retiring) ∧
    ({ duo with hrst := true } : Part).hrst = true ∧
    (after .porstNAssert duo).porst = true ∧ (after .porstNAssert duo).hrst = false := by decide +kernel

theorem witness_UpReadyAndIdleRows :
    (let p := withTable [entry 1 .read line0 0 .issued 1#4] duo
     tagsDistinct p ∧ ∀ e ∈ p.table, e.tag ≠ 31) ∧
    upReady (withTable [entry 1 .read line0 0 .orphaned 1#4] duo) = false ∧ upReady { duo with hrst := true } = false ∧
    portDown (allLinks .off) 0 = true ∧ slotFree { linked .active with held := [(15, 7)] } 15 = false ∧
    presented duo 0 = none ∧ copyClaimAt duo 0 = none ∧ duo.handed = [] ∧ duo.lossClaims = [] ∧
    (after .porstNAssert duo).porst = true := by decide +kernel

/-- Slot 15 of a DROWSY port, for a READ and for a DIRECT write. -/
theorem witness_GrantPlacesSingleTarget :
    (let e := entry 7 .read line0 0 .waitingSlot 1#4
     let p := withTable [e] (duo.setPort 0 (linked .drowsy))
     p.porst = false ∧ portDown p 0 = false ∧ slotFree (p.port 0) 15 = true ∧ presented p 0 = some e ∧
     grantsToEngine p 0 = false) ∧
    (let e := entry 7 aWrite line0 0 .waitingSlot 1#4
     let p := withTable [e] duo
     presented p 0 = some e ∧ grantsToEngine p 0 = false ∧ (p.region e.region).mode = .direct) := by decide +kernel

theorem witness_GrantHoldsSlotForMirrorWrite :
    let e := entry 7 aWrite line1 1 .waitingSlot 7#4
    let p := withTable [e] duo
    p.porst = false ∧ portDown p 2 = false ∧ slotFree (p.port 2) 0 = true ∧ presented p 2 = some e ∧
    grantsToEngine p 2 = false ∧ tagsDistinct p ∧ e.kind = .write ∧ (p.region e.region).mode = .mirror ∧
    addPort (heldSet p e.tag) 2 ≠ e.target := by decide +kernel

theorem witness_GrantPlacesMirrorWriteEverywhere :
    let e := entry 7 aWrite line1 1 .waitingSlot 7#4
    let p := (withTable [e] duo).setPort 0 { linked .active with held := [(15, 7)] }
    let p := p.setPort 1 { linked .active with held := [(0, 7)] }
    p.porst = false ∧ portDown p 2 = false ∧ slotFree (p.port 2) 3 = true ∧ presented p 2 = some e ∧
    grantsToEngine p 2 = false ∧ tagsDistinct p ∧ heldTagsDistinct p ∧ e.kind = .write ∧ (p.region e.region).mode = .mirror ∧
    addPort (heldSet p e.tag) 2 = e.target := by decide +kernel

/-- The grant at a DROWSY M1 of the last slot of a write that leaves M0 out, a copy that another has joined in service, with M3's
membership absent: M0 is ejected and its full list coalesces. -/
theorem witness_GrantPlacesMirrorWriteEverywhere_records :
    let e := entry 7 aWrite line1 1 .waitingSlot 2#4
    let l : List Run := (List.range 64).map (fun n => { region := 1, first := 2 * n + 2, count := 1 })
    let p := ((withTable [e] (duo.setPort 1 (linked .drowsy))).setDivList 0 l)
    let t := after (.grant 1 9) p
    presented p 1 = some e ∧ tagsDistinct p ∧ heldTagsDistinct p ∧ addPort (heldSet p 7) 1 = e.target ∧
    leavesService p 1 (fun x => !hasPort e.target x) 0 ∧ mstate t 1 0 = some .faulted ∧
    placementRecords e p t =
      [{ kind := .memberEjected, port := some 0, region := some 1, detail := reasonCode .link },
       { kind := .divergenceCoalesced, port := some 0, region := some 1, detail := 1, addr := .extent 3 }] ∧
    t.events.queue.map (·.body) = placementRecords e p t ∧ t.trace = [.wakeUp 1] := by decide +kernel

/-- A catch-up window of M2 with its read claimed at M0. -/
def catchUp : Window where
  job := .catchUp 2
  region := 1
  extent := 5
  lineNo := 1022
  addr := lineAddr (trio .inService .inService .rejoining) 5 1022
  source := 1#4
  phase := .claiming
  overtake := 0
  cancelled := false
  reread := false
  data := []
  claims := [{ port := 0, part := .sourceRead, op := .read, addr := 0#38 }]

/-- The engine alone, and the engine passed over as often as the weight says while the dispatcher waits too. -/
theorem witness_GrantToCopyEngine :
    (let p := { duo with window := some catchUp }
     p.porst = false ∧ portDown p 0 = false ∧ slotFree (p.port 0) 0 = true ∧ (copyClaimAt p 0).isSome = true ∧
     presented p 0 = none) ∧
    (let p := { (withTable [entry 7 .read line0 0 .waitingSlot 1#4] duo).setPort 0 { linked .active with passOver := 4 }
                with window := some catchUp }
     (copyClaimAt p 0).isSome = true ∧ presented p 0 ≠ none ∧ (p.port 0).weight ≤ (p.port 0).passOver) := by
  decide +kernel

/-- The last outcome of a write, OK, at M2, a copy being rebuilt whose job runs with its window on region 0: the last entry of
a RETIRING region; and one with a read behind it. -/
theorem witness_FreeingDrainsAndHandsOn_rejoining :
    let e := { entry 31 aWrite line1 1 .issued 7#4 with ack := 3#4, counted := 3#4, inServiceAtPlacement := 3#4 }
    let e2 := newEntry 9 .read line1 1
    let working : List Entry → Part → Part := fun es p =>
      { handing 2 (.host 31) (.ok none) (withTable es p) with
        jobs := [{ kind := .catchUp 2, started := true }], window := some { catchUp with region := 0 } }
    (let p := working [e] (duo.setRegion 1 { trio .inService .inService .rejoining with state := .retiring })
     mstate p 1 2 = some .rejoining ∧ ¬ reportWaits p 1 2 ∧ finalStatus { p with handed := [] } e 2 (.ok none) = some .ok ∧
     (p.region 1).state = .retiring ∧ (p.region 1).inFlight = 1 ∧ windowOn p 1 = false ∧ nothingStarts p) ∧
    (let p := working [e, e2] duo
     drainsNothing p e ∧ (p.table.filter (fun x => x.tag != 31)).find? (fun x => x.line == e.line) = some e2 ∧
     p.lineClaim ≠ some e.line ∧ (chooseRead (p.finished e .ok none) e2).map (·.1) = some 0) := by decide +kernel

/-- A transaction in a slot. -/
def queued (k : SlotIx) (o : Origin) (op : Op) (sent : Option Nat) : QEntry where
  slot := k
  origin := o
  op := op
  addr := 0#38
  sentAt := sent

theorem witness_ReadyReportsAndLinkErrors_ready :
    duo.porst = false ∧ ((allLinks .training).port 0).link = .training ∧ ((allLinks .waking).port 3).link = .waking ∧
    ((allLinks .active).port 1).link ≠ .training ∧ ((allLinks .active).port 1).link ≠ .waking := by decide +kernel

/-- A timer that runs and one that does not, of each kind; the longest silence time, and response settings 5 and 0. -/
theorem witness_TimerExpiries :
    (let x := { linked .active with silence := 4, silenceSince := some 0 }
     x.silenceSince = some 0 ∧ silenceMicros x.silence = some 1000000) ∧ (duo.port 0).silenceSince = none ∧
    (((allLinks .training).port 0).link = .training ∧ ((allLinks .training).port 0).trainingSince = some 0) ∧
    (((allLinks .waking).port 0).link = .waking ∧ ((allLinks .waking).port 0).wakeSince = some 0) ∧
    (duo.port 0).trainingSince = none ∧ (duo.port 0).wakeSince = none ∧
    (let x := { linked .active with queue := [queued 15 (.host 7) .read (some 9)], timeoutIx := 5 }
     x.link = .active ∧ oldestSent x = some (queued 15 (.host 7) .read (some 9)) ∧
     timeoutMicros x.timeoutIx = some 80000) ∧
    timeoutMicros ({ linked .active with timeoutIx := 0 } : PortState).timeoutIx = none ∧
    ((allLinks .waking).port 0).link ≠ .active ∧ oldestSent (duo.port 0) = none := by decide +kernel

theorem witness_ReadyReportsAndLinkErrors_error :
    duo.porst = false ∧ (duo.port 0).link = .active ∧ ((allLinks .drowsy).port 0).link = .drowsy := by decide +kernel

/-- A response that fits, one of the wrong form, one to a slot with nothing sent, and a link that is not ACTIVE. -/
theorem witness_DeviceResponseByForm :
    (let x := { linked .active with queue := [queued 15 (.host 7) .read (some 9)] }
     x.link = .active ∧ x.queue.find? (fun y => y.slot == 15 && y.sentAt.isSome) =
       some (queued 15 (.host 7) .read (some 9)) ∧
     responseResult .read (.okData 5#512) = some (.ok (some 5#512)) ∧ responseResult .read .ok = none ∧
     ∀ y ∈ x.queue, y.slot = 0 → y.sentAt = none) ∧ ((allLinks .waking).port 0).link ≠ .active := by decide +kernel

/-- A DIRECT read that waits, and a MIRROR read with another copy to read and with none. -/
theorem witness_LinkLossEndsWaits_read :
    (let e := entry 7 .read line0 0 .waitingSlot 1#4
     soleWaiter (withTable [e] duo) e 0 ∧ (duo.region 0).mode = .direct ∧ (duo.region 0).state = .live) ∧
    (let e : Entry := { entry 7 .read line1 1 .waitingSlot 1#4 with tried := 1#4 }
     let lost (e : Entry) : Part := reportTaken 1 0 .link (some line1)
       (updateEntry 7 (fun x => { x with target := 0#4, reasons := withReason 0 .link x.reasons })
         (dropLink 0 .failed .link (withTable [e] duo)))
     soleWaiter (withTable [e] duo) e 0 ∧ reportWaits duo 1 0 ∧ drainsNothing duo e ∧
     (chooseRead (lost e) e).map (fun x => (x.1, hasFreeSlot (x.2.port x.1))) = some (1, true) ∧
     (chooseRead (lost { e with tried := 3#4 }) { e with tried := 3#4 }).isNone = true) := by
  unfold soleWaiter; exact ⟨by decide +kernel, by decide +kernel, by decide +kernel, by decide +kernel, by decide +kernel⟩

/-- A MIRROR write that loses its only target, one of two with the other slot missing, and one of two with the other slot
held. -/
theorem witness_LinkLossEndsWaits_write :
    (let e := entry 7 aWrite line1 1 .waitingSlot 1#4
     soleWaiter (withTable [e] duo) e 0 ∧ dropPort e.target 0 = 0#4) ∧
    (let e := entry 7 aWrite line1 1 .waitingSlot 3#4
     soleWaiter (withTable [e] duo) e 0 ∧ dropPort e.target 0 = 2#4 ∧ heldSet (withTable [e] duo) 7 = 0#4) ∧
    (let e := entry 7 aWrite line1 1 .waitingSlot 3#4
     let p := (withTable [e] duo).setPort 1 { linked .active with held := [(15, 7)] }
     soleWaiter p e 0 ∧ heldSet p 7 = 2#4 ∧ p.window = none) := by
  unfold soleWaiter; exact ⟨by decide +kernel, by decide +kernel, by decide +kernel⟩

/-- Two DIRECT requests that wait at M0, and the links that are lost. -/
theorem witness_LinkLossEndsWaits_direct :
    let p := withTable [entry 7 .read line0 0 .waitingSlot 1#4, entry 8 aWrite 64#40 0 .waitingSlot 1#4,
                        entry 9 .read line1 1 .waitingSlot 2#4] duo
    tagsDistinct p ∧ copyClaimAt p 0 = none ∧
    (∀ e ∈ p.table, (∀ x ∈ p.table, x.line = e.line → x.tag = e.tag) ∧ (e.state = .waitingSlot →
      (∀ q', hasPort e.target q' = true → q' = 0 ∨ portDown p q' = false) ∧ (hasPort e.target 0 = true →
        (p.region e.region).mode = .direct ∧ (p.region e.region).state = .live))) ∧
    takesCommand (at' duo) 0#8 ∧ servesDirect duo 3 = false ∧ holdsLastReplica duo 3 = false ∧
    (duo.port 3).link ≠ .off := by decide +kernel

/-- A claim for M1 behind one for M0; M1 has no REJOINING copy, M2 has. -/
theorem witness_LinkLossClaimTaken :
    let p := { duo with lossClaims := [(0, .link), (1, .timeout), (2, .link)] }
    p.porst = false ∧
    takeFirst (fun c => c.1 == 1) p.lossClaims = some ((1, .timeout), [(0, .link), (2, .link)]) ∧
    (∀ r, mstate p r 1 ≠ some .rejoining) ∧
    takeFirst (fun c => c.1 == 2) p.lossClaims = some ((2, .link), [(0, .link), (1, .timeout)]) := by decide +kernel

/-- A catch-up window of M2 on extent 5 of region 1, at a line of it, in a phase. -/
def reading (k : Nat) (ph : Phase) : Window :=
  { catchUp with lineNo := k, addr := lineAddr (trio .inService .inService .rejoining) 5 k, phase := ph, claims := [] }

/-- The source's data; data to be read again, and data of a source that has left service; a copy write of line 1022, and the
data of a cancelled line. -/
theorem witness_CatchUpLineProgress :
    (let p := handing 0 (.copy .sourceRead) (.ok (some 5#512)) { duo with window := some (reading 1022 .reading) }
     p.porst = false ∧ takeFirst (fun h => h.port == 0 && isCopy h.origin) p.handed =
       some ({ port := 0, origin := .copy .sourceRead, result := .ok (some 5#512) }, []) ∧
     mstate p 1 0 = some .inService ∧ portDown p 2 = false ∧
     (reading 1022 .reading).addr = lineAddr (p.region 1) 5 1022 ∧ balance p (usableSources p 2 1) = some 0) ∧
    mstate (duo.setRegion 1 (trio .faulted .inService .rejoining)) 1 0 ≠ some .inService ∧
    ({ reading 0 .reading with reread := true } : Window).reread = true ∧
    (let p := handing 2 (.copy .targetWrite) (.ok none) { duo with window := some (reading 1022 .writing) }
     takeFirst (fun h => h.port == 2 && isCopy h.origin) p.handed =
       some ({ port := 2, origin := .copy .targetWrite, result := .ok none }, []) ∧
     claimHoldsNone p ∧ (reading 1022 .writing).lineNo + 1 < 1024 ∧ (p.region 1).state = .live ∧
     balance p (usableSources p 2 1) = some 0) := by decide +kernel

/-- A job for M2 that runs alone. -/
def rebuilding (w : Window) (p : Part) : Part :=
  { p with window := some w, jobs := [{ kind := .catchUp 2, started := true }] }

/-- Line 1,023 done with another run in the list, and with none; a failed source read that is the last replica, and one that
leaves another source; a failed copy write; and a CLOSING window with and without an outcome outstanding. -/
theorem witness_CatchUpLineEnds :
    (let p := (rebuilding (reading 1023 .writing) duo).setDivList 2
       [{ region := 1, first := 5, count := 1 }, { region := 1, first := 9, count := 2 }]
     let p1 := { removeExtent 2 1 5 p with lineClaim := none }
     claimHoldsNone p ∧ (p.region 1).state = .live ∧ selectRun p1 2 = some { region := 1, first := 9, count := 2 } ∧
     balance p (usableSources p 2 1) = some 0) ∧
    (let p := (rebuilding (reading 1023 .writing) duo).setDivList 2 [{ region := 1, first := 5, count := 1 }]
     let p1 := { removeExtent 2 1 5 p with lineClaim := none }
     selectRun p1 2 = none ∧ copyInFlight p = 0 ∧ mstate p 1 2 = some .rejoining ∧ hasRunOf p1 2 1 = false) ∧
    (let p := rebuilding (reading 7 .reading) (duo.setRegion 1 (trio .inService .faulted .rejoining))
     reportWaits p 1 0 ∧ mstate (reportTaken 1 0 .media (some line1) p) 1 0 = some .inService) ∧
    (let p := rebuilding (reading 7 .reading) duo
     let p1 := reportTaken 1 0 .media (some line1) p
     reportWaits p 1 0 ∧ mstate p1 1 0 ≠ some .inService ∧ balance p1 (usableSources p1 2 1) = some 1 ∧
     mstate p 1 2 = some .rejoining ∧ copyInFlight p = 0) ∧
    (let w := reading 7 .closing
     w.phase = .closing ∧ copyInFlight { duo with window := some w } = 0 ∧ duo.jobs = [] ∧
     copyInFlight (handing 2 (.copy .targetWrite) (.ok none) { duo with window := some w }) ≠ 0 ∧
     (duo.region 1).state ≠ .retiring ∧ ((duo.setRegion 1 { duo.region 1 with state := .retiring }).region 1).inFlight = 0) :=
  by decide +kernel

/-- A line short of 1,023 done in a RETIRING region that the window alone keeps, with a run of a LIVE region to go on to and with
none; and the same with an entry left in the region, by a failed read of a cancelled line. -/
theorem witness_CatchUpLineEnds_skip :
    (let l : List Run := [{ region := 1, first := 5, count := 2 }, { region := 2, first := 0, count := 1 }]
     let p := (duo.setRegion 1 { trio .inService .inService .rejoining with state := .retiring })
     let p := (rebuilding (reading 7 .writing) p).setRegion 2 { trio .inService .inService .rejoining with base := 128 }
     let p := p.setDivList 2 l
     (reading 7 .writing).lineNo < 1023 ∧ (p.region 1).state = .retiring ∧ (p.region 1).inFlight = 0 ∧
     selectRun p 2 = some { region := 2, first := 0, count := 1 } ∧ balance p (usableSources p 2 2) = some 0 ∧
     (let t := after (.copyOutcome 2) (handing 2 (.copy .targetWrite) (.ok none) p)
      t.window.map (·.region) = some 2 ∧ (t.region 1).state = .free ∧ t.divList 2 = [{ region := 2, first := 0, count := 1 }])) ∧
    (let p := (duo.setRegion 1 { trio .inService .inService .rejoining with state := .retiring })
     let p := (rebuilding (reading 7 .writing) p).setDivList 2 [{ region := 1, first := 5, count := 2 }]
     selectRun p 2 = none ∧ copyInFlight p = 0 ∧ hasRunOf p 2 1 = true) ∧
    (let w := { reading 7 .reading with cancelled := true }
     let p := (rebuilding w (duo.setRegion 1 { trio .inService .inService .rejoining with state := .retiring, inFlight := 1 }))
     let p := p.setDivList 2 [{ region := 1, first := 5, count := 2 }]
     reportWaits p 1 0 ∧ selectRun (reportTaken 1 0 .media (some w.addr) p) 2 = none ∧
     (let t := after (.copyOutcome 0) (handing 0 (.copy .sourceRead) .error p)
      t.window = none ∧ t.divList 2 = p.divList 2 ∧ mstate t 1 2 = some .detached)) := by decide +kernel

/-- The removal of a first extent from runs of two and of one, and of an extent that is no first one; and a selection that
passes over a run of a RETIRING region. -/
theorem witness_CatchUpLineEnds_lists :
    (let l : List Run := [{ region := 0, first := 4, count := 1 }, { region := 1, first := 5, count := 2 }]
     let p := duo.setDivList 2 l
     listSound l ∧ (removeExtent 2 1 5 p).divList 2 = [{ region := 0, first := 4, count := 1 }, { region := 1, first := 6, count := 1 }] ∧
     (removeExtent 2 0 4 p).divList 2 = [{ region := 1, first := 5, count := 2 }] ∧
     (∀ x ∈ p.divList 2, x.region = 1 → x.first ≠ 6) ∧ removeExtent 2 1 6 p = p) ∧
    (let p := (duo.setRegion 0 { trio .inService .inService .rejoining with state := .retiring }).setDivList 2
       [{ region := 0, first := 4, count := 1 }, { region := 1, first := 5, count := 2 }]
     selectRun p 2 = some { region := 1, first := 5, count := 2 } ∧ selectRun p 0 = none) := by decide +kernel

/-- A notice that brings the overtake count to 8, and one that finds it there; and a line claim with a read that waits
behind it. -/
theorem witness_LineClaimAndNotices :
    ((taskNotice (reading 3 .reading).addr false { duo with window := some { reading 3 .reading with overtake := 7 } }).1.lineClaim =
       some (reading 3 .reading).addr) ∧
    ((taskNotice (reading 3 .reading).addr false { duo with window := some { reading 3 .reading with overtake := 8 } }).1.lineClaim =
       none) ∧
    (let w := { reading 3 .writing with overtake := 8 }
     let e := entry 7 .read w.addr 1 .waitingLine 0#4
     let p := { handing 2 (.copy .targetWrite) (.ok none) (withTable [e] duo) with window := some w, lineClaim := some w.addr }
     p.porst = false ∧ takeFirst (fun h => h.port == 2 && isCopy h.origin) p.handed =
       some ({ port := 2, origin := .copy .targetWrite, result := .ok none }, []) ∧
     (p.region 1).state = .live ∧ balance p (usableSources p 2 1) = some 0 ∧
     p.table.find? (fun x => x.line == w.addr) = some e ∧ (p.region 1).mode = .mirror ∧ tagsDistinct p ∧
     (chooseRead p e).map (·.1) = some 0 ∧ hasFreeSlot (p.port 0) = true) := by decide +kernel

/-- A compare window of region 1 that reads M0 and M1. -/
def comparing : Window :=
  { catchUp with job := .compare, source := 3#4, phase := .reading, claims := [], data := [(0, 4#512)] }

/-- The running compare job of that window. -/
def compareHead : CompareJob where
  region := 1
  first := 5
  count := 1
  nextExtent := 5
  nextLine := 1022
  compared := 4294967295
  mismatches := 65535

/-- A read still claimed at M2, and the last read with data that differ. -/
theorem witness_CompareLineResult :
    ({ comparing with claims := catchUp.claims } : Window).claims ≠ [] ∧
    (let p := handing 1 (.copy .compareRead) (.ok (some 5#512))
       { duo with window := some comparing, jobs := [{ kind := .compare compareHead, started := true }] }
     let w' := { comparing with data := comparing.data ++ [(1, 5#512)] }
     p.porst = false ∧ takeFirst (fun h => h.port == 1 && isCopy h.origin) p.handed =
       some ({ port := 1, origin := .copy .compareRead, result := .ok (some 5#512) }, []) ∧
     copyInFlight { p with handed := [] } = 0 ∧ claimHoldsNone p ∧ runningCompare p = some compareHead ∧
     (portsOf comparing.source).filter (fun x => mstate p 1 x == some .inService) = [0, 1] ∧
     (∀ x, hasPort 2#4 x = true ↔ x ∈ ([1] : List Port) ∧ dataOf w' x ≠ dataOf w' 0) ∧
     compareHead.nextLine + 1 < 1024 ∧ compareHead.nextExtent < compareHead.first + compareHead.count ∧
     2 ≤ (readablePorts p 1).length) := by decide +kernel

/-- The last read of line 1,022, of line 1,023 of an extent and of the range, with data that differ and that agree; a
re-read; one copy left; and a failed read, with another outstanding and as the last. -/
theorem witness_CompareLineEnds :
    (let c := { compareHead with count := 2, nextLine := 1023 }
     let p (c : CompareJob) : Part := handing 1 (.copy .compareRead) (.ok (some 5#512))
       { duo with window := some { comparing with lineNo := c.nextLine }, jobs := [{ kind := .compare c, started := true }] }
     (p c).porst = false ∧ takeFirst (fun h => h.port == 1 && isCopy h.origin) (p c).handed =
       some ({ port := 1, origin := .copy .compareRead, result := .ok (some 5#512) }, []) ∧
     runningCompare (p c) = some c ∧ c.region = comparing.region ∧ copyInFlight { p c with handed := [] } = 0 ∧
     claimHoldsNone (p c) ∧
     (portsOf comparing.source).filter (fun x => mstate (p c) 1 x == some .inService) = [0, 1] ∧
     c.nextExtent + 1 < c.first + c.count ∧ 2 ≤ (readablePorts (p c) 1).length ∧
     compareHead.nextExtent + 1 = compareHead.first + compareHead.count ∧
     comparing.extent = compareHead.nextExtent ∧ comparing.lineNo = compareHead.nextLine ∧
     (p c).jobs.tail = [] ∧ ((p c).region 1).state ≠ .retiring) ∧
    (let p := duo.setRegion 1 (trio .inService .faulted .rejoining)
     ((portsOf comparing.source).filter (fun x => mstate p 1 x == some .inService)).length < 2 ∧
     (readablePorts p 1).length < 2) ∧
    (let p : Part := { duo.setRegion 1 (trio .inService .inService .inService) with
       jobs := [{ kind := .compare compareHead, started := true }] }
     let p1 := reportTaken 1 2 .media (some line1) { p with window := some { comparing with reread := true } }
     reportWaits p 1 2 ∧ 2 ≤ (readablePorts p1 1).length ∧ copyInFlight p = 0 ∧
     copyInFlight (handing 0 (.copy .compareRead) .error p) ≠ 0) := by decide +kernel

/-- A source read claimed at M0 with another source and as last replica, a copy write claimed at M2, a compare read alone and
beside another, and a copy write to be claimed at a port that is down. -/
theorem witness_EngineClaimEnds :
    (let p := rebuilding catchUp duo
     let p1 := reportTaken 1 0 .link (some catchUp.addr)
       { dropLink 0 .failed .link p with window := some { catchUp with claims := [] } }
     copyClaimAt p 0 = catchUp.claims.head? ∧ claimHoldsNone p ∧
     (∀ e ∈ p.table, e.state = .waitingSlot → ∀ q', hasPort e.target q' = true → q' ≠ 0 ∧ portDown p q' = false) ∧
     reportWaits p 1 0 ∧ mstate p1 1 0 ≠ some .inService ∧
     catchUp.addr = lineAddr (p.region 1) catchUp.extent catchUp.lineNo ∧ balance p1 (usableSources p1 2 1) = some 1 ∧
     copyInFlight p = 0 ∧ (p.region 1).state = .live) ∧
    mstate (reportTaken 1 0 .link (some line1) (duo.setRegion 1 (trio .inService .faulted .rejoining))) 1 0 = some .inService ∧
    (let c : Claim := { port := 2, part := .targetWrite, op := .write (BitVec.allOnes 64) 5#512, addr := 0#38 }
     let p := rebuilding { reading 7 .reading with claims := [c] } duo
     copyClaimAt p 2 = some c ∧ mstate p 1 2 = some .rejoining ∧ copyInFlight p = 0) ∧
    (let c (q : Port) : Claim := { port := q, part := .compareRead, op := .read, addr := 0#38 }
     let p (q : Port) : Part := { duo with window := some { comparing with claims := [c 0, c q] },
                                           jobs := [{ kind := .compare compareHead, started := true }] }
     copyClaimAt (p 1) 0 = some (c 0) ∧ [c 0, c 1].filter (fun x => x.port != 0) ≠ [] ∧
     [c 0].filter (fun x => x.port != 0) = [] ∧ runningCompare (p 0) = some compareHead ∧ reportWaits (p 0) 1 0) ∧
    (let p := rebuilding (reading 7 .reading) (duo.setPort 2 (linked .failed))
     mstate p 1 0 = some .inService ∧ portDown p 2 = true ∧ mstate p 1 2 = some .rejoining ∧ copyInFlight p = 0 ∧
     claimHoldsNone p ∧ (p.region 1).state = .live) := by decide +kernel

/-- Every key of BALANCE, a preferred port that is eligible and one that is not, and the wrap of the pointer. -/
theorem witness_PoliciesPick :
    balance (duo.setPort 0 (linked .drowsy)) [0, 1, 2] = some 1 ∧ balance duo [2, 1] = some 1 ∧ balance duo [] = none ∧
    balance (duo.setPort 1 { linked .active with held := [(0, 7)] }) [1, 2] = some 2 ∧
    (let r := { duo.region 1 with policy := .preferred, preferred := some 2 }
     policyChoice duo r [0, 2] = some 2 ∧ policyChoice duo r [0, 1] = some 0) ∧
    (let r := { duo.region 1 with policy := .alternate, alternate := some 2 }
     policyChoice duo r [0, 1, 2] = some 0 ∧ policyChoice duo r [2] = some 2 ∧
     policyChoice duo { r with alternate := none } [1, 2] = some 1) := by decide +kernel

/-- Sixty-four runs of region 1, at every fourth extent from 0, of one extent but for the eighth, which leaves a gap of
two. -/
def fullList : List Run :=
  (List.range 64).map (fun n => { region := 1, first := 4 * n, count := if n = 7 then 2 else 1 })

/-- A range covered, one that touches a run, one with room, and one that stands apart at a full list, where the eighth run
and the ninth are joined. -/
theorem witness_InsertionAndCoalescing :
    (let l : List Run := [{ region := 1, first := 10, count := 2 }]
     listSound l ∧ (∃ y ∈ l, y.region = 1 ∧ y.first ≤ 11 ∧ 12 ≤ y.stop) ∧ (∃ y ∈ l, y.region = 1 ∧ y.first ≤ 13 ∧ 12 ≤ y.stop) ∧
     l.length < 64) ∧
    (let x : Run := { region := 1, first := 258, count := 1 }
     listSound fullList ∧ 64 ≤ fullList.length ∧
     (∀ y ∈ fullList, ¬ (y.region = x.region ∧ y.first ≤ x.stop ∧ x.first ≤ y.stop)) ∧
     bestPair fullList = some ({ region := 1, first := 28, count := 2 }, { region := 1, first := 32, count := 1 }) ∧
     fullList = fullList.take 7 ++ { region := 1, first := 28, count := 2 } :: { region := 1, first := 32, count := 1 } ::
       fullList.drop 9) := by decide +kernel

/-- A receiver in each state, a full buffer and one with room for a last byte. -/
theorem witness_ReceiverTable :
    duo.mgmt.rx = .hunting ∧ (setRx .inFrame [] duo).mgmt.rx = .inFrame ∧ (setRx .escaped [] duo).mgmt.rx = .escaped ∧
    (setRx .inFrame (List.replicate 205 0#8) duo).mgmt.buffer.length < 206 ∧
    ¬ (setRx .inFrame (List.replicate 206 0#8) duo).mgmt.buffer.length < 206 := by decide +kernel

/-- Bodies of 5 and 6 bytes, with a bad and a good check, a wrong key, a full reply queue and a cached sequence. -/
theorem witness_FrameTaking :
    (setRx .inFrame [1#8, 2#8, 3#8, 4#8, 5#8] duo).mgmt.buffer.length < 6 ∧
    6 ≤ [0x5C#8, 1#8, 1#8, 0#8, 0#8, 0#8].length ∧ checkPasses [0x5C#8, 1#8, 1#8, 0#8, 0#8, 0#8] = false ∧
    6 ≤ (frameBody 0x5D#8 1#8 1#8 []).length ∧ checkPasses (frameBody 0x5D#8 1#8 1#8 []) = true ∧
    byteAt (frameBody 0x5D#8 1#8 1#8 []) 0 ≠ duo.mgmt.key ∧
    byteAt (frameBody 0x5C#8 1#8 1#8 []) 0 = duo.mgmt.key ∧
    2 ≤ ({ duo.mgmt with replies := [[], []] } : Mgmt).replies.length ∧
    ({ duo.mgmt with cache := some (1#8, [9#8]) } : Mgmt).cache = some (byteAt (frameBody 0x5C#8 1#8 1#8 []) 1, [9#8]) ∧
    takesCommand (at' duo) 1#8 := by decide +kernel

theorem witness_FrameCodingRoundTrip : (List.replicate 206 0xF1#8).length ≤ 206 := by decide +kernel

theorem witness_CommandRowsAreFrames :
    commandFrame (.faultMask 255#8 0xFFFF#16) = some (255#8, 0x52#8, [0xFF#8, 0xFF#8]) ∧
    (commandFrame (.regionStage 0#8 stage3)).map (fun x => x.2.2.length) = some 20 ∧ duo.porst = false := by
  decide +kernel

theorem witness_SetKeyAndReplySent :
    duo.porst = false ∧ ({ duo.mgmt with replies := [[1#8], [2#8]] } : Mgmt).replies = [1#8] :: [[2#8]] ∧
    duo.mgmt.replies = [] := by decide +kernel

/-- The port takes a command with an empty cache, and with another sequence cached and one reply waiting. -/
theorem witness_takesCommand :
    takesCommand (at' duo) 0#8 ∧
    takesCommand (at' { duo with mgmt := { duo.mgmt with cache := some (255#8, []), replies := [[]] } }) 0#8 := by
  decide +kernel

/-- Region index 16, an entry in use, a size of 16,385 and one of 16,384, and a preferred port. -/
theorem witness_RegionStageChecksAndEffect :
    regionOf 16#8 = none ∧ regionOf stage3.region = some 3 ∧ stageReservedClear stage3 = true ∧
    inUse (duo.region 0) = true ∧ inUse (duo.region 3) = false ∧
    ¬ stageFits { stage3 with size := 16385#16 } ∧ stageFits { stage3 with size := 16384#16 } ∧
    stageFits { stage3 with policy := 1#8, preferred := 3#8 } ∧ ¬ stageFits { stage3 with policy := 1#8, preferred := 4#8 } ∧
    (stagedRegion { stage3 with policy := 1#8, preferred := 3#8 }).bind (·.preferred) = some 3 := by decide +kernel

/-- A region of two copies, M1 and M3, upstream at granule 256. -/
def staged3 : Region :=
  { Region.cleared with
    state := .staged
    base := 256
    size := 1
    mode := .mirror
    members := [{ port := 1, base := 64, state := none }, { port := 3, base := 0, state := none }] }

/-- Init 2; a commit that passes with TRUST, and with COPY while a job runs and at an idle engine; a primary that is no
member; an entry that is not STAGED; an upstream and a downstream overlap. -/
theorem witness_RegionCommitChecksAndEffect :
    initOf 1#8 = some .copy ∧ initOf 0#8 = some .trust ∧
    commitPasses duo staged3 .trust 0#8 ∧
    (let p := { duo.setRegion 3 staged3 with jobs := [{ kind := .compare compareHead, started := true }] }
     commitPasses p staged3 .copy 3#8 ∧ headHeld p) ∧
    commitPasses (duo.setRegion 3 staged3) staged3 .copy 3#8 ∧ engineIdle (duo.setRegion 3 staged3) ∧
    ¬ primaryFits staged3 .copy 2#8 ∧ (duo.region 3).state ≠ .staged ∧
    ¬ commitFieldsFit { staged3 with base := 65536 } ∧ ¬ upstreamClear duo { staged3 with base := 64 } ∧
    ¬ downstreamClear duo { staged3 with members := [{ port := 1, base := 0, state := none },
      { port := 3, base := 0, state := none }] } :=
  ⟨by decide, by decide, by decide +kernel, by decide +kernel, by decide +kernel, by decide +kernel, by decide +kernel,
   by decide +kernel, by decide +kernel, by decide +kernel, by decide +kernel⟩

/-- A region that is not LIVE, one with a request in flight, and a drained one; compare jobs on it, queued behind another
job, and running with a read outstanding and with none. -/
theorem witness_RegionRetireChecksAndEffect :
    regionOf 15#8 = some 15 ∧ (duo.region 15).state ≠ .live ∧ duo.jobs = [] ∧
    ((withTable [entry 7 .read line0 0 .issued 1#4] duo).region 0).inFlight ≠ 0 ∧
    (duo.region 0).state = .live ∧ (duo.region 0).inFlight = 0 ∧ windowOn duo 0 = false ∧
    windowOn { duo with window := some catchUp } 1 = true ∧
    (let p : Part := { duo with window := some catchUp,
                                jobs := [{ kind := .catchUp 2, started := true }, { kind := .compare compareHead, started := false }] }
     (compareEnds 1 p.jobs).length = 1 ∧ nothingStarts p ∧ runningCompare p = none) ∧
    (let p : Part := { duo with window := some comparing, jobs := [{ kind := .compare compareHead, started := true }] }
     runningCompare p = some compareHead ∧ comparing.region = 1 ∧ claimHoldsNone p ∧ copyInFlight p = 0 ∧
     jobsElsewhere 1 p.jobs = [] ∧ copyInFlight (handing 1 (.copy .compareRead) .error p) ≠ 0) := by decide +kernel

theorem witness_ReadCommands_IdentAndPortRead :
    regionOf 15#8 = some 15 ∧ regionOf 16#8 = none ∧ portOf 3#8 = some 3 ∧ portOf 4#8 = none := by decide

theorem witness_PortEnableChecksAndEffect :
    ((allLinks .off).port 3).link = .off ∧ ((allLinks .failed).port 3).link = .failed ∧
    ((allLinks .drowsy).port 3).link ≠ .off ∧ ((allLinks .drowsy).port 3).link ≠ .failed := by decide +kernel

/-- M0 serves a DIRECT region; M0 holds a last replica; M3 does neither, ACTIVE or OFF. -/
theorem witness_PortDisableAndSetup_disable :
    servesDirect duo 0 = true ∧
    (let p := (duo.setRegion 0 Region.cleared).setRegion 1 (trio .inService .faulted .rejoining)
     servesDirect p 0 = false ∧ holdsLastReplica p 0 = true) ∧
    servesDirect duo 3 = false ∧ holdsLastReplica duo 3 = false ∧ (duo.port 3).link ≠ .off ∧
    ((allLinks .off).port 3).link = .off := by decide +kernel

theorem witness_PortDisableAndSetup_setup :
    portOf 3#8 = some 3 ∧ (5#8).toNat ≤ 5 ∧ (4#8).toNat ≤ 4 ∧ 1 ≤ (15#8).toNat ∧ (15#8).toNat ≤ 15 ∧
    5 < (6#8).toNat ∧ 4 < (5#8).toNat ∧ 15 < (16#8).toNat := by decide

/-- A last replica at M0; M1 beside it, with no job and with a queued one; M2 with a copy to rejoin; M3 with none. -/
theorem witness_DetachAndRejoin :
    (let p := duo.setRegion 1 (trio .inService .faulted .rejoining)
     ∃ r, mstate p r 0 = some .inService ∧ ∀ x, x ≠ 0 → mstate p r x ≠ some .inService) ∧
    (∀ r, mstate duo r 1 = some .inService → ∃ x, x ≠ 1 ∧ mstate duo r x = some .inService) ∧
    duo.jobs.any (isCatchUp 1) = false ∧
    (let p := { duo with jobs := [{ kind := .compare compareHead, started := true },
                                  { kind := .catchUp 2, started := false }] }
     headHeld p ∧ (∀ j ∈ p.jobs, isCatchUp 2 j = true → j.started = false) ∧ p.jobs.any (isCatchUp 2) = true) ∧
    (let p := { duo.setRegion 1 (trio .inService .inService .detached) with window := some comparing }
     (p.port 2).link = .active ∧ (∃ r, mstate p r 2 = some .faulted ∨ mstate p r 2 = some .detached) ∧ headHeld p ∧
     hasFreeSlot (p.port 2) = true) ∧
    (let p := handing 0 (.copy .sourceRead) .error (rebuilding (reading 7 .reading) duo)
     p.jobs.find? (isCatchUp 2) = some { kind := .catchUp 2, started := true } ∧ copyInFlight p ≠ 0 ∧ claimHoldsNone p ∧
     ∀ r, mstate p r 2 ≠ some .inService) ∧
    engineIdle (duo.setRegion 1 (trio .inService .inService .detached)) ∧
    ∀ r, mstate duo r 3 ≠ some .faulted ∧ mstate duo r 3 ≠ some .detached := by decide +kernel

/-- A running job with nothing outstanding, its window on a RETIRING region without entries, and another job behind it; and an
idle engine with a full port to rejoin, where a later write gives its slot back. -/
theorem witness_DetachAndRejoin_idle :
    (let p := rebuilding (reading 7 .reading) (duo.setRegion 1 { trio .inService .inService .rejoining with state := .retiring })
     let p : Part := { p with jobs := p.jobs ++ [{ kind := .catchUp 3, started := false }] }
     copyInFlight p = 0 ∧ claimHoldsNone p ∧
     p.jobs.filter (fun j => !isCatchUp 2 j) = [3].map (fun x => { kind := .catchUp x, started := false }) ∧
     ((after (.detach 1#8 2#8 0#8) p).region 1).state = .free) ∧
    (let q := { linked .active with held := (List.range 16).map (fun n => (Fin.ofNat 16 n, Fin.ofNat 32 (n + 9))) }
     let p := withTable [entry 7 aWrite line1 1 .waitingSlot 3#4, entry 9 aWrite 0x40000040#40 1 .waitingSlot 7#4]
       ((duo.setRegion 1 (trio .inService .inService .detached)).setPort 2 q)
     engineIdle p ∧ hasFreeSlot (p.port 2) = false ∧ hasFreeSlot ((after (.rejoin 1#8 2#8 0#8) p).port 2) = true) := by decide +kernel

/-- The last extent of region 1, one past it, four compare jobs, an idle engine with copies to read and with one, and a job
running. -/
theorem witness_CompareChecksAndEffect :
    (duo.region 1).state = .live ∧ (duo.region 1).mode = .mirror ∧
    (255#24).toNat + (1#24).toNat ≤ (duo.region 1).size * 256 ∧ (duo.region 1).size * 256 < (255#24).toNat + (2#24).toNat ∧
    4 ≤ (List.replicate 4 ({ kind := .compare compareHead, started := false } : Job)).countP isCompare ∧
    duo.jobs.countP isCompare < 4 ∧
    engineIdle duo ∧ 2 ≤ (allPorts.filter (fun q => mstate duo 1 q == some .inService && !portDown duo q)).length ∧
    (let p := duo.setPort 1 (linked .failed)
     engineIdle p ∧ (allPorts.filter (fun q => mstate p 1 q == some .inService && !portDown p q)).length < 2) ∧
    headHeld { duo with jobs := [{ kind := .compare compareHead, started := true }] } := by decide +kernel

/-- Past the end, a catch-up job, a queued compare job behind a running one, and the running one. -/
theorem witness_JobCancelChecksAndEffect :
    let p := { duo with jobs := [{ kind := .compare compareHead, started := true },
                                 { kind := .compare compareHead, started := false },
                                 { kind := .catchUp 2, started := false }] }
    p.jobs.length ≤ (3#8).toNat ∧ p.jobs[(2#8).toNat]? = some { kind := .catchUp 2, started := false } ∧
    p.jobs[(1#8).toNat]? = some { kind := .compare compareHead, started := false } ∧ headHeld p ∧
    p.jobs[(0#8).toNat]? = some { kind := .compare compareHead, started := true } ∧
    (let p := handing 1 (.copy .compareRead) (.ok (some 5#512)) { p with window := some comparing }
     copyInFlight p ≠ 0 ∧ claimHoldsNone p) := by decide +kernel

/-- The 31st place and the 32nd, and a fetch of nine and of eight. -/
theorem witness_EventPostAndFetch :
    (List.replicate 31 ({ seq := 0, body := { kind := .hostReset } } : EventRec)).length < 32 ∧
    32 ≤ (List.replicate 32 ({ seq := 0, body := { kind := .hostReset } } : EventRec)).length ∧
    8 < (9#8).toNat ∧ (8#8).toNat ≤ 8 ∧
    (EventUnit.powerOn.queue.length + [({ kind := .hostReset } : EventBody), { kind := .keyRefused }].length ≤ 32) := by decide

theorem witness_FaultClearAndMask : 0x2000 ≤ (0x2000#16).toNat ∧ (0x1FFF#16).toNat < 0x2000 := by decide

/-- A request waiting, a job running, a run recorded. -/
def busy : Part :=
  { (withTable [entry 7 .read line0 0 .waitingSlot 1#4] duo).setDivList 2 [{ region := 1, first := 5, count := 2 }] with
    window := some catchUp, jobs := [{ kind := .catchUp 2, started := true }] }

/-- A held slot for one tag, and for two. -/
theorem witness_PortsSoundKept_tags :
    heldTagsDistinct (duo.setPort 2 { linked .active with held := [(15, 7), (3, 9)] }) ∧
    ¬ heldTagsDistinct (duo.setPort 2 { linked .active with held := [(15, 7), (3, 7)] }) := by decide +kernel

/-- A state in which every invariant holds, and a step from a sound state. -/
theorem witness_invariants :
    (tableSound busy ∧ lineHeld busy) ∧ (allSlotsDistinct busy ∧ heldTagsDistinct busy) ∧ allPortsSound busy ∧ lastReplicaKept busy ∧
    (allListsSound busy ∧ runsAreStale busy) ∧ (jobsSound busy ∧ queuesBounded busy) ∧
    (regionsApart busy ∧ catchUpJobsExact busy) ∧
    step { part := busy, pending := [.hrstNDeassert] } = .next { part := busy, pending := [] } :=
  ⟨by decide +kernel, by decide +kernel, by decide +kernel, by decide +kernel, by decide +kernel, by decide +kernel,
   by decide +kernel, rfl⟩

theorem witness_FaultFlagsAreSticky :
    duo.porst = false ∧ exec .hrstNDeassert (at' duo) = .next (at' duo) ∧ Instr.hrstNDeassert ≠ .porstNAssert ∧
    Instr.hrstNDeassert ≠ .mgmtCharacter 0xF2#8 true ∧ Instr.mgmtCharacter 0xF1#8 true ≠ .mgmtCharacter 0xF2#8 true :=
  ⟨rfl, rfl, by decide, by decide, by decide⟩

end Sys2Proof.Tests
end

section
/-! SUPPORT. Further laws of the state: outputs in a row, updates made twice, and what the named operations read. -/

namespace Sys2Proof.Machine

/-! ## Outputs in a row -/

/-- The part puts out several things, in order. -/
def Part.puts (p : Part) (os : List Output) : Part := { p with trace := p.trace ++ os }

theorem out_eq_puts (p : Part) (o : Output) : p.out o = p.puts [o] := rfl

@[simp] theorem puts_nil (p : Part) : p.puts [] = p := by simp [Part.puts]
@[simp] theorem puts_puts (p : Part) (a b : List Output) : (p.puts a).puts b = p.puts (a ++ b) := by simp [Part.puts]

@[simp] theorem now_puts (p : Part) (os : List Output) : (p.puts os).now = p.now := rfl
@[simp] theorem table_puts (p : Part) (os : List Output) : (p.puts os).table = p.table := rfl
@[simp] theorem lineClaim_puts (p : Part) (os : List Output) : (p.puts os).lineClaim = p.lineClaim := rfl
@[simp] theorem regions_puts (p : Part) (os : List Output) : (p.puts os).regions = p.regions := rfl
@[simp] theorem ports_puts (p : Part) (os : List Output) : (p.puts os).ports = p.ports := rfl
@[simp] theorem lists_puts (p : Part) (os : List Output) : (p.puts os).lists = p.lists := rfl
@[simp] theorem window_puts (p : Part) (os : List Output) : (p.puts os).window = p.window := rfl
@[simp] theorem events_puts (p : Part) (os : List Output) : (p.puts os).events = p.events := rfl
@[simp] theorem trace_puts (p : Part) (os : List Output) : (p.puts os).trace = p.trace ++ os := rfl
@[simp] theorem port_puts (p : Part) (os : List Output) (q : Port) : (p.puts os).port q = p.port q := rfl
@[simp] theorem region_puts (p : Part) (os : List Output) (r : RegionIx) : (p.puts os).region r = p.region r := rfl
@[simp] theorem divList_puts (p : Part) (os : List Output) (q : Port) : (p.puts os).divList q = p.divList q := rfl
@[simp] theorem mstate_puts (p : Part) (os : List Output) (r : RegionIx) (q : Port) : mstate (p.puts os) r q = mstate p r q :=
  rfl
theorem setPort_puts (p : Part) (os : List Output) (q : Port) (x : PortState) :
    (p.puts os).setPort q x = (p.setPort q x).puts os := rfl

/-! ## Updates that change nothing, or that follow one another -/

@[simp] theorem setPort_self (p : Part) (q : Port) : p.setPort q (p.port q) = p := by
  simp [Part.setPort, Part.port]

@[simp] theorem setPort_setPort (p : Part) (q : Port) (x y : PortState) : (p.setPort q x).setPort q y = p.setPort q y := by
  simp [Part.setPort]

@[simp] theorem setRegion_self (p : Part) (r : RegionIx) : p.setRegion r (p.region r) = p := by
  simp [Part.setRegion, Part.region]

@[simp] theorem setRegion_setRegion (p : Part) (r : RegionIx) (x y : Region) :
    (p.setRegion r x).setRegion r y = p.setRegion r y := by
  simp [Part.setRegion]

/-! ## Memberships and entries under the updates -/

@[simp] theorem mstate_setPort (p : Part) (q : Port) (x : PortState) (r : RegionIx) (q' : Port) :
    mstate (p.setPort q x) r q' = mstate p r q' := rfl
@[simp] theorem mstate_setTable (p : Part) (t : List Entry) (r : RegionIx) (q : Port) :
    mstate (p.setTable t) r q = mstate p r q := rfl
@[simp] theorem mstate_setWindow (p : Part) (w : Option Window) (r : RegionIx) (q : Port) :
    mstate (p.setWindow w) r q = mstate p r q := rfl
@[simp] theorem mstate_out (p : Part) (o : Output) (r : RegionIx) (q : Port) : mstate (p.out o) r q = mstate p r q := rfl
@[simp] theorem mstate_post (p : Part) (b : EventBody) (r : RegionIx) (q : Port) : mstate (post b p) r q = mstate p r q :=
  rfl
@[simp] theorem mstate_setDivList (p : Part) (q' : Port) (l : List Run) (r : RegionIx) (q : Port) :
    mstate (p.setDivList q' l) r q = mstate p r q := rfl

@[simp] theorem region_updateEntry (tag : Tag) (f : Entry → Entry) (p : Part) (r : RegionIx) :
    (updateEntry tag f p).region r = p.region r := rfl
@[simp] theorem port_updateEntry (tag : Tag) (f : Entry → Entry) (p : Part) (q : Port) :
    (updateEntry tag f p).port q = p.port q := rfl
@[simp] theorem mstate_updateEntry (tag : Tag) (f : Entry → Entry) (p : Part) (r : RegionIx) (q : Port) :
    mstate (updateEntry tag f p) r q = mstate p r q := rfl
@[simp] theorem region_removeEntry (tag : Tag) (p : Part) (r : RegionIx) : (removeEntry tag p).region r = p.region r := rfl
@[simp] theorem table_lowerInFlight (r : RegionIx) (p : Part) : (lowerInFlight r p).table = p.table := rfl
@[simp] theorem table_raiseInFlight (r : RegionIx) (p : Part) : (raiseInFlight r p).table = p.table := rfl

theorem region_lowerInFlight (r r' : RegionIx) (p : Part) :
    (lowerInFlight r p).region r' =
      if r' = r then { p.region r with inFlight := (p.region r).inFlight - 1 } else p.region r' :=
  region_setRegion p r r' _

theorem region_raiseInFlight (r r' : RegionIx) (p : Part) :
    (raiseInFlight r p).region r' =
      if r' = r then { p.region r with inFlight := (p.region r).inFlight + 1 } else p.region r' :=
  region_setRegion p r r' _

/-- A placement: the queue entry, and what is sent at once (R87, R88, R99). -/
theorem placeTxn_eq (q : Port) (k : SlotIx) (o : Origin) (op : Op) (a : DownAddr) (p : Part) :
    placeTxn q k o op a p =
      (p.setPort q { p.port q with queue := (p.port q).queue ++ [queuedEntry p q k o op a],
                                   held := (p.port q).held.filter (fun h => h.1 != k), silenceSince := none }).puts
        (sendOutput p q k op a) := by
  by_cases h : (p.port q).link = .active
  · simp [placeTxn, queuedEntry, sendOutput, h, out_eq_puts]
  · simp [placeTxn, queuedEntry, sendOutput, h]

end Sys2Proof.Machine
end

section
/-! SUPPORT. Operations that leave the request table, the ports and the outline of each region as they are. -/

namespace Sys2Proof.Machine

/-- A region but for its membership states and its ALTERNATE pointer. -/
def Region.outline (x : Region) : Region :=
  { x with members := x.members.map (fun m => { m with state := none }), alternate := none }

/-- From `p` to `p'` the table, the ports and each region's outline stand. -/
structure Aside (p p' : Part) : Prop where
  table : p'.table = p.table
  ports : p'.ports = p.ports
  outline : ∀ r, (p'.region r).outline = (p.region r).outline

namespace Aside

theorem refl (p : Part) : Aside p p := ⟨rfl, rfl, fun _ => rfl⟩

theorem trans {a b c : Part} (h : Aside a b) (h' : Aside b c) : Aside a c :=
  ⟨h'.table.trans h.table, h'.ports.trans h.ports, fun r => (h'.outline r).trans (h.outline r)⟩

/-- The regions are the same too. -/
theorem of_regions {p p' : Part} (ht : p'.table = p.table) (hp : p'.ports = p.ports) (hr : p'.regions = p.regions) :
    Aside p p' := ⟨ht, hp, fun r => by simp [Part.region, hr]⟩

variable {p p' : Part}

theorem port (h : Aside p p') (q : Port) : p'.port q = p.port q := by simp [Part.port, h.ports]

theorem state (h : Aside p p') (r : RegionIx) : (p'.region r).state = (p.region r).state :=
  (congrArg Region.state (h.outline r) :)

theorem inFlight (h : Aside p p') (r : RegionIx) : (p'.region r).inFlight = (p.region r).inFlight :=
  (congrArg Region.inFlight (h.outline r) :)

theorem mode (h : Aside p p') (r : RegionIx) : (p'.region r).mode = (p.region r).mode :=
  (congrArg Region.mode (h.outline r) :)

theorem base (h : Aside p p') (r : RegionIx) : (p'.region r).base = (p.region r).base :=
  (congrArg Region.base (h.outline r) :)

theorem inUse (h : Aside p p') (r : RegionIx) : inUse (p'.region r) = inUse (p.region r) := by
  simp [Machine.inUse, h.state r]

/-- A fold of operations that each leave table, ports and outlines does so. -/
theorem foldl {α : Type} {f : Part → α → Part} (h : ∀ p x, Aside p (f p x)) :
    ∀ (l : List α) (p : Part), Aside p (l.foldl f p)
  | [], p => refl p
  | x :: xs, p => (h p x).trans (foldl h xs (f p x))

end Aside

/-! ## The named updates -/

theorem setRegion_aside {p : Part} {r : RegionIx} {x : Region} (h : x.outline = (p.region r).outline) :
    Aside p (p.setRegion r x) := by
  refine ⟨rfl, rfl, fun r' => ?_⟩
  rw [region_setRegion]
  split
  · next e => rw [h, e]
  · rfl

theorem setDivList_aside (p : Part) (q : Port) (l : List Run) : Aside p (p.setDivList q l) := .of_regions rfl rfl rfl
theorem setWindow_aside (p : Part) (w : Option Window) : Aside p (p.setWindow w) := .of_regions rfl rfl rfl
theorem out_aside (p : Part) (o : Output) : Aside p (p.out o) := .of_regions rfl rfl rfl
theorem puts_aside (p : Part) (os : List Output) : Aside p (p.puts os) := .of_regions rfl rfl rfl
theorem post_aside (b : EventBody) (p : Part) : Aside p (post b p) := .of_regions rfl rfl rfl
theorem jobs_aside (p : Part) (j : List Job) : Aside p { p with jobs := j } := .of_regions rfl rfl rfl
theorem lineClaim_aside (p : Part) (c : Option UpAddr) : Aside p { p with lineClaim := c } := .of_regions rfl rfl rfl

theorem postAll_aside (bs : List EventBody) (p : Part) : Aside p (postAll bs p) :=
  Aside.foldl (fun p b => post_aside b p) bs p

/-! ## Memberships -/

theorem setMState_aside (r : RegionIx) (q : Port) (st : MState) (p : Part) : Aside p (setMState r q st p) := by
  refine setRegion_aside ?_
  simp only [Region.outline, List.map_map]
  congr 1
  refine List.map_congr_left fun m _ => ?_
  simp only [Function.comp]
  split <;> rfl

theorem ejectMember_aside (r : RegionIx) (q : Port) (why : Reason) (p : Part) : Aside p (ejectMember r q why p) :=
  (setMState_aside _ _ _ _).trans (post_aside _ _)

theorem takeOutRejoining_aside (q : Port) (why : Reason) (p : Part) : Aside p (takeOutRejoining q why p) := by
  refine Aside.foldl (fun p r => ?_) _ p
  split
  · exact ejectMember_aside _ _ _ _
  · exact .refl p

theorem takeReport_aside (r : RegionIx) (q : Port) (why : Reason) (line : Option UpAddr) (p : Part) :
    Aside p (takeReport r q why line p) := by
  unfold takeReport
  split
  · split
    · exact ejectMember_aside _ _ _ _
    · exact post_aside _ _
  · exact takeOutRejoining_aside _ _ _
  all_goals exact .refl p

theorem linkLossAt_aside (q : Port) (why : Reason) (p : Part) (r : RegionIx) : Aside p (linkLossAt q why p r) := by
  unfold linkLossAt
  split
  · split
    · exact ejectMember_aside _ _ _ _
    · exact post_aside _ _
  · exact ejectMember_aside _ _ _ _
  all_goals exact .refl p

theorem takeLinkLoss_aside (q : Port) (why : Reason) (p : Part) : Aside p (takeLinkLoss q why p) :=
  Aside.foldl (linkLossAt_aside q why) _ p

theorem completeAt_aside (q : Port) (p : Part) (r : RegionIx) : Aside p (completeAt q p r) := by
  unfold completeAt
  split
  · split
    · exact setMState_aside _ _ _ _
    · exact (setMState_aside _ _ _ _).trans (post_aside _ _)
  · exact .refl p

theorem takeCompletion_aside (q : Port) (p : Part) : Aside p (takeCompletion q p) :=
  Aside.foldl (completeAt_aside q) _ p

theorem detachAt_aside (q : Port) (p : Part) (r : RegionIx) : Aside p (detachAt q p r) := by
  unfold detachAt
  split
  · exact setMState_aside _ _ _ _
  · exact .refl p

theorem placementReport_aside (e : Entry) (p : Part) (q : Port) : Aside p (placementReport e p q) := by
  unfold placementReport
  split
  · exact takeReport_aside _ _ _ _ _
  · exact .refl p

theorem chooseRead_aside {p p' : Part} {e : Entry} {q : Port} (h : chooseRead p e = some (q, p')) : Aside p p' := by
  unfold chooseRead at h
  dsimp only at h
  split at h
  · simp at h
  · simp only [Option.some.injEq, Prod.mk.injEq] at h
    obtain ⟨_, rfl⟩ := h
    split
    · exact setRegion_aside rfl
    · exact .refl p

/-! ## Divergence lists -/

theorem coalesce_aside (q : Port) (p : Part) : Aside p (coalesce q p) := by
  unfold coalesce
  split
  · exact (setDivList_aside p _ _).trans (post_aside _ _)
  · exact .refl p

theorem insertRun_aside (q : Port) (x : Run) (p : Part) : Aside p (insertRun q x p) := by
  unfold insertRun
  dsimp only
  split
  · exact setDivList_aside p _ _
  · exact (coalesce_aside q p).trans (setDivList_aside _ _ _)

theorem insertIfOut_aside (e : Entry) (p : Part) (q : Port) : Aside p (insertIfOut e p q) := by
  unfold insertIfOut
  split
  · exact insertRun_aside _ _ _
  · exact .refl p

theorem purgeRegion_aside (r : RegionIx) (p : Part) : Aside p (purgeRegion r p) :=
  Aside.foldl (fun p _ => setDivList_aside p _ _) _ p

/-! ## Copy engine -/

theorem releaseLineClaim_aside (p : Part) : Aside p (releaseLineClaim p).1 := by
  unfold releaseLineClaim
  split
  · exact lineClaim_aside p _
  · exact .refl p

theorem postEnd_aside (ev : Option EventBody) (p : Part) : Aside p (postEnd ev p) := by
  unfold postEnd
  split
  · exact post_aside _ p
  · exact .refl p

theorem overtaken_aside (w : Window) (p : Part) : Aside p (overtaken w p).2 := by
  unfold overtaken
  dsimp only
  split
  · exact lineClaim_aside p _
  · exact .refl p

theorem postMismatch_aside (d : PortSet) (r : RegionIx) (a : UpAddr) (p : Part) : Aside p (postMismatch d r a p) := by
  unfold postMismatch
  split
  · exact .refl p
  · exact post_aside _ _

theorem requestCatchUp_aside (q : Port) (p : Part) : Aside p (requestCatchUp q p) := by
  unfold requestCatchUp
  split
  · exact .refl p
  · exact jobs_aside p _

theorem endQueuedCompares_aside (r : RegionIx) (p : Part) : Aside p (endQueuedCompares r p) :=
  (postAll_aside _ p).trans (jobs_aside _ _)

end Sys2Proof.Machine
end

section
/-! SUPPORT. The invariants of the request table and of the ports, and what each elementary change does to them. -/

namespace Sys2Proof.Machine

/-! ## One port -/

/-- From one state of a port to another: distinct slots stay distinct, held tags too, and a sound port stays sound. -/
structure PortKeeps (x y : PortState) : Prop where
  slots : slotsDistinct x → slotsDistinct y
  tags : (x.held.map (·.2)).Nodup → (y.held.map (·.2)).Nodup
  sound : portSound x → portSound y

namespace PortKeeps

theorem refl (x : PortState) : PortKeeps x x := ⟨id, id, id⟩

theorem trans {x y z : PortState} (h : PortKeeps x y) (h' : PortKeeps y z) : PortKeeps x z :=
  ⟨h'.slots ∘ h.slots, h'.tags ∘ h.tags, h'.sound ∘ h.sound⟩

/-- Queue entries and held slots that leave keep the others' slots distinct. -/
theorem slots_sublist {x y : PortState} (hq : (y.queue.map (·.slot)).Sublist (x.queue.map (·.slot)))
    (hh : y.held.Sublist x.held) (h : slotsDistinct x) : slotsDistinct y :=
  h.sublist (hq.append (hh.map _))

end PortKeeps

theorem occupancy_eq_zero {x : PortState} : occupancy x = 0 ↔ x.queue = [] ∧ x.held = [] := by
  simp [occupancy]

/-- A port that is sound but for its silence timer is sound with the timer restarted (R82). -/
theorem portSound_restartSilence (now : Nat) {x : PortState} (h : portSound { x with silenceSince := none }) :
    portSound (restartSilence now x) := by
  obtain ⟨h1, h2, h3, h4, -, h6, h7⟩ := h
  refine ⟨h1, h2, h3, h4, fun hs => ?_, h6, h7⟩
  simp only [restartSilence] at hs
  split at hs
  · next hc => simpa [and_assoc, occupancy, restartSilence] using hc
  · simp at hs

/-- Held slots go back. -/
theorem PortKeeps.drop (f : SlotIx × Tag → Bool) (x : PortState) : PortKeeps x { x with held := x.held.filter f } where
  slots := PortKeeps.slots_sublist (.refl _) List.filter_sublist
  tags h := h.sublist (List.filter_sublist.map _)
  sound h := by
    obtain ⟨h1, h2, h3, h4, h5, h6⟩ := h
    refine ⟨fun hl => ?_, fun hl => ?_, h3, h4, fun hs => ?_, h6⟩
    · simp [h1 hl]
    · simp [h2 hl]
    · obtain ⟨ha, hb, hc⟩ := h5 hs
      rw [occupancy_eq_zero] at hc ⊢
      simp [ha, hb, hc]

/-- The silence timer restarted or stopped. -/
theorem PortKeeps.restart (now : Nat) (x : PortState) : PortKeeps x (restartSilence now x) where
  slots := id
  tags := id
  sound h := portSound_restartSilence now (by
    obtain ⟨h1, h2, h3, h4, -, h6⟩ := h
    exact ⟨h1, h2, h3, h4, by simp, h6⟩)

/-- A queue entry leaves, and the silence timer is restarted (R89). -/
theorem PortKeeps.answer (now : Nat) (f : QEntry → Bool) (x : PortState) :
    PortKeeps x (restartSilence now { x with queue := x.queue.filter f }) where
  slots := PortKeeps.slots_sublist (List.filter_sublist.map _) (.refl _)
  tags := id
  sound h := portSound_restartSilence now (by
    obtain ⟨h1, h2, h3, h4, -, h6, h7⟩ := h
    refine ⟨fun hl => ?_, fun hl => ?_, h3, h4, by simp, fun t ht => h6 t (List.mem_filter.mp ht).1, h7⟩
    · simp [h1 hl]
    · simp [h2 hl])

/-- The pass-over count returns to 0 (R96). -/
theorem PortKeeps.clear (x : PortState) : PortKeeps x { x with passOver := 0 } where
  slots := id
  tags := id
  sound h := by
    obtain ⟨h1, h2, h3, h4, h5, h6, h7, h8, h9, h10, -⟩ := h
    exact ⟨fun hl => ⟨(h1 hl).1, (h1 hl).2.1, rfl⟩, h2, h3, h4, h5, h6, h7, h8, h9, h10, by simp⟩

/-- A DROWSY link wakes (R83). -/
theorem PortKeeps.wake (t : Nat) {x : PortState} (hx : x.link = .drowsy) :
    PortKeeps x { x with link := .waking, wakeSince := some t } where
  slots := id
  tags := id
  sound h := by
    obtain ⟨-, h2, h3, -, h5, -, h7⟩ := h
    have hq := h2 hx
    have hs : x.silenceSince = none := by
      cases hc : x.silenceSince with
      | none => rfl
      | some v => simp [hx] at h5; simp [h5] at hc
    have ht : x.trainingSince = none := by simpa [hx] using h3
    exact ⟨by simp [linkDown], by simp, by simp [ht], by simp, by simp [hs], by simp [hq], h7⟩

/-- The conditions under which a slot can take a transaction: it is held, or free on a link that takes entries (R87). -/
def mayPlace (x : PortState) (k : SlotIx) : Prop :=
  k ∈ x.held.map (·.1) ∨ slotFree x k = true ∧ linkDown x.link = false ∧ x.link ≠ .drowsy

theorem slotFree_iff (x : PortState) (k : SlotIx) :
    slotFree x k = true ↔ k ∉ x.queue.map (·.slot) ∧ k ∉ x.held.map (·.1) := by
  simp only [slotFree, Bool.and_eq_true, List.all_eq_true, bne_iff_ne, List.mem_map, not_exists, not_and]

/-- Links on which nothing is queued or held. -/
theorem portSound_busy {x : PortState} {k : SlotIx} (h : portSound x) (hk : mayPlace x k) :
    linkDown x.link = false ∧ x.link ≠ .drowsy := by
  rcases hk with hk | ⟨-, hk⟩
  · obtain ⟨h1, h2, -⟩ := h
    constructor
    · by_contra hc
      simp [(h1 (by simpa using hc)).2.1] at hk
    · intro hc
      simp [(h2 hc).2] at hk
  · exact hk

/-- A transaction enters the queue in a slot that was held or free (R87, R88). -/
theorem PortKeeps.place {x : PortState} {t : QEntry} (hk : mayPlace x t.slot)
    (ht : t.sentAt.isSome = true ↔ x.link = .active) :
    PortKeeps x { x with queue := x.queue ++ [t], held := x.held.filter (fun h => h.1 != t.slot),
                         silenceSince := none } where
  slots h := by
    have hq : t.slot ∉ x.queue.map (·.slot) := by
      rcases hk with hk | ⟨hk, -⟩
      · exact fun hq => (List.nodup_append.mp h).2.2 _ hq _ hk rfl
      · exact ((slotFree_iff _ _).mp hk).1
    have hsub : (x.queue.map (·.slot) ++ (x.held.filter (fun h => h.1 != t.slot)).map (·.1)).Nodup :=
      h.sublist ((List.Sublist.refl _).append (List.filter_sublist.map _))
    have hn : t.slot ∉ x.queue.map (·.slot) ++ (x.held.filter (fun h => h.1 != t.slot)).map (·.1) := by
      simpa using hq
    have := (List.nodup_middle (l₁ := x.queue.map (·.slot)) (a := t.slot)).mpr (List.nodup_cons.mpr ⟨hn, hsub⟩)
    simpa [slotsDistinct] using this
  tags h := h.sublist (List.filter_sublist.map _)
  sound h := by
    obtain ⟨hl, hd⟩ := portSound_busy h hk
    obtain ⟨-, -, h3, h4, -, h6, h7⟩ := h
    refine ⟨by simp [hl], by simp [hd], h3, h4, by simp, fun u hu => ?_, h7⟩
    rcases List.mem_append.mp hu with hu | hu
    · exact h6 u hu
    · rw [List.mem_singleton.mp hu]; exact ht

/-- A free slot is held for a tag that holds none there; the pass-over count may rise while it is below the weight
(R13, R96). -/
theorem PortKeeps.hold {x : PortState} {k : SlotIx} {tag : Tag} {n : Nat} (hk : slotFree x k = true)
    (ht : ∀ h ∈ x.held, h.2 ≠ tag) (hl : linkDown x.link = false) (hd : x.link ≠ .drowsy)
    (hn : n = x.passOver ∨ n = x.passOver + 1 ∧ x.passOver < x.weight) :
    PortKeeps x { x with held := x.held ++ [(k, tag)], silenceSince := none, passOver := n } where
  slots h := by
    obtain ⟨hq, hh⟩ := (slotFree_iff _ _).mp hk
    have := List.Nodup.concat (List.not_mem_append hq hh) h
    simpa [slotsDistinct] using this
  tags h := by
    have : tag ∉ x.held.map (·.2) := by simpa using fun a ha => ht _ ha rfl
    simpa using List.Nodup.concat this h
  sound h := by
    obtain ⟨-, -, h3, h4, -, h6, h7, h8, h9, h10, h11⟩ := h
    refine ⟨by simp [hl], by simp [hd], h3, h4, by simp, h6, h7, h8, h9, h10, ?_⟩
    show n ≤ 15
    omega

/-! ## The part -/

/-- From one part to another the invariants of the request table and of the ports stay. -/
structure Keeps (p p' : Part) : Prop where
  distinct : tagsDistinct p → tagsDistinct p'
  table : tableSound p → tableSound p'
  line : lineHeld p → lineHeld p'
  port : ∀ q, PortKeeps (p.port q) (p'.port q)

namespace Keeps

theorem refl (p : Part) : Keeps p p := ⟨id, id, id, fun _ => .refl _⟩

theorem trans {a b c : Part} (h : Keeps a b) (h' : Keeps b c) : Keeps a c :=
  ⟨h'.distinct ∘ h.distinct, h'.table ∘ h.table, h'.line ∘ h.line, fun q => (h.port q).trans (h'.port q)⟩

theorem foldl {α : Type} {f : Part → α → Part} (h : ∀ p x, Keeps p (f p x)) :
    ∀ (l : List α) (p : Part), Keeps p (l.foldl f p)
  | [], p => refl p
  | x :: xs, p => (h p x).trans (foldl h xs (f p x))

end Keeps

/-- The in-flight counts stand, and the regions in use are the same. -/
theorem inFlightExact_of_same {p p' : Part} (ht : p'.table = p.table)
    (hr : ∀ r, (p'.region r).inFlight = (p.region r).inFlight ∧ inUse (p'.region r) = inUse (p.region r))
    (h : inFlightExact p) : inFlightExact p' := fun r => by
  obtain ⟨h1, h2⟩ := h r
  rw [(hr r).1, (hr r).2, ht]
  exact ⟨h1, h2⟩

/-- A change of the ports alone. -/
theorem setPort_keeps {p : Part} {q : Port} {x : PortState} (h : PortKeeps (p.port q) x) : Keeps p (p.setPort q x) where
  distinct := id
  table := id
  line := id
  port q' := by
    rw [port_setPort]; split
    · next e => exact e ▸ h
    · exact .refl _

theorem keeps_of_ports {p p' : Part} (h : ∀ q, p'.port q = p.port q) (hd : tagsDistinct p → tagsDistinct p')
    (ht : tableSound p → tableSound p') (hl : lineHeld p → lineHeld p') : Keeps p p' where
  distinct := hd
  table := ht
  line := hl
  port q := h q ▸ .refl _

theorem lineHeld_of_table {p p' : Part} (ht : p'.table = p.table) (h : lineHeld p) : lineHeld p' := by
  unfold lineHeld tagsDistinct; rw [ht]; exact h

theorem Aside.keeps {p p' : Part} (h : Aside p p') : Keeps p p' :=
  have hd : tagsDistinct p → tagsDistinct p' := fun h1 => by unfold tagsDistinct; rwa [h.table]
  keeps_of_ports h.port hd
    (fun ⟨h1, h2⟩ => ⟨hd h1,
      inFlightExact_of_same h.table (fun r => ⟨h.inFlight r, h.inUse r⟩) h2⟩)
    (lineHeld_of_table h.table)

/-- Table, ports and regions are the same. -/
theorem keeps_of_same {p p' : Part} (ht : p'.table = p.table) (hp : p'.ports = p.ports) (hr : p'.regions = p.regions) :
    Keeps p p' := (Aside.of_regions ht hp hr).keeps

/-- A region is replaced: its count and its being in use stand, or it counts 0 from now on, having counted nothing. -/
theorem setRegion_keeps {p : Part} {r : RegionIx} {x : Region}
    (h : x.inFlight = (p.region r).inFlight ∧ inUse x = inUse (p.region r) ∨
      x.inFlight = 0 ∧ ((p.region r).inFlight = 0 ∨ inUse (p.region r) = false)) : Keeps p (p.setRegion r x) := by
  refine keeps_of_ports (fun _ => rfl) id (fun ⟨hd, hc⟩ => ⟨hd, fun r' => ?_⟩) (lineHeld_of_table rfl)
  obtain ⟨h1, h2⟩ := hc r'
  rw [region_setRegion, table_setRegion]
  split
  · next e =>
    subst e
    rcases h with ⟨h3, h4⟩ | ⟨h3, h4⟩
    · rw [h3, h4]; exact ⟨h1, h2⟩
    · have h0 : (p.region r').inFlight = 0 := h4.elim id h2
      rw [h3, ← h1, h0]; exact ⟨rfl, fun _ => rfl⟩
  · exact ⟨h1, h2⟩

/-! ## The request table -/

/-- The entry is the earliest live entry for its line (R9). -/
def earliest (p : Part) (e : Entry) : Prop := (p.table.find? (fun x => x.line == e.line)).map (·.tag) = some e.tag

/-- An entry takes a new form: tag, line and region stand, and it is past WAITING_LINE only if it was, or is the earliest
for its line. -/
structure Reforms (p : Part) (x y : Entry) : Prop where
  tag : y.tag = x.tag
  line : y.line = x.line
  region : y.region = x.region
  state : y.state ≠ .waitingLine → x.state ≠ .waitingLine ∨ earliest p x

theorem Reforms.refl (p : Part) (x : Entry) : Reforms p x x := ⟨rfl, rfl, rfl, .inl⟩

/-- A new form in the same state, for the same line. -/
theorem Reforms.of_state {p : Part} {x y : Entry} (ht : y.tag = x.tag) (hl : y.line = x.line) (hr : y.region = x.region)
    (hs : y.state = x.state) : Reforms p x y := ⟨ht, hl, hr, fun h => .inl (hs ▸ h)⟩

theorem map_tag_of_reforms {p : Part} {f : Entry → Entry} {l : List Entry} (h : ∀ x ∈ l, Reforms p x (f x)) :
    (l.map f).map (·.tag) = l.map (·.tag) := by
  rw [List.map_map]
  exact List.map_congr_left fun x hx => (h x hx).tag

theorem find_line_map {p : Part} {f : Entry → Entry} {l : List Entry} (h : ∀ x ∈ l, Reforms p x (f x)) (a : UpAddr) :
    ((l.map f).find? (fun x => x.line == a)).map (·.tag) = (l.find? (fun x => x.line == a)).map (·.tag) := by
  induction l with
  | nil => rfl
  | cons x xs ih =>
    have hx := h x (List.mem_cons_self ..)
    simp only [List.map_cons, List.find?_cons, hx.line]
    split
    · simp [hx.tag]
    · exact ih fun y hy => h y (List.mem_cons_of_mem _ hy)

/-- Entries take new forms. -/
theorem setTable_map_keeps {p : Part} {f : Entry → Entry} (h : tagsDistinct p → ∀ x ∈ p.table, Reforms p x (f x)) :
    Keeps p (p.setTable (p.table.map f)) := by
  have hd' : tagsDistinct p → tagsDistinct (p.setTable (p.table.map f)) := fun hd => by
    simpa only [tagsDistinct, table_setTable, map_tag_of_reforms (h hd)] using hd
  refine keeps_of_ports (fun _ => rfl) hd' (fun ⟨hd, hc⟩ => ⟨hd' hd, fun r => ?_⟩)
    (fun ⟨hd, hl⟩ => ⟨hd' hd, fun y hy hs => ?_⟩)
  · rw [region_setTable, table_setTable, List.countP_map]
    rw [show List.countP ((fun e : Entry => e.region == r) ∘ f) p.table = p.table.countP (fun e => e.region == r) from
      List.countP_congr fun x hx => by simp [(h hd x hx).region]]
    exact hc r
  · obtain ⟨x, hx, rfl⟩ := List.mem_map.mp hy
    have hr := h hd x hx
    rw [table_setTable, find_line_map (h hd), hr.line, hr.tag]
    exact (hr.state hs).elim (hl x hx) id

/-- The entries of a tag take a new form. -/
theorem updateEntry_keeps {tag : Tag} {f : Entry → Entry} {p : Part}
    (h : tagsDistinct p → ∀ x ∈ p.table, x.tag = tag → Reforms p x (f x)) : Keeps p (updateEntry tag f p) := by
  refine setTable_map_keeps fun hd x hx => ?_
  split
  · next e => exact h hd x hx (by simpa using e)
  · exact .refl p x

/-- An entry of the table, or one whose tag and region an entry of the table has. -/
def listed (p : Part) (e : Entry) : Prop := tagsDistinct p → ∃ x ∈ p.table, x.tag = e.tag ∧ x.region = e.region

theorem listed_of_mem {p : Part} {e : Entry} (h : e ∈ p.table) : listed p e := fun _ => ⟨e, h, rfl, rfl⟩

theorem listed_of_table {p p' : Part} {e : Entry} (h : listed p e) (ht : p'.table = p.table) : listed p' e := by
  unfold listed tagsDistinct; rw [ht]; exact h

theorem listed_updateEntry {p : Part} {e : Entry} {tag : Tag} {f : Entry → Entry} (h : listed p e)
    (hf : ∀ x, x.tag = tag → (f x).tag = x.tag ∧ (f x).region = x.region) : listed (updateEntry tag f p) e := by
  have hg : ∀ x : Entry, (if x.tag == tag then f x else x).tag = x.tag ∧
      (if x.tag == tag then f x else x).region = x.region := fun x => by
    split
    · next e => exact hf x (by simpa using e)
    · exact ⟨rfl, rfl⟩
  intro hd
  have ht : ((updateEntry tag f p).table.map (·.tag)) = p.table.map (·.tag) := by
    rw [table_updateEntry, List.map_map]; exact List.map_congr_left fun x _ => (hg x).1
  unfold tagsDistinct at hd
  rw [ht] at hd
  obtain ⟨x, hx, h1, h2⟩ := h hd
  exact ⟨_, List.mem_map_of_mem hx, (hg x).1.trans h1, (hg x).2.trans h2⟩

/-- With distinct tags an entry of the table counts once. -/
theorem countP_remove {l : List Entry} (hd : (l.map (·.tag)).Nodup) {x : Entry} (hx : x ∈ l) (f : Entry → Bool) :
    l.countP f = (l.filter (fun e => e.tag != x.tag)).countP f + if f x then 1 else 0 := by
  induction l with
  | nil => simp at hx
  | cons y ys ih =>
    rw [List.map_cons, List.nodup_cons] at hd
    rcases List.mem_cons.mp hx with rfl | hx
    · have : ys.filter (fun e => e.tag != x.tag) = ys := by
        refine List.filter_eq_self.mpr fun e he => ?_
        simpa using fun (hc : e.tag = x.tag) => hd.1 (hc ▸ List.mem_map_of_mem he)
      simp [this, List.countP_cons]
    · have hy : y.tag ≠ x.tag := fun hc => hd.1 (hc ▸ List.mem_map_of_mem hx)
      simp only [List.filter_cons, bne_iff_ne, ne_eq, hy, not_false_iff, if_true, List.countP_cons, ih hd.2 hx]
      omega

theorem find_filter_of_pos {α : Type} {f g : α → Bool} {l : List α} {x : α} (h : l.find? f = some x) (hx : g x = true) :
    (l.filter g).find? f = some x := by
  induction l with
  | nil => simp at h
  | cons y ys ih =>
    rw [List.find?_cons] at h
    split at h
    · next hy =>
      obtain rfl := Option.some.inj h
      simp [hx, hy]
    · next hy =>
      rw [List.filter_cons]
      split
      · rw [List.find?_cons, hy]; exact ih h
      · exact ih h

/-- Entries that leave keep the line hold of the others. -/
theorem lineHeld_filter {p p' : Part} {f : Tag → Bool} (ht : p'.table = p.table.filter (fun e => f e.tag))
    (h : lineHeld p) : lineHeld p' := by
  obtain ⟨hd, hl⟩ := h
  refine ⟨?_, fun e he hs => ?_⟩
  · unfold tagsDistinct; rw [ht]; exact hd.sublist (List.filter_sublist.map _)
  · rw [ht] at he ⊢
    obtain ⟨hm, hf⟩ := List.mem_filter.mp he
    obtain ⟨y, hy, hye⟩ := Option.map_eq_some_iff.mp (hl e hm hs)
    rw [find_filter_of_pos (g := fun e => f e.tag) hy (by rw [hye]; exact hf), Option.map_some, hye]

/-- An entry is freed: out of the table, and its region counts one less (R17, R27). -/
theorem free_keeps {e : Entry} {p : Part} (h : listed p e) : Keeps p (lowerInFlight e.region (removeEntry e.tag p)) := by
  have hd' : tagsDistinct p → tagsDistinct (lowerInFlight e.region (removeEntry e.tag p)) := fun hd =>
    hd.sublist (List.filter_sublist.map _)
  refine keeps_of_ports (fun _ => rfl) hd' (fun ⟨hd, hc⟩ => ⟨hd' hd, fun r => ?_⟩)
    (lineHeld_filter (f := fun t => t != e.tag) rfl)
  · obtain ⟨x, hx, h1, h2⟩ := h hd
    obtain ⟨h3, h4⟩ := hc r
    have := countP_remove hd hx (fun y => y.region == r)
    rw [h1, h2] at this
    rw [table_lowerInFlight, table_removeEntry, region_lowerInFlight, region_removeEntry, region_removeEntry]
    split
    · next er =>
      subst er
      simp only [beq_self_eq_true, if_true] at this
      refine ⟨by simp only [h3, this, Nat.add_sub_cancel], fun hu => ?_⟩
      simp only [h4 hu]
    · next er =>
      simp only [beq_iff_eq, Ne.symm er, if_false, Nat.add_zero] at this
      exact ⟨h3.trans this, h4⟩

/-- A new entry at the end of the table, in WAITING_LINE, for a region in use, with a tag that no entry has (R8). -/
theorem admit_keeps {e : Entry} {p : Part} (ht : ∀ x ∈ p.table, x.tag ≠ e.tag) (hs : e.state = .waitingLine)
    (hu : inUse (p.region e.region) = true) :
    Keeps p (raiseInFlight e.region (p.setTable (p.table ++ [e]))) := by
  have hd' : tagsDistinct p → ((p.table ++ [e]).map (·.tag)).Nodup := fun hd => by
    have : e.tag ∉ p.table.map (·.tag) := by simpa using fun x hx => ht x hx
    simpa using List.Nodup.concat this hd
  refine keeps_of_ports (fun _ => rfl) hd' (fun ⟨hd, hc⟩ => ⟨hd' hd, fun r => ?_⟩)
    (fun ⟨hd, hl⟩ => ⟨hd' hd, fun x hx hx' => ?_⟩)
  · obtain ⟨h1, h2⟩ := hc r
    rw [table_raiseInFlight, table_setTable, region_raiseInFlight, region_setTable, region_setTable, List.countP_append]
    split
    · next er =>
      subst er
      refine ⟨by simp [h1], fun hu' => ?_⟩
      have : inUse (p.region e.region) = false := by simpa [inUse] using hu'
      simp [this] at hu
    · next er => exact ⟨by simp [h1, Ne.symm er], h2⟩
  · show ((p.table ++ [e]).find? _).map _ = _
    rcases List.mem_append.mp hx with hx | hx
    · obtain ⟨y, hy, hyt⟩ := Option.map_eq_some_iff.mp (hl x hx hx')
      rw [List.find?_append, hy]; simp [hyt]
    · rw [List.mem_singleton.mp hx] at hx'; exact absurd hs hx'

end Sys2Proof.Machine
end

section
/-! SUPPORT. Every work of an event keeps the invariants of the request table and of the ports. -/

namespace Sys2Proof.Machine

/-! ## Slots -/

theorem out_keeps (p : Part) (o : Output) : Keeps p (p.out o) := (out_aside p o).keeps

theorem placeTxn_keeps {q : Port} {k : SlotIx} {p : Part} (o : Origin) (op : Op) (a : DownAddr)
    (h : mayPlace (p.port q) k) : Keeps p (placeTxn q k o op a p) := by
  rw [placeTxn_eq]
  refine (setPort_keeps (PortKeeps.place (t := queuedEntry p q k o op a) h ?_)).trans (puts_aside _ _).keeps
  unfold queuedEntry
  dsimp only
  split <;> simp_all

theorem releaseHeldAt_keeps (tag : Tag) (p : Part) (q : Port) : Keeps p (releaseHeldAt tag p q) := by
  unfold releaseHeldAt
  dsimp only
  split
  · exact setPort_keeps ((PortKeeps.drop _ _).trans (PortKeeps.restart _ _))
  · exact .refl p

theorem releaseHeld_keeps (tag : Tag) (p : Part) : Keeps p (releaseHeld tag p) :=
  Keeps.foldl (releaseHeldAt_keeps tag) _ p

theorem dropHeldSlot_keeps (tag : Tag) (q : Port) (p : Part) : Keeps p (dropHeldSlot tag q p) :=
  setPort_keeps (PortKeeps.drop _ _)

theorem taskGiveBack_keeps (q : Port) (p : Part) : Keeps p (taskGiveBack q p).1 := by
  unfold taskGiveBack
  split
  · exact .refl p
  · split
    · exact dropHeldSlot_keeps _ _ _
    · exact .refl p

theorem clearPassOver_keeps (q : Port) (p : Part) : Keeps p (clearPassOver q p) := setPort_keeps (PortKeeps.clear _)

theorem withdrawClaimAt_keeps (q : Port) (p : Part) : Keeps p (withdrawClaimAt q p) := by
  unfold withdrawClaimAt
  split
  · split
    · exact (setWindow_aside p _).keeps.trans (clearPassOver_keeps _ _)
    · exact .refl p
  · exact .refl p

theorem withdrawClaims_keeps (p : Part) : Keeps p (withdrawClaims p) :=
  Keeps.foldl (fun p q => withdrawClaimAt_keeps q p) _ p

/-! ## Freeing and waiting -/

theorem freeEntry_keeps {e : Entry} {p : Part} (h : listed p e) : Keeps p (freeEntry e p).1 := free_keeps h

theorem completeEntry_keeps {e : Entry} {p : Part} (st : RespStatus) (h : listed p e) : Keeps p (completeEntry e st p).1 :=
  (out_keeps p _).trans (freeEntry_keeps (listed_of_table h rfl))

theorem finishEntry_keeps {e : Entry} {p : Part} (st : RespStatus) (h : listed p e) : Keeps p (finishEntry e st p).1 := by
  unfold finishEntry
  split
  · exact freeEntry_keeps h
  · exact completeEntry_keeps st h

theorem findEntry_listed {p : Part} {tag : Tag} {e : Entry} (h : findEntry p tag = some e) : listed p e :=
  listed_of_mem (findEntry_mem h).1

theorem finishWrite_keeps (tag : Tag) (p : Part) : Keeps p (finishWrite tag p).1 := by
  unfold finishWrite
  split
  · exact .refl p
  · next h =>
    split
    · exact finishEntry_keeps _ (findEntry_listed h)
    · exact .refl p

/-- Entries of one tag are one entry. -/
theorem eq_of_tag {p : Part} (hd : tagsDistinct p) {x e : Entry} (hx : x ∈ p.table) (he : e ∈ p.table) (h : x.tag = e.tag) :
    x = e := List.inj_on_of_nodup_map hd hx he h

theorem mayLeave_iff (p : Part) (e : Entry) :
    mayLeave p e = true ↔ e.state = .waitingLine ∧ earliest p e ∧ p.lineClaim ≠ some e.line := by
  simp [mayLeave, earliest, and_assoc]

theorem enterWaitingSlot_keeps {e : Entry} {p : Part} (t : PortSet) (he : e ∈ p.table) (h : earliest p e) :
    Keeps p (enterWaitingSlot e t p).1 :=
  updateEntry_keeps fun hd x hx ht => by
    obtain rfl := eq_of_tag hd hx he ht
    exact ⟨rfl, rfl, rfl, fun _ => .inr h⟩

theorem chooseDirect_keeps {e : Entry} {p : Part} (he : e ∈ p.table) (h : earliest p e) :
    Keeps p (chooseDirect e p).1 := by
  unfold chooseDirect
  split
  · split
    · exact completeEntry_keeps _ (listed_of_mem he)
    · exact enterWaitingSlot_keeps _ he h
  · exact completeEntry_keeps _ (listed_of_mem he)

theorem chooseFirst_keeps {e : Entry} {p : Part} (he : e ∈ p.table) (h : earliest p e) : Keeps p (chooseFirst e p).1 := by
  unfold chooseFirst
  split
  · exact chooseDirect_keeps he h
  · split
    · split
      · next hc =>
        have ha := chooseRead_aside hc
        exact ha.keeps.trans (enterWaitingSlot_keeps _ (ha.table ▸ he) (by rwa [earliest, ha.table]))
      · exact completeEntry_keeps _ (listed_of_mem he)
    · exact .refl p

theorem leavesLine_iff (p : Part) (line : UpAddr) (e : Entry) :
    leavesLine p line e = true ↔ e.line = line ∧ mayLeave p e = true := by
  simp [leavesLine]

theorem taskLeave_keeps (line : UpAddr) (p : Part) : Keeps p (taskLeave line p).1 := by
  unfold taskLeave
  split
  · exact .refl p
  · next e h =>
    obtain ⟨-, hm⟩ := (leavesLine_iff _ _ _).mp (List.find?_some h)
    exact chooseFirst_keeps (List.mem_of_find?_eq_some h) ((mayLeave_iff _ _).mp hm).2.1

theorem taskImmediateFailure_keeps (tag : Tag) (q : Port) (p : Part) : Keeps p (taskImmediateFailure tag q p).1 := by
  unfold taskImmediateFailure
  split
  · exact .refl p
  · dsimp only
    split
    · refine updateEntry_keeps fun _ x _ _ => ?_
      split <;> exact .of_state rfl rfl rfl rfl
    · exact .refl p

theorem taskFixTargets_keeps (tag : Tag) (p : Part) : Keeps p (taskFixTargets tag p).1 := by
  unfold taskFixTargets
  split
  · exact .refl p
  · next h =>
    dsimp only
    split
    · exact .refl p
    · next hm =>
      have hm := (mayLeave_iff _ _).mp (by simpa using hm)
      split
      · exact completeEntry_keeps _ (findEntry_listed h)
      · exact enterWaitingSlot_keeps _ (findEntry_mem h).1 hm.2.1

/-! ## Placement -/

/-- The entries of the tag are past WAITING_LINE. -/
def pastLine (p : Part) (tag : Tag) : Prop := tagsDistinct p → ∀ x ∈ p.table, x.tag = tag → x.state ≠ .waitingLine

theorem pastLine_of_table {p p' : Part} {tag : Tag} (h : pastLine p tag) (ht : p'.table = p.table) : pastLine p' tag := by
  unfold pastLine tagsDistinct; rw [ht]; exact h

theorem pastLine_of_mem {p : Part} {e : Entry} (he : e ∈ p.table) (hs : e.state ≠ .waitingLine) : pastLine p e.tag :=
  fun hd _ hx ht => eq_of_tag hd hx he ht ▸ hs

theorem becomeIssued_keeps {tag : Tag} {p : Part} (h : pastLine p tag) : Keeps p (becomeIssued tag p) :=
  updateEntry_keeps fun hd x hx ht => ⟨rfl, rfl, rfl, fun _ => .inl (h hd x hx ht)⟩

theorem heldSlot_mem {p : Part} {tag : Tag} {q : Port} {k : SlotIx} (h : heldSlot p tag q = some k) :
    (k, tag) ∈ (p.port q).held := by
  obtain ⟨⟨k', t'⟩, hf, rfl⟩ := Option.map_eq_some_iff.mp h
  have := List.find?_some hf
  obtain rfl : t' = tag := by simpa using this
  exact List.mem_of_find?_eq_some hf

@[simp] theorem table_placeTxn (q : Port) (k : SlotIx) (o : Origin) (op : Op) (a : DownAddr) (p : Part) :
    (placeTxn q k o op a p).table = p.table := by
  unfold placeTxn; dsimp only; split <;> rfl

@[simp] theorem table_placeAt (e : Entry) (p : Part) (q : Port) : (placeAt e p q).table = p.table := by
  unfold placeAt; split
  · exact table_placeTxn ..
  · rfl

theorem table_foldl_placeAt (e : Entry) (l : List Port) (p : Part) : (l.foldl (placeAt e) p).table = p.table := by
  induction l generalizing p with
  | nil => rfl
  | cons q qs ih => exact (ih _).trans (table_placeAt e p q)

theorem placeAt_keeps (e : Entry) (p : Part) (q : Port) : Keeps p (placeAt e p q) := by
  unfold placeAt
  split
  · next k h => exact placeTxn_keeps _ _ _ (.inl (List.mem_map_of_mem (f := (·.1)) (heldSlot_mem h)))
  · exact .refl p

theorem placeSingle_keeps {e : Entry} {q : Port} {k : SlotIx} {p : Part} (hk : mayPlace (p.port q) k)
    (h : pastLine p e.tag) : Keeps p (placeSingle e q k p) :=
  (placeTxn_keeps _ _ _ hk).trans (becomeIssued_keeps (pastLine_of_table h (table_placeTxn ..)))

/-- A new form that keeps each entry's place keeps the tag's entries past WAITING_LINE. -/
theorem pastLine_updateEntry {p : Part} {tag t : Tag} {f : Entry → Entry} (h : pastLine p tag)
    (hf : ∀ x, (f x).tag = x.tag ∧ (f x).state = x.state) : pastLine (updateEntry t f p) tag := by
  have hg : ∀ x : Entry, (if x.tag == t then f x else x).tag = x.tag ∧ (if x.tag == t then f x else x).state = x.state :=
    fun x => by split <;> simp [hf]
  intro hd y hy ht
  obtain ⟨x, hx, rfl⟩ := List.mem_map.mp hy
  have : (p.table.map (·.tag)).Nodup := by
    have ht : ((updateEntry t f p).table.map (·.tag)) = p.table.map (·.tag) := by
      rw [table_updateEntry, List.map_map]; exact List.map_congr_left fun x _ => (hg x).1
    exact ht ▸ hd
  rw [(hg x).2]
  exact h this x hx ((hg x).1 ▸ ht)

/-- The targets IN_SERVICE at placement (R55 step 2). -/
def targetsInService (e : Entry) (p : Part) : PortSet :=
  portSetOf (fun q => hasPort e.target q && mstate p e.region q == some .inService)

/-- The entry with its targets IN_SERVICE counted (R55 step 2). -/
def markCounted (e : Entry) (p : Part) : Part :=
  updateEntry e.tag (fun x => { x with counted := x.counted ||| targetsInService e p,
                                       inServiceAtPlacement := targetsInService e p }) p

/-- The five steps of R55 in order. -/
theorem placeMirror_eq (e : Entry) (p : Part) :
    placeMirror e p = (becomeIssued e.tag (allPorts.foldl (insertIfOut e) (allPorts.foldl (placementReport e)
      (markCounted e ((portsOf e.target).foldl (placeAt e) p)))), [.notice e.line (isFullLine e)]) := rfl

theorem markCounted_keeps (e : Entry) (p : Part) : Keeps p (markCounted e p) :=
  updateEntry_keeps fun _ _ _ _ => .of_state rfl rfl rfl rfl

theorem placeMirror_keeps {e : Entry} {p : Part} (h : pastLine p e.tag) : Keeps p (placeMirror e p).1 := by
  have hr := Aside.foldl (placementReport_aside e) allPorts
  have hi := Aside.foldl (insertIfOut_aside e) allPorts
  have hm : pastLine (markCounted e ((portsOf e.target).foldl (placeAt e) p)) e.tag :=
    pastLine_updateEntry (pastLine_of_table h (table_foldl_placeAt e _ p)) fun x => ⟨rfl, rfl⟩
  rw [placeMirror_eq]
  exact (Keeps.foldl (placeAt_keeps e) _ p).trans ((markCounted_keeps e _).trans ((hr _).keeps.trans
    ((hi _).keeps.trans (becomeIssued_keeps (pastLine_of_table (pastLine_of_table hm (hr _).table) (hi _).table)))))

theorem placeIfComplete_keeps {tag : Tag} {p : Part} (h : pastLine p tag) : Keeps p (placeIfComplete tag p).1 := by
  unfold placeIfComplete
  split
  · exact .refl p
  · next e he =>
    split
    · exact placeMirror_keeps ((findEntry_mem he).2 ▸ h)
    · exact .refl p

/-! ## Link loss and outcomes -/

theorem recordFail_reforms (p : Part) (q : Port) (why : Reason) (x : Entry) : Reforms p x (recordFail q why x) :=
  .of_state rfl rfl rfl rfl

theorem endWait_keeps {e : Entry} (q : Port) {p : Part} (he : e ∈ p.table) : Keeps p (endWait e q p).1 := by
  unfold endWait
  split
  · exact (updateEntry_keeps fun _ x _ _ => recordFail_reforms _ _ _ x).trans
      (completeEntry_keeps _ (listed_updateEntry (listed_of_mem he) fun _ _ => ⟨rfl, rfl⟩))
  · split <;> exact updateEntry_keeps fun _ x _ _ => .of_state rfl rfl rfl rfl

theorem taskServeLost_keeps (p : Part) : Keeps p (taskServeLost p).1 := by
  unfold taskServeLost
  split
  · exact .refl p
  · next h =>
    split
    · exact endWait_keeps _ (List.mem_of_find?_eq_some h)
    · exact .refl p

theorem taskAfterShrink_keeps (tag : Tag) (p : Part) : Keeps p (taskAfterShrink tag p).1 := by
  unfold taskAfterShrink
  split
  · exact .refl p
  · next e h =>
    split
    · exact .refl p
    · next hs =>
      split
      · exact completeEntry_keeps _ (findEntry_listed h)
      · refine placeIfComplete_keeps ?_
        obtain ⟨he, rfl⟩ := findEntry_mem h
        exact pastLine_of_mem he (by simp_all)

theorem taskRedirect_keeps (tag : Tag) (q : Port) (why : Reason) (p : Part) : Keeps p (taskRedirect tag q why p).1 := by
  unfold taskRedirect
  split
  · exact .refl p
  · next e h =>
    have hl := findEntry_listed h
    obtain ⟨he, rfl⟩ := findEntry_mem h
    split
    · exact freeEntry_keeps hl
    · split
      · exact .refl p
      · next hs =>
        split
        · next hc =>
          have ha := chooseRead_aside hc
          refine ha.keeps.trans ((updateEntry_keeps ?_).trans (post_aside _ _).keeps)
          refine fun hd x hx ht => ⟨rfl, rfl, rfl, fun _ => .inl ?_⟩
          exact pastLine_of_table (pastLine_of_mem he (by simpa using hs)) ha.table hd x hx ht
        · exact completeEntry_keeps _ hl

theorem taskAfterWriteFailure_keeps (tag : Tag) (q : Port) (p : Part) : Keeps p (taskAfterWriteFailure tag q p).1 := by
  unfold taskAfterWriteFailure
  split
  · exact .refl p
  · exact (insertIfOut_aside _ _ _).keeps.trans (finishWrite_keeps _ _)

theorem hostOk_keeps {e : Entry} (q : Port) (data : Option LineData) {p : Part} (he : e ∈ p.table) :
    Keeps p (hostOk e q data p).1 := by
  unfold hostOk
  dsimp only
  generalize he' : ({ e with ack := addPort e.ack q, readData := if e.kind == .read then data else e.readData } : Entry) = e'
  have hr : Reforms p e e' := he' ▸ .of_state rfl rfl rfl rfl
  have hu : Keeps p (updateEntry e.tag (fun _ => e') p) :=
    updateEntry_keeps fun hd x hx ht => eq_of_tag hd hx he ht ▸ hr
  split
  · exact hu.trans (finishWrite_keeps _ _)
  · refine hu.trans (finishEntry_keeps _ (listed_of_mem (List.mem_map.mpr ⟨e, he, ?_⟩)))
    simp

theorem hostFailed_keeps {e : Entry} (q : Port) (why : Reason) {p : Part} (he : e ∈ p.table) :
    Keeps p (hostFailed e q why p).1 := by
  have hu : Keeps p (updateEntry e.tag (recordFail q why) p) :=
    updateEntry_keeps fun _ x _ _ => recordFail_reforms _ _ _ x
  unfold hostFailed
  dsimp only
  split
  · refine hu.trans (finishEntry_keeps _ ?_)
    have : listed (updateEntry e.tag (recordFail q why) p) e := listed_updateEntry (listed_of_mem he) fun _ _ => ⟨rfl, rfl⟩
    exact this
  · exact hu

theorem takeHostOutcome_keeps (tag : Tag) (q : Port) (result : TxnResult) (p : Part) :
    Keeps p (takeHostOutcome tag q result p).1 := by
  unfold takeHostOutcome
  split
  · exact .refl p
  · next h =>
    have he := (findEntry_mem h).1
    split
    · split
      · exact hostOk_keeps q _ he
      · exact hostFailed_keeps q _ he
      · exact hostFailed_keeps q _ he
    · exact .refl p

/-! ## Copy engine -/

theorem endRunning_keeps (rest : List Job) (ev : Option EventBody) (p : Part) : Keeps p (endRunning rest ev p).1 :=
  (withdrawClaims_keeps p).trans ((releaseLineClaim_aside _).trans ((postEnd_aside ev _).trans
    ((jobs_aside _ rest).trans (setWindow_aside _ _)))).keeps

theorem leaveRunning_keeps (rest : List Job) (ev : Option EventBody) (p : Part) : Keeps p (leaveRunning rest ev p).1 :=
  endRunning_keeps rest ev p

theorem leaveCatchUp_keeps (q : Port) (ev : Option EventBody) (p : Part) : Keeps p (leaveCatchUp q ev p).1 := by
  unfold leaveCatchUp
  split
  · exact .refl p
  · split
    · exact leaveRunning_keeps _ _ _
    · exact ((postEnd_aside ev p).trans (jobs_aside _ _)).keeps

theorem taskReport_keeps (r : RegionIx) (q : Port) (why : Reason) (line : Option UpAddr) (p : Part) :
    Keeps p (taskReport r q why line p).1 := by
  unfold taskReport
  split
  · exact (takeReport_aside _ _ _ _ _).keeps.trans (leaveCatchUp_keeps _ _ _)
  · exact (takeReport_aside _ _ _ _ _).keeps

theorem linkLossWorks_keeps (q : Port) (why : Reason) (p : Part) : Keeps p (linkLossWorks q why p).1 := by
  unfold linkLossWorks
  split
  · exact (takeLinkLoss_aside q why p).keeps.trans (leaveCatchUp_keeps _ _ _)
  · dsimp only
    exact (takeLinkLoss_aside q why p).keeps

theorem taskHeadStart_keeps (p : Part) : Keeps p (taskHeadStart p).1 := by
  unfold taskHeadStart
  split
  · split
    · exact .refl p
    · dsimp only
      split
      · exact ((jobs_aside p _).trans (post_aside _ _)).keeps
      · exact (jobs_aside p _).keeps
  all_goals exact .refl p

theorem startLine_aside (job : WindowJob) (r : RegionIx) (e k : Nat) (p : Part) : Aside p (startLine job r e k p).1 :=
  setWindow_aside p _

theorem restartLine_aside (q : Port) (w : Window) (p : Part) : Aside p (restartLine q w p).1 := setWindow_aside p _

theorem abandonSource_keeps (q : Port) (p : Part) : Keeps p (abandonSource q p).1 :=
  (takeOutRejoining_aside _ _ _).keeps.trans (leaveRunning_keeps _ _ _)

theorem taskChooseSource_keeps (q : Port) (p : Part) : Keeps p (taskChooseSource q p).1 := by
  unfold taskChooseSource
  split
  · exact .refl p
  · split
    · exact abandonSource_keeps _ _
    · exact (setWindow_aside p _).keeps

theorem taskSelection_keeps (q : Port) (p : Part) : Keeps p (taskSelection q p).1 := by
  unfold taskSelection
  split
  · exact (startLine_aside _ _ _ _ _).keeps
  · exact (takeCompletion_aside _ _).keeps.trans (leaveRunning_keeps _ _ _)

theorem nextCatchUpLine_aside (q : Port) (w : Window) (p : Part) : Aside p (nextCatchUpLine q w p).1 := by
  unfold nextCatchUpLine
  split
  · split
    · exact startLine_aside _ _ _ _ _
    · exact .refl p
  · exact setDivList_aside p _ _

theorem taskLineDone_aside (q : Port) (p : Part) : Aside p (taskLineDone q p).1 := by
  unfold taskLineDone
  split
  · exact .refl p
  · split
    · exact (releaseLineClaim_aside p).trans (nextCatchUpLine_aside _ _ _)
    · exact .refl p

theorem taskCompareStart_keeps (p : Part) : Keeps p (taskCompareStart p).1 := by
  unfold taskCompareStart
  split
  · exact .refl p
  · dsimp only
    split
    · exact leaveRunning_keeps _ _ _
    · exact ((startLine_aside _ _ _ _ p).trans (setWindow_aside _ _)).keeps

theorem recordLine_keeps (d : PortSet) (w : Window) (p : Part) : Keeps p (recordLine d w p).1 := by
  unfold recordLine
  split
  · exact .refl p
  · dsimp only
    have h := fun (r : RegionIx) (a : UpAddr) (j : List Job) => ((postMismatch_aside d r a p).trans (jobs_aside _ j)).keeps
    split
    · exact h _ _ _
    · exact (h _ _ _).trans (leaveRunning_keeps _ _ _)

theorem compareLine_keeps (w : Window) (p : Part) : Keeps p (compareLine w p).1 := by
  unfold compareLine
  dsimp only
  split
  · exact .refl p
  · exact (releaseLineClaim_aside p).keeps.trans (recordLine_keeps _ _ _)

theorem compareProgress_keeps (p : Part) : Keeps p (compareProgress p).1 := by
  unfold compareProgress
  split
  · exact .refl p
  · split
    · split
      · exact .refl p
      · exact compareLine_keeps _ _
    · exact .refl p

theorem taskCopyFailed_aside (part : CopyPart) (q : Port) (why : Reason) (p : Part) :
    Aside p (taskCopyFailed part q why p).1 := by
  unfold taskCopyFailed
  split
  · exact .refl p
  · dsimp only
    split
    · exact .refl p
    · split
      all_goals exact .of_regions rfl rfl rfl

theorem taskAfterSourceFailure_keeps (t s : Port) (p : Part) : Keeps p (taskAfterSourceFailure t s p).1 := by
  unfold taskAfterSourceFailure
  split
  · exact .refl p
  · split
    · split
      · exact .refl p
      · split
        · exact abandonSource_keeps _ _
        · exact (restartLine_aside _ _ _).keeps
    · exact .refl p

theorem taskCloseCheck_aside (p : Part) : Aside p (taskCloseCheck p).1 := by
  unfold taskCloseCheck
  split
  · exact .refl p
  · split
    · exact setWindow_aside p _
    · exact .refl p

theorem sourceData_aside (t q : Port) (d : LineData) (w : Window) (p : Part) : Aside p (sourceData t q d w p).1 := by
  unfold sourceData
  split
  · exact .refl p
  · split
    · exact restartLine_aside _ _ _
    · split
      · exact restartLine_aside _ _ _
      · dsimp only
        split <;> exact setWindow_aside p _

theorem copyOk_keeps (part : CopyPart) (q : Port) (d : LineData) (p : Part) : Keeps p (copyOk part q d p).1 := by
  unfold copyOk
  split
  · exact .refl p
  · split
    · exact .refl p
    · split
      · exact (sourceData_aside _ _ _ _ _).keeps
      · exact .refl p
      · exact (setWindow_aside p _).keeps.trans (compareProgress_keeps _)
      all_goals exact .refl p

theorem takeCopyOutcome_keeps (part : CopyPart) (q : Port) (result : TxnResult) (p : Part) :
    Keeps p (takeCopyOutcome part q result p).1 := by
  unfold takeCopyOutcome
  split
  · exact copyOk_keeps _ _ _ _
  all_goals exact .refl p

theorem taskClaimLost_keeps (q : Port) (p : Part) : Keeps p (taskClaimLost q p).1 := by
  unfold taskClaimLost
  split
  · exact .refl p
  · exact withdrawClaimAt_keeps _ _

theorem noticeReading_keeps (t : Port) (full : Bool) (w : Window) (p : Part) : Keeps p (noticeReading t full w p).1 := by
  unfold noticeReading
  split
  · exact .refl p
  · split
    · split
      · exact (setWindow_aside p _).keeps
      · exact ((overtaken_aside w p).trans (setWindow_aside _ _)).keeps
    · split
      · exact (withdrawClaimAt_keeps _ _).trans (setWindow_aside _ _).keeps
      · exact ((overtaken_aside w p).keeps.trans (withdrawClaimAt_keeps _ _)).trans (restartLine_aside _ _ _).keeps

theorem taskNotice_keeps (line : UpAddr) (full : Bool) (p : Part) : Keeps p (taskNotice line full p).1 := by
  unfold taskNotice
  split
  · exact .refl p
  · split
    · split
      · exact noticeReading_keeps _ _ _ _
      · exact ((overtaken_aside _ p).trans (setWindow_aside _ _)).keeps
    · exact .refl p

theorem taskDrainCheck_keeps (r : RegionIx) (p : Part) : Keeps p (taskDrainCheck r p).1 := by
  unfold taskDrainCheck
  split
  · next h =>
    obtain ⟨-, h0, -⟩ := (drained_iff r p).mp h
    have ha := purgeRegion_aside r p
    exact ha.keeps.trans ((setRegion_keeps (.inr ⟨rfl, .inl ((ha.inFlight r).trans h0)⟩)).trans
      ((jobs_aside _ _).trans (post_aside _ _)).keeps)
  · exact .refl p

/-! ## Events -/

/-- Every work of an event keeps the invariants of the request table and of the ports. -/
theorem runTask_keeps (t : Task) (p : Part) : Keeps p (runTask t p).1 := by
  cases t with
  | leave line => exact taskLeave_keeps _ _
  | immediateFailure tag q => exact taskImmediateFailure_keeps _ _ _
  | fixTargets tag => exact taskFixTargets_keeps _ _
  | giveBack q => exact taskGiveBack_keeps _ _
  | serveLost => exact taskServeLost_keeps _
  | redirect tag q why => exact taskRedirect_keeps _ _ _ _
  | afterShrink tag => exact taskAfterShrink_keeps _ _
  | afterWriteFailure tag q => exact taskAfterWriteFailure_keeps _ _ _
  | report r q why line => exact taskReport_keeps _ _ _ _ _
  | drainCheck r => exact taskDrainCheck_keeps _ _
  | headStart => exact taskHeadStart_keeps _
  | selection q => exact taskSelection_keeps _ _
  | chooseSource q => exact taskChooseSource_keeps _ _
  | lineDone q => exact (taskLineDone_aside _ _).keeps
  | afterSourceFailure t s => exact taskAfterSourceFailure_keeps _ _ _
  | compareStart => exact taskCompareStart_keeps _
  | afterCompareFailure => exact compareProgress_keeps _
  | closeCheck => exact (taskCloseCheck_aside _).keeps
  | claimLost q => exact taskClaimLost_keeps _ _
  | copyFailed part q why => exact (taskCopyFailed_aside _ _ _ _).keeps
  | notice line full => exact taskNotice_keeps _ _ _
  | posting b => exact (post_aside _ _).keeps

theorem settle_keeps (a : Act) : Keeps a.1 (settle a) :=
  runAgenda_keeps Keeps.refl (fun _ _ _ => Keeps.trans) runTask_keeps _ _ _

/-- What holds up to the works of an event holds after them. -/
theorem Keeps.settle {p : Part} {a : Act} (h : Keeps p a.1) : Keeps p (settle a) := h.trans (settle_keeps a)

end Sys2Proof.Machine
end

section
/-! SUPPORT. Every command keeps the invariants of the request table and of the ports, and so does a step. -/

namespace Sys2Proof.Machine

/-! ## Host channel and resets -/

theorem newEntry_keeps {tag : Tag} {line : UpAddr} {r : RegionIx} {p : Part} (op : Op) (ht : findEntry p tag = none)
    (hr : (p.region r).state = .live) : Keeps p (createEntry tag op line r p) := by
  refine Keeps.settle (admit_keeps (e := newEntry tag op line r) (fun x hx => ?_) rfl ?_)
  · show x.tag ≠ tag
    simpa using List.find?_eq_none.mp ht x hx
  · show inUse (p.region r) = true
    simp [inUse, hr]

theorem answerUnmapped_keeps (tag : Tag) (line : UpAddr) (p : Part) : Keeps p (answerUnmapped tag line p) :=
  ((out_aside p _).trans (post_aside _ _)).keeps

theorem takeRequest_keeps (tag : Tag) (op : Op) (line : UpAddr) (p : Part) : Keeps p (takeRequest tag op line p) := by
  unfold takeRequest
  split
  · exact .refl p
  · split
    · exact (post_aside _ _).keeps
    · next ht =>
      split
      · split
        · next hr => exact newEntry_keeps op (by simpa using ht) (by simpa using hr)
        · exact answerUnmapped_keeps _ _ _
      · exact answerUnmapped_keeps _ _ _

@[simp] theorem table_releaseHeldAt (tag : Tag) (p : Part) (q : Port) : (releaseHeldAt tag p q).table = p.table := by
  unfold releaseHeldAt; dsimp only; split <;> rfl

@[simp] theorem table_releaseHeld (tag : Tag) (p : Part) : (releaseHeld tag p).table = p.table := by
  simp [releaseHeld, allPorts]

theorem table_dropWaiting (p : Part) (e : Entry) : (dropWaiting p e).table = p.table.filter (fun x => x.tag != e.tag) := by
  simp [dropWaiting]

theorem dropWaiting_keeps {p : Part} {e : Entry} (h : listed p e) : Keeps p (dropWaiting p e) :=
  (releaseHeld_keeps _ _).trans (free_keeps (listed_of_table h (table_releaseHeld _ _)))

theorem port_dropWaiting (p : Part) (e : Entry) (q : Port) : (dropWaiting p e).port q = (releaseHeld e.tag p).port q := by
  simp [dropWaiting, lowerInFlight, removeEntry]

theorem foldl_dropWaiting_ports (q : Port) (l : List Entry) (p : Part) :
    PortKeeps (p.port q) ((l.foldl dropWaiting p).port q) := by
  induction l generalizing p with
  | nil => exact .refl _
  | cons e l ih =>
    rw [List.foldl_cons]
    have h := (releaseHeld_keeps e.tag p).port q
    rw [← port_dropWaiting] at h
    exact h.trans (ih _)

/-- Entries with distinct tags leave one after the other; each is in the table at its turn. -/
theorem foldl_dropWaiting_keeps (l : List Entry) (p : Part) (hm : ∀ e ∈ l, e ∈ p.table) (hn : (l.map (·.tag)).Nodup) :
    Keeps p (l.foldl dropWaiting p) := by
  induction l generalizing p with
  | nil => exact .refl p
  | cons e l ih =>
    rw [List.map_cons, List.nodup_cons] at hn
    rw [List.foldl_cons]
    refine (dropWaiting_keeps (listed_of_mem (hm e (List.mem_cons_self ..)))).trans (ih _ (fun x hx => ?_) hn.2)
    rw [table_dropWaiting, List.mem_filter]
    refine ⟨hm x (List.mem_cons_of_mem _ hx), ?_⟩
    simpa using fun (hc : x.tag = e.tag) => hn.1 (hc ▸ List.mem_map_of_mem hx)

theorem dropUnplaced_keeps (p : Part) : Keeps p ((p.table.filter unplaced).foldl dropWaiting p) where
  distinct h := (foldl_dropWaiting_keeps _ p (fun _ he => (List.mem_filter.mp he).1)
    (h.sublist (List.filter_sublist.map _))).distinct h
  table h := (foldl_dropWaiting_keeps _ p (fun _ he => (List.mem_filter.mp he).1)
    (h.1.sublist (List.filter_sublist.map _))).table h
  line h := (foldl_dropWaiting_keeps _ p (fun _ he => (List.mem_filter.mp he).1)
    (h.1.sublist (List.filter_sublist.map _))).line h
  port q := foldl_dropWaiting_ports q _ p

theorem orphan_reforms (p : Part) (e : Entry) : Reforms p e (orphan e) := by
  unfold orphan
  split
  · next h => exact ⟨rfl, rfl, rfl, fun _ => .inl (by simp_all)⟩
  · exact .refl p e

theorem hostReset_keeps (p : Part) : Keeps p (hostReset p) :=
  Keeps.settle ((dropUnplaced_keeps p).trans (setTable_map_keeps fun _ x _ => orphan_reforms _ x))

theorem assertHrst_keeps (p : Part) : Keeps p (assertHrst p) := by
  have h : Keeps p { p with hrst := true } := keeps_of_same rfl rfl rfl
  unfold assertHrst
  split
  · exact .refl p
  · split
    · exact h
    · exact h.trans (hostReset_keeps _)

/-! ## Links -/

theorem postAll_keeps (bs : List EventBody) (p : Part) : Keeps p (postAll bs p) := (postAll_aside bs p).keeps

theorem reachTime_aside (t : Nat) (p : Part) : Aside p (reachTime t p) := .of_regions rfl rfl rfl

/-- A link enters FAILED or OFF: the queue and the held slots are emptied, the timers stopped (R85). -/
theorem PortKeeps.lose {l : Link} (hl : linkDown l = true) (x : PortState) :
    PortKeeps x { x with link := l, queue := [], held := [], trainingSince := none, wakeSince := none,
                         silenceSince := none, passOver := 0 } where
  slots _ := List.nodup_nil
  tags _ := List.nodup_nil
  sound h := by
    obtain ⟨-, -, -, -, -, -, h7, h8, h9, h10, -⟩ := h
    have ht : l ≠ .training := by rintro rfl; simp [linkDown] at hl
    have hw : l ≠ .waking := by rintro rfl; simp [linkDown] at hl
    exact ⟨fun _ => ⟨rfl, rfl, rfl⟩, fun _ => ⟨rfl, rfl⟩, by simp [ht], by simp [hw], by simp, by simp, h7, h8, h9, h10,
      by simp⟩

theorem loseLink_keeps (q : Port) {dest : Link} (hl : linkDown dest = true) (why : Reason) (bs : List EventBody) (p : Part) :
    Keeps p (loseLink q dest why bs p) := by
  have hd : Keeps p (dropLink q dest why p) :=
    (setPort_keeps (PortKeeps.lose hl (p.port q))).trans (keeps_of_same rfl rfl rfl)
  exact Keeps.settle (hd.trans (postAll_keeps bs _))

theorem failLink_keeps (q : Port) (p : Part) : Keeps p (failLink q p) := loseLink_keeps q rfl _ _ _

/-- PENDING entries become SENT (R81). -/
def markSent (now : Nat) (t : QEntry) : QEntry := if t.sentAt.isNone then { t with sentAt := some now } else t

/-- A port as it enters ACTIVE (R80 to R83). -/
def PortState.activated (now : Nat) (x : PortState) : PortState :=
  restartSilence now { x with link := .active, trainingSince := none, wakeSince := none,
                              queue := x.queue.map (markSent now) }

theorem enterActive_eq (q : Port) (p : Part) :
    enterActive q p = (p.setPort q ((p.port q).activated p.now)).puts
      (((p.port q).queue.filter (fun t => t.sentAt.isNone)).map (fun t => Output.send q t.slot t.op t.addr)) := by
  have hm : (fun t : QEntry => if t.sentAt.isNone then { t with sentAt := some p.now } else t) = markSent p.now := rfl
  simp only [enterActive, sendPending, port_setPort_self, now_setPort, trace_setPort, hm]
  simp [PortState.activated, Part.setPort, Part.port, Part.puts]

theorem markSent_slot (now : Nat) (t : QEntry) : (markSent now t).slot = t.slot := by
  unfold markSent; split <;> rfl

theorem markSent_sent (now : Nat) (t : QEntry) : (markSent now t).sentAt.isSome = true := by
  unfold markSent
  split
  · rfl
  · next h => simpa [Option.isSome_iff_ne_none] using h

theorem PortKeeps.activate (now : Nat) (x : PortState) : PortKeeps x (x.activated now) where
  slots h := by
    have : (x.queue.map (markSent now)).map (·.slot) = x.queue.map (·.slot) := by
      rw [List.map_map]; exact List.map_congr_left fun t _ => markSent_slot now t
    simpa [slotsDistinct, PortState.activated, restartSilence, ← List.map_map, this] using h
  tags h := h
  sound h := portSound_restartSilence now (by
    obtain ⟨-, -, -, -, -, -, h7⟩ := h
    refine ⟨by simp [linkDown], by simp, by simp, by simp, by simp, fun t ht => ?_, h7⟩
    obtain ⟨u, -, rfl⟩ := List.mem_map.mp ht
    simp [markSent_sent])

theorem enterActive_keeps (q : Port) (p : Part) : Keeps p (enterActive q p) := by
  rw [enterActive_eq]
  exact (setPort_keeps (PortKeeps.activate _ _)).trans (puts_aside _ _).keeps

theorem deviceReady_keeps (q : Port) (p : Part) : Keeps p (deviceReady q p) := by
  unfold deviceReady
  split
  · exact (enterActive_keeps q p).trans (post_aside _ _).keeps
  · exact enterActive_keeps q p
  all_goals exact .refl p

theorem trainingExpiry_keeps (q : Port) (p : Part) : Keeps p (trainingExpiry q p) := by
  unfold trainingExpiry
  split
  · exact (reachTime_aside _ p).keeps.trans (loseLink_keeps q rfl _ _ _)
  · exact .refl p

/-- An idle link goes to sleep when its silence timer expires (R82). -/
theorem PortKeeps.sleep {x : PortState} (hs : x.silenceSince.isSome = true) :
    PortKeeps x { x with link := .drowsy, silenceSince := none } where
  slots := id
  tags := id
  sound h := by
    obtain ⟨-, -, h3, h4, h5, -, h7⟩ := h
    obtain ⟨hl, -, ho⟩ := h5 hs
    obtain ⟨hq, hh⟩ := occupancy_eq_zero.mp ho
    have ht : x.trainingSince = none := by simpa [hl] using h3
    have hw : x.wakeSince = none := by simpa [hl] using h4
    exact ⟨by simp [linkDown], by simp [hq, hh], by simp [ht], by simp [hw], by simp, by simp [hq], h7⟩

theorem silenceExpiry_keeps (q : Port) (p : Part) : Keeps p (silenceExpiry q p) := by
  unfold silenceExpiry
  dsimp only
  split
  · next hs _ =>
    exact (reachTime_aside _ p).keeps.trans ((setPort_keeps (PortKeeps.sleep (by
      show (p.port q).silenceSince.isSome = true
      simp [hs]))).trans (out_keeps _ _))
  · exact .refl p

theorem wakeExpiry_keeps (q : Port) (p : Part) : Keeps p (wakeExpiry q p) := by
  unfold wakeExpiry
  split
  · exact (reachTime_aside _ p).keeps.trans (loseLink_keeps q rfl _ _ _)
  · exact .refl p

theorem linkError_keeps (q : Port) (p : Part) : Keeps p (linkError q p) := by
  unfold linkError
  split
  · exact failLink_keeps q p
  · exact failLink_keeps q p
  · exact failLink_keeps q p
  all_goals exact .refl p

theorem responseExpiry_keeps (q : Port) (p : Part) : Keeps p (responseExpiry q p) := by
  unfold responseExpiry
  split
  · exact (reachTime_aside _ p).keeps.trans (loseLink_keeps q rfl _ _ _)
  · exact .refl p

theorem takeResponse_keeps (q : Port) (t : QEntry) (result : TxnResult) (p : Part) : Keeps p (takeResponse q t result p) :=
  (setPort_keeps (PortKeeps.answer _ _ _)).trans (keeps_of_same rfl rfl rfl)

theorem deviceResponse_keeps (q : Port) (k : SlotIx) (resp : DevResponse) (p : Part) :
    Keeps p (deviceResponse q k resp p) := by
  unfold deviceResponse
  dsimp only
  split
  · exact .refl p
  · split
    · exact .refl p
    · split
      · exact takeResponse_keeps _ _ _ _
      · exact failLink_keeps q p

/-! ## Grants -/

theorem startWake_keeps (q : Port) (p : Part) : Keeps p (startWake q p) := by
  unfold startWake
  dsimp only
  split
  · next h => exact (setPort_keeps (PortKeeps.wake _ (by simpa using h))).trans (out_keeps _ _)
  · exact .refl p

/-- The port after a wake that a grant starts (R83). -/
theorem startWake_port (q : Port) (p : Part) :
    (startWake q p).port q = { p.port q with
      link := linkAfterGrant (p.port q).link
      wakeSince := if (p.port q).link = .drowsy then some p.now else (p.port q).wakeSince } := by
  by_cases h : (p.port q).link = .drowsy <;> simp [startWake, linkAfterGrant, h]

theorem linkAfterGrant_up {l : Link} (h : linkDown l = false) : linkDown (linkAfterGrant l) = false := by
  revert h; cases l <;> decide

theorem linkAfterGrant_awake (l : Link) : linkAfterGrant l ≠ .drowsy := by cases l <;> decide

@[simp] theorem table_startWake (q : Port) (p : Part) : (startWake q p).table = p.table := by
  unfold startWake; dsimp only; split <;> rfl

theorem holdSlot_keeps {q : Port} {k : SlotIx} {tag : Tag} {engineWaits : Bool} {p : Part}
    (hk : slotFree (p.port q) k = true) (ht : heldSlot p tag q = none) (hl : linkDown (p.port q).link = false)
    (hd : (p.port q).link ≠ .drowsy) (hn : engineWaits = true → (p.port q).passOver < (p.port q).weight) :
    Keeps p (holdSlot q k tag engineWaits p) := by
  refine setPort_keeps (PortKeeps.hold hk ((heldSlot_none p tag q).mp ht) hl hd ?_)
  split
  · next h => exact .inr ⟨rfl, hn h⟩
  · exact .inl rfl

theorem holdSlot_port (q : Port) (k : SlotIx) (tag : Tag) (engineWaits : Bool) (p : Part) :
    (holdSlot q k tag engineWaits p).port q = { p.port q with
      held := (p.port q).held ++ [(k, tag)], silenceSince := none,
      passOver := if engineWaits then (p.port q).passOver + 1 else (p.port q).passOver } := by
  simp [holdSlot]

theorem grantEngine_keeps {q : Port} {k : SlotIx} (c : Claim) {p : Part} (hk : slotFree (p.port q) k = true)
    (hl : linkDown (p.port q).link = false) : Keeps p (grantEngine q k c p).1 := by
  refine (startWake_keeps q p).trans ((clearPassOver_keeps q _).trans ((placeTxn_keeps _ _ _ ?_).trans
    (setWindow_aside _ _).keeps))
  rw [clearPassOver, port_setPort_self, startWake_port]
  exact .inr ⟨hk, linkAfterGrant_up hl, linkAfterGrant_awake _⟩

theorem presented_spec {p : Part} {q : Port} {e : Entry} (h : presented p q = some e) :
    e ∈ p.table ∧ e.state = .waitingSlot ∧ hasPort e.target q = true ∧ heldSlot p e.tag q = none := by
  have := List.find?_some h
  simp only [waitsOn, Bool.and_eq_true, beq_iff_eq, Option.isNone_iff_eq_none, and_assoc] at this
  exact ⟨List.mem_of_find?_eq_some h, this⟩

theorem grantDispatcher_keeps {q : Port} {k : SlotIx} {e : Entry} {p : Part} (hk : slotFree (p.port q) k = true)
    (hl : linkDown (p.port q).link = false) (he : presented p q = some e) (hg : grantsToEngine p q = false) :
    Keeps p (grantDispatcher q k e p).1 := by
  obtain ⟨hm, hs, -, hn⟩ := presented_spec he
  have hh : Keeps (startWake q p) (holdSlot q k e.tag (copyClaimAt p q).isSome (startWake q p)) := by
    refine holdSlot_keeps ?_ ?_ ?_ ?_ ?_
    · rw [startWake_port]; exact hk
    · rw [heldSlot, startWake_port]; exact hn
    · rw [startWake_port]; exact linkAfterGrant_up hl
    · rw [startWake_port]; exact linkAfterGrant_awake _
    · rw [startWake_port]
      intro hc
      simpa [grantsToEngine, hc, dispatcherWaits, he] using hg
  have hp : pastLine (holdSlot q k e.tag (copyClaimAt p q).isSome (startWake q p)) e.tag :=
    pastLine_of_table (pastLine_of_mem hm (by simp [hs])) (table_startWake q p)
  refine (startWake_keeps q p).trans (hh.trans ?_)
  unfold grantDispatcher
  dsimp only
  split
  · exact placeIfComplete_keeps hp
  · refine placeSingle_keeps (.inl ?_) hp
    rw [holdSlot_port]
    simp

theorem grantAct_keeps (q : Port) (k : SlotIx) (p : Part) : Keeps p (grantAct q k p).1 := by
  unfold grantAct
  split
  · exact .refl p
  · next h =>
    obtain ⟨hl, hk⟩ : portDown p q = false ∧ slotFree (p.port q) k = true := by simpa using h
    split
    · split
      · exact grantEngine_keeps _ hk hl
      · exact .refl p
    · next hg =>
      split
      · next he => exact grantDispatcher_keeps hk hl he (by simpa using hg)
      · exact .refl p

/-! ## What the owners take -/

theorem handed_aside (p : Part) (l : List Handed) : Aside p { p with handed := l } := .of_regions rfl rfl rfl

theorem hostOutcome_keeps (q : Port) (p : Part) : Keeps p (hostOutcome q p) := by
  unfold hostOutcome
  split
  · split
    · exact Keeps.settle ((handed_aside p _).keeps.trans (takeHostOutcome_keeps _ _ _ _))
    · exact .refl p
  · exact .refl p

theorem copyOutcome_keeps (q : Port) (p : Part) : Keeps p (copyOutcome q p) := by
  unfold copyOutcome
  split
  · split
    · exact Keeps.settle ((handed_aside p _).keeps.trans (takeCopyOutcome_keeps _ _ _ _))
    · exact .refl p
  · exact .refl p

theorem lossClaims_aside (p : Part) (l : List (Port × Reason)) : Aside p { p with lossClaims := l } := .of_regions rfl rfl rfl

theorem linkLossClaim_keeps (q : Port) (p : Part) : Keeps p (linkLossClaim q p) := by
  unfold linkLossClaim
  split
  · exact Keeps.settle ((lossClaims_aside p _).keeps.trans (linkLossWorks_keeps _ _ _))
  · exact .refl p

/-! ## Management commands -/

/-- The command keeps the invariants in every part. -/
def Command.Safe (run : Command) : Prop := ∀ p, Keeps p (run p).1

@[simp] theorem done_fst (p : Part) : (done p).1 = p := rfl

theorem refuse_safe (st : Status) : Command.Safe (refuse st) := fun p => .refl p

theorem cmdRegionStage_safe (x : StageRecord) : Command.Safe (cmdRegionStage x) := fun p => by
  unfold cmdRegionStage
  split
  · exact .refl p
  · next r _ =>
    split
    · exact .refl p
    · split
      · exact .refl p
      · next hu =>
        split
        · next y hy =>
          refine setRegion_keeps (.inr ⟨?_, .inr (by simpa using hu)⟩)
          unfold stagedRegion at hy
          split at hy
          · split at hy
            · rw [← Option.some.inj hy]; rfl
            · simp at hy
          · simp at hy
        · exact .refl p

theorem commitRegion_keeps {r : RegionIx} (init : Init) (primary : Byte) {p : Part} (h : (p.region r).state = .staged) :
    Keeps p (commitRegion r init primary p) := by
  have h1 : Keeps p (p.setRegion r (committed p (p.region r) init primary)) :=
    setRegion_keeps (.inr ⟨rfl, .inr (by simp [inUse, h])⟩)
  have h2 := fun l => Aside.foldl (f := fun p q => insertRegion r q p) (fun p q => insertRun_aside q _ p) l
  have h3 := fun l => Aside.foldl (f := fun p q => requestCatchUp q p) (fun p q => requestCatchUp_aside q p) l
  exact Keeps.settle (h1.trans ((h2 _ _).trans ((post_aside _ _).trans (h3 _ _))).keeps)

theorem cmdRegionCommit_safe (region init primary reserved : Byte) :
    Command.Safe (cmdRegionCommit region init primary reserved) := fun p => by
  unfold cmdRegionCommit
  split
  · exact .refl p
  · split
    · split
      · exact .refl p
      · next hc =>
        refine commitRegion_keeps _ _ ?_
        unfold commitRefusal at hc
        dsimp only at hc
        split at hc
        · simp at hc
        · next hs => simpa using hs
    · exact .refl p

theorem endComparesOf_keeps (r : RegionIx) (p : Part) : Keeps p (endComparesOf r p).1 := by
  unfold endComparesOf
  split
  · split
    · exact endRunning_keeps _ _ _
    · exact .refl p
  · exact .refl p

theorem retireFollowers_keeps (r : RegionIx) (p : Part) : Keeps p (retireFollowers r p).1 :=
  (endComparesOf_keeps r p).trans (endQueuedCompares_aside _ _).keeps

theorem retireRegion_keeps {r : RegionIx} {p : Part} (h : (p.region r).state = .live) : Keeps p (retireRegion r p) :=
 by
  have hr : Keeps p (p.setRegion r { p.region r with state := .retiring }) :=
    setRegion_keeps (.inl ⟨rfl, by simp [inUse, h]⟩)
  exact Keeps.settle (hr.trans (retireFollowers_keeps r _))

theorem cmdRegionRetire_safe (region reserved : Byte) : Command.Safe (cmdRegionRetire region reserved) := fun p => by
  unfold cmdRegionRetire
  split
  · exact .refl p
  · split
    · exact .refl p
    · split
      · exact .refl p
      · next h => exact retireRegion_keeps (by simpa using h)

theorem cmdRegionRead_safe (region reserved : Byte) : Command.Safe (cmdRegionRead region reserved) := fun p => by
  unfold cmdRegionRead
  split
  · exact .refl p
  · split <;> exact .refl p

/-- Bring-up begins at a link that is FAILED or OFF (R79). -/
theorem PortKeeps.enable (t : Nat) {x : PortState} (hl : linkDown x.link = true) :
    PortKeeps x { x with link := .training, trainingSince := some t } where
  slots := id
  tags := id
  sound h := by
    obtain ⟨h1, -, -, h4, h5, -, h7⟩ := h
    obtain ⟨hq, -, -⟩ := h1 hl
    have hw : x.wakeSince = none := by cases hc : x.link <;> simp_all [linkDown]
    have hs : x.silenceSince = none := by
      cases hc : x.silenceSince with
      | none => rfl
      | some v => have := (h5 (by simp [hc])).1; simp [this, linkDown] at hl
    exact ⟨by simp [linkDown], by simp, by simp, by simp [hw], by simp [hs], by simp [hq], h7⟩

theorem cmdPortEnable_safe (port reserved : Byte) : Command.Safe (cmdPortEnable port reserved) := fun p => by
  unfold cmdPortEnable
  split
  · exact .refl p
  · split
    · next h => exact (setPort_keeps (PortKeeps.enable _ h)).trans (out_keeps _ _)
    · exact .refl p

theorem cmdPortDisable_safe (port reserved : Byte) : Command.Safe (cmdPortDisable port reserved) := fun p => by
  unfold cmdPortDisable
  split
  · exact .refl p
  · split
    · exact .refl p
    · split
      · exact .refl p
      · show Keeps p (disablePort _ p)
        unfold disablePort
        split
        · exact .refl p
        · exact (out_keeps _ _).trans (loseLink_keeps _ rfl _ _ _)

/-- New settings that fit (R97). -/
theorem PortKeeps.setUp (now : Nat) {timeout silence weight : Byte} (h : settingsFit timeout silence weight = true)
    (x : PortState) : PortKeeps x (setUpPort now timeout.toNat silence.toNat weight.toNat x) := by
  obtain ⟨⟨⟨ht, hs⟩, hw⟩, hw'⟩ : ((timeout.toNat ≤ 5 ∧ silence.toNat ≤ 4) ∧ 1 ≤ weight.toNat) ∧ weight.toNat ≤ 15 := by
    simpa [settingsFit] using h
  unfold setUpPort
  dsimp only
  split
  · next he =>
    refine ⟨id, id, fun hx => ?_⟩
    obtain ⟨h1, h2, h3, h4, h5, h6, -, h8, -, -, h11⟩ := hx
    have he := beq_iff_eq.mp he
    exact ⟨h1, h2, h3, h4, he ▸ h5, h6, ht, hs, hw, hw', h11⟩
  · refine ⟨id, id, fun hx => portSound_restartSilence now ?_⟩
    obtain ⟨h1, h2, h3, h4, -, h6, -, -, -, -, h11⟩ := hx
    exact ⟨h1, h2, h3, h4, by simp, h6, ht, hs, hw, hw', h11⟩

theorem cmdPortSetup_safe (port timeout silence weight : Byte) :
    Command.Safe (cmdPortSetup port timeout silence weight) := fun p => by
  unfold cmdPortSetup
  split
  · exact .refl p
  · split
    · next h => exact setPort_keeps (PortKeeps.setUp _ h _)
    · exact .refl p

theorem cmdPortRead_safe (port : Byte) : Command.Safe (cmdPortRead port) := fun p => by
  unfold cmdPortRead
  split <;> exact .refl p

theorem detachPort_keeps (q : Port) (p : Part) : Keeps p (detachPort q p) := by
  have h := (Aside.foldl (detachAt_aside q) allRegions p).keeps
  exact Keeps.settle (h.trans (leaveCatchUp_keeps q none _))

theorem cmdDetach_safe (port reserved : Byte) : Command.Safe (cmdDetach port reserved) := fun p => by
  unfold cmdDetach
  split
  · exact .refl p
  · split
    · exact .refl p
    · rw [done_fst]
      exact detachPort_keeps _ p

theorem addTarget_reforms (p : Part) (r : RegionIx) (q : Port) (e : Entry) : Reforms p e (addTarget r q e) := by
  unfold addTarget
  split
  · exact .of_state rfl rfl rfl rfl
  · exact .refl p e

theorem rejoinAt_keeps (q : Port) (p : Part) (r : RegionIx) : Keeps p (rejoinAt q p r) := by
  unfold rejoinAt
  split
  · exact (setMState_aside _ _ _ _).keeps.trans (setTable_map_keeps fun _ x _ => addTarget_reforms _ r q x)
  · exact .refl p

theorem rejoinPort_keeps (q : Port) (p : Part) : Keeps p (rejoinPort q p) := by
  have h := Keeps.foldl (rejoinAt_keeps q) allRegions p
  refine Keeps.settle ?_
  dsimp only
  exact h.trans (requestCatchUp_aside q _).keeps

theorem cmdRejoin_safe (port reserved : Byte) : Command.Safe (cmdRejoin port reserved) := fun p => by
  unfold cmdRejoin
  split
  · exact .refl p
  · split
    · rw [done_fst]
      exact rejoinPort_keeps _ p
    · exact .refl p

theorem cmdDivergenceRead_safe (port start : Byte) : Command.Safe (cmdDivergenceRead port start) := fun p => by
  unfold cmdDivergenceRead
  split <;> exact .refl p

theorem cmdCompare_safe (region : Byte) (first count : BitVec 24) : Command.Safe (cmdCompare region first count) :=
  fun p => by
    unfold cmdCompare
    split
    · exact .refl p
    · split
      · exact .refl p
      · split
        · exact .refl p
        · dsimp only
          refine Keeps.settle ?_
          exact (jobs_aside p _).keeps

theorem cmdJobRead_safe : Command.Safe cmdJobRead := fun p => .refl p

theorem cancelJob_keeps (i : Nat) (j : Job) (c : CompareJob) (p : Part) : Keeps p (cancelJob i j c p) := by
  unfold cancelJob
  split
  · exact Keeps.settle (leaveRunning_keeps _ _ _)
  · exact Keeps.settle ((post_aside _ p).trans (jobs_aside _ _)).keeps

theorem cmdJobCancel_safe (position : Byte) : Command.Safe (cmdJobCancel position) := fun p => by
  unfold cmdJobCancel
  split
  · exact .refl p
  · split
    · exact .refl p
    · exact cancelJob_keeps _ _ _ _

theorem mgmt_aside (p : Part) (m : Mgmt) : Aside p { p with mgmt := m } := .of_regions rfl rfl rfl
theorem events_aside (p : Part) (u : EventUnit) : Aside p { p with events := u } := .of_regions rfl rfl rfl

theorem cmdIdent_safe : Command.Safe cmdIdent := fun p => .refl p
theorem cmdStatus_safe : Command.Safe cmdStatus := fun p => .refl p
theorem cmdSetKey_safe (key : Byte) : Command.Safe (cmdSetKey key) := fun p => (mgmt_aside p _).keeps

theorem cmdEventFetch_safe (n : Byte) : Command.Safe (cmdEventFetch n) := fun p => by
  unfold cmdEventFetch
  split
  · exact .refl p
  · exact (events_aside p _).keeps

theorem cmdFaultClear_safe (flags : BitVec 16) : Command.Safe (cmdFaultClear flags) := fun p => by
  unfold cmdFaultClear
  split
  · exact (events_aside p _).keeps
  · exact .refl p

theorem cmdFaultMask_safe (flags : BitVec 16) : Command.Safe (cmdFaultMask flags) := fun p => by
  unfold cmdFaultMask
  split
  · exact (events_aside p _).keeps
  · exact .refl p

theorem ownerCommand_safe (code : Byte) (d : List Byte) : Command.Safe (ownerCommand code d) := by
  unfold ownerCommand
  split
  · exact cmdIdent_safe
  · exact cmdStatus_safe
  · exact cmdSetKey_safe _
  · exact cmdRegionStage_safe _
  · exact cmdRegionCommit_safe _ _ _ _
  · exact cmdRegionRetire_safe _ _
  · exact cmdRegionRead_safe _ _
  · exact cmdPortEnable_safe _ _
  · exact cmdPortDisable_safe _ _
  · exact cmdPortSetup_safe _ _ _ _
  · exact cmdPortRead_safe _
  · exact cmdDetach_safe _ _
  · exact cmdRejoin_safe _ _
  · exact cmdDivergenceRead_safe _ _
  · exact cmdCompare_safe _ _ _
  · exact cmdJobRead_safe
  · exact cmdJobCancel_safe _
  · exact cmdEventFetch_safe _
  · exact cmdFaultClear_safe _
  · exact cmdFaultMask_safe _
  · exact refuse_safe _

theorem testedCommand_safe (code declared : Byte) (d : List Byte) : Command.Safe (testedCommand code declared d) := by
  unfold testedCommand
  split
  · exact refuse_safe _
  · split
    · exact refuse_safe _
    · split
      · exact refuse_safe _
      · split
        · exact ownerCommand_safe _ _
        · exact refuse_safe _

theorem takeCommand_keeps (seq code : Byte) {run : Command} (h : run.Safe) (p : Part) :
    Keeps p (takeCommand seq code run p) := by
  unfold takeCommand
  split
  · exact .refl p
  · split
    · exact (mgmt_aside p _).keeps
    · exact (h p).trans (mgmt_aside _ _).keeps

/-! ## The receiver -/

theorem takeFrame_keeps (body : List Byte) (p : Part) : Keeps p (takeFrame body p) := by
  unfold takeFrame
  split
  · exact .refl p
  · split
    · exact .refl p
    · split
      · exact (post_aside _ p).keeps
      · exact takeCommand_keeps _ _ (testedCommand_safe _ _ _) p

theorem setRx_aside (rx : RxState) (buffer : List Byte) (p : Part) : Aside p (setRx rx buffer p) := mgmt_aside p _

theorem appendByte_aside (b : Byte) (p : Part) : Aside p (appendByte b p) := by
  unfold appendByte
  split <;> exact setRx_aside _ _ p

theorem receive_keeps (b : Byte) (p : Part) : Keeps p (receive b p) := by
  unfold receive
  split
  · split
    · exact (setRx_aside _ _ p).keeps
    · exact .refl p
  · split
    · exact (setRx_aside _ _ p).keeps
    · split
      · exact (setRx_aside _ _ p).keeps.trans (takeFrame_keeps _ _)
      · split
        · exact (setRx_aside _ _ p).keeps
        · exact (appendByte_aside _ p).keeps
  · split
    · exact (setRx_aside _ _ p).keeps
    · split
      · exact (appendByte_aside _ p).keeps
      · exact (setRx_aside _ _ p).keeps

theorem mgmtCharacter_keeps (b : Byte) (stopHigh : Bool) (p : Part) : Keeps p (mgmtCharacter b stopHigh p) := by
  unfold mgmtCharacter
  split
  · exact receive_keeps b p
  · exact (setRx_aside _ _ p).keeps

theorem replySent_aside (p : Part) : Aside p (replySent p) := by
  unfold replySent
  split
  · exact .of_regions rfl rfl rfl
  · exact .refl p

/-! ## Power-on -/

/-- A part with an empty table, counts of 0 and sound ports without queue and held slots satisfies the invariants. -/
structure FreshPart (p : Part) : Prop where
  table : p.table = []
  inFlight : ∀ r, (p.region r).inFlight = 0
  port : ∀ q, (p.port q).queue = [] ∧ (p.port q).held = [] ∧ portSound (p.port q)

theorem FreshPart.keeps {p' : Part} (h : FreshPart p') (p : Part) : Keeps p p' where
  distinct _ := by simp [tagsDistinct, h.table]
  table _ := ⟨by simp [tagsDistinct, h.table], fun r => by simp [h.inFlight r, h.table]⟩
  line _ := ⟨by simp [tagsDistinct, h.table], by simp [h.table]⟩
  port q := by
    obtain ⟨hq, hh, hs⟩ := h.port q
    exact ⟨fun _ => by simp [slotsDistinct, hq, hh], fun _ => by simp [hh], fun _ => hs⟩

theorem region_abandoned (hrst : Bool) (bootsz : BitVec 2) (mbaud : Bool) (now : Nat) (trace : List Output) (r : RegionIx) :
    (Part.abandoned hrst bootsz mbaud now trace).region r = Region.cleared := by
  simp [Part.region, Part.abandoned]

theorem port_abandoned (hrst : Bool) (bootsz : BitVec 2) (mbaud : Bool) (now : Nat) (trace : List Output) (q : Port) :
    (Part.abandoned hrst bootsz mbaud now trace).port q = PortState.powerOff := by
  simp [Part.port, Part.abandoned]

theorem region_powerOn (hrst : Bool) (bootsz : BitVec 2) (mbaud : Bool) (now : Nat) (trace : List Output) (r : RegionIx) :
    (Part.powerOn hrst bootsz mbaud now trace).region r = if r = 0 then Region.boot bootsz else Region.cleared := by
  have := region_setRegion (Part.abandoned hrst bootsz mbaud now trace) 0 r (Region.boot bootsz)
  rw [region_abandoned] at this
  exact this

theorem port_powerOn (hrst : Bool) (bootsz : BitVec 2) (mbaud : Bool) (now : Nat) (trace : List Output) (q : Port) :
    (Part.powerOn hrst bootsz mbaud now trace).port q =
      if q = 0 then { PortState.powerOff with link := .training, trainingSince := some now } else PortState.powerOff := by
  have := port_setPort (Part.abandoned hrst bootsz mbaud now trace) 0 q
    { PortState.powerOff with link := .training, trainingSince := some now }
  rw [port_abandoned] at this
  exact this

theorem powerOff_sound : portSound PortState.powerOff := by decide

theorem abandoned_fresh (hrst : Bool) (bootsz : BitVec 2) (mbaud : Bool) (now : Nat) (trace : List Output) :
    FreshPart (Part.abandoned hrst bootsz mbaud now trace) :=
  ⟨rfl, fun r => by rw [region_abandoned]; rfl, fun q => by rw [port_abandoned]; exact ⟨rfl, rfl, powerOff_sound⟩⟩

theorem powerOn_fresh (hrst : Bool) (bootsz : BitVec 2) (mbaud : Bool) (now : Nat) (trace : List Output) :
    FreshPart (Part.powerOn hrst bootsz mbaud now trace) := by
  refine ⟨rfl, fun r => ?_, fun q => ?_⟩
  · rw [region_powerOn]; split <;> rfl
  · rw [port_powerOn]
    split
    · exact ⟨rfl, rfl, (PortKeeps.enable now (x := PortState.powerOff) rfl).sound powerOff_sound⟩
    · exact ⟨rfl, rfl, powerOff_sound⟩

/-! ## Commands and steps -/

theorem onPart_keeps {f : Part → Part} {s t : State} (h : ∀ p, Keeps p (f p)) (he : onPart f s = .next t) :
    Keeps s.part t.part := by
  unfold onPart at he
  obtain rfl := Host.Outcome.next.inj he
  dsimp only
  split
  · exact .refl _
  · exact h _

theorem onFrame_keeps {seq code : Byte} {run : Command} {s t : State} (h : run.Safe)
    (he : onFrame seq code run s = .next t) : Keeps s.part t.part :=
  onPart_keeps (takeCommand_keeps seq code h) he

/-- Every command keeps the invariants of the request table and of the ports. -/
theorem exec_keeps {c : Instr} {s t : State} (h : exec c s = .next t) : Keeps s.part t.part := by
  cases c with
  | admission tag op line => exact onPart_keeps (takeRequest_keeps tag op line) h
  | grant q k => exact onPart_keeps (fun p => Keeps.settle (grantAct_keeps q k p)) h
  | hostOutcome q => exact onPart_keeps (hostOutcome_keeps q) h
  | hrstNAssert => obtain rfl := Host.Outcome.next.inj h; exact assertHrst_keeps _
  | hrstNDeassert => obtain rfl := Host.Outcome.next.inj h; exact keeps_of_same rfl rfl rfl
  | porstNAssert => obtain rfl := Host.Outcome.next.inj h; exact (abandoned_fresh _ _ _ _ _).keeps _
  | porstNDeassert bootsz mbaud =>
    obtain rfl := Host.Outcome.next.inj h
    dsimp only [releasePorst]
    split
    · exact (powerOn_fresh _ _ _ _ _).keeps _
    · exact .refl _
  | deviceReady q => exact onPart_keeps (deviceReady_keeps q) h
  | trainingTimerExpiry q => exact onPart_keeps (trainingExpiry_keeps q) h
  | silenceTimerExpiry q => exact onPart_keeps (silenceExpiry_keeps q) h
  | wakeTimerExpiry q => exact onPart_keeps (wakeExpiry_keeps q) h
  | linkError q => exact onPart_keeps (linkError_keeps q) h
  | deviceResponse q k resp => exact onPart_keeps (deviceResponse_keeps q k resp) h
  | responseTimerExpiry q => exact onPart_keeps (responseExpiry_keeps q) h
  | linkLossClaim q => exact onPart_keeps (linkLossClaim_keeps q) h
  | copyOutcome q => exact onPart_keeps (copyOutcome_keeps q) h
  | mgmtCharacter b stopHigh => exact onPart_keeps (mgmtCharacter_keeps b stopHigh) h
  | replySent => exact onPart_keeps (fun p => (replySent_aside p).keeps) h
  | ident seq => exact onFrame_keeps cmdIdent_safe h
  | status seq => exact onFrame_keeps cmdStatus_safe h
  | setKey seq key => exact onFrame_keeps (cmdSetKey_safe key) h
  | regionStage seq x => exact onFrame_keeps (cmdRegionStage_safe x) h
  | regionCommit seq region init primary reserved => exact onFrame_keeps (cmdRegionCommit_safe _ _ _ _) h
  | regionRetire seq region reserved => exact onFrame_keeps (cmdRegionRetire_safe _ _) h
  | regionRead seq region reserved => exact onFrame_keeps (cmdRegionRead_safe _ _) h
  | portEnable seq port reserved => exact onFrame_keeps (cmdPortEnable_safe _ _) h
  | portDisable seq port reserved => exact onFrame_keeps (cmdPortDisable_safe _ _) h
  | portSetup seq port timeout silence weight => exact onFrame_keeps (cmdPortSetup_safe _ _ _ _) h
  | portRead seq port => exact onFrame_keeps (cmdPortRead_safe _) h
  | detach seq port reserved => exact onFrame_keeps (cmdDetach_safe _ _) h
  | rejoin seq port reserved => exact onFrame_keeps (cmdRejoin_safe _ _) h
  | divergenceRead seq port start => exact onFrame_keeps (cmdDivergenceRead_safe _ _) h
  | compare seq region first count => exact onFrame_keeps (cmdCompare_safe _ _ _) h
  | jobRead seq => exact onFrame_keeps cmdJobRead_safe h
  | jobCancel seq position => exact onFrame_keeps (cmdJobCancel_safe _) h
  | eventFetch seq n => exact onFrame_keeps (cmdEventFetch_safe _) h
  | faultClear seq flags => exact onFrame_keeps (cmdFaultClear_safe _) h
  | faultMask seq flags => exact onFrame_keeps (cmdFaultMask_safe _) h

/-- Every step keeps the invariants of the request table and of the ports. -/
theorem step_keeps {s t : State} (h : step s = .next t) : Keeps s.part t.part := by
  unfold step at h
  split at h
  · have hk := exec_keeps h
    exact hk
  · obtain rfl := Host.Outcome.next.inj h
    exact keeps_of_same rfl rfl rfl

/-- Settles O51: the table's changes are new forms of entries, an admission with a free tag, and a freeing with the fall
of its region's count. -/
theorem tableSoundKept : Obligations.TableSoundKept := fun _ _ hp h => (step_keeps h).table hp

/-- Settles O52: an entry passes WAITING_LINE only as the earliest for its line. -/
theorem lineHeldKept : Obligations.LineHeldKept := fun _ _ hp h => (step_keeps h).line hp

/-- Settles O53: each change of a port keeps its slots and its held tags distinct, and keeps it sound. -/
theorem portsSoundKept : Obligations.PortsSoundKept :=
  ⟨fun _ _ hp h q => ((step_keeps h).port q).slots (hp q), fun _ _ hp h q => ((step_keeps h).port q).tags (hp q),
    fun _ _ hp h q => ((step_keeps h).port q).sound (hp q)⟩

end Sys2Proof.Machine
end

section
/-! SUPPORT. Power-on reset, the rows with nothing to act on, and the checks of an admission. -/

namespace Sys2Proof.Machine

/-! ## Power-on reset -/

theorem divList_abandoned (hrst : Bool) (bootsz : BitVec 2) (mbaud : Bool) (now : Nat) (trace : List Output) (q : Port) :
    (Part.abandoned hrst bootsz mbaud now trace).divList q = [] := by
  simp [Part.divList, Part.abandoned]

theorem divList_powerOn (hrst : Bool) (bootsz : BitVec 2) (mbaud : Bool) (now : Nat) (trace : List Output) (q : Port) :
    (Part.powerOn hrst bootsz mbaud now trace).divList q = [] :=
  divList_abandoned hrst bootsz mbaud now (trace ++ [.bringUp 0]) q

/-- Memberships of a region that is not in use have ceased (R61). -/
theorem mstate_of_not_inUse {p : Part} {r : RegionIx} (h : inUse (p.region r) = false) (q : Port) : mstate p r q = none := by
  simp [mstate, h]

theorem mstate_abandoned (hrst : Bool) (bootsz : BitVec 2) (mbaud : Bool) (now : Nat) (trace : List Output) (r : RegionIx)
    (q : Port) : mstate (Part.abandoned hrst bootsz mbaud now trace) r q = none :=
  mstate_of_not_inUse (by rw [region_abandoned]; rfl) q

/-- Settles O3: the values of R22, R41, R42, R101, R156 and R169, block by block. -/
theorem powerOnReset : Obligations.PowerOnReset := by
  refine ⟨fun s => ⟨_, rfl, rfl, rfl, rfl, rfl, rfl, rfl, rfl, rfl, fun q => ⟨divList_abandoned .., ?_⟩,
    fun r q => mstate_abandoned .., rfl, rfl, rfl, fun n => mgmtTx_porst rfl n, rfl, rfl, rfl⟩,
    fun s bootsz mbaud hs => ⟨{ s with part := Part.powerOn s.part.hrst bootsz mbaud s.part.now s.part.trace }, ?_, rfl, rfl,
      ?_, fun r hr => ?_, fun q => ⟨?_, divList_powerOn ..⟩, rfl, rfl, rfl, rfl, rfl, rfl, rfl, rfl, ?_, ?_,
      fun n => mgmtTx_idle rfl n, rfl⟩, fun s bootsz mbaud hs => ?_⟩
  · dsimp only [assertPorst]
    rw [port_abandoned]; exact ⟨rfl, rfl⟩
  · show Host.Outcome.next { s with part := releasePorst bootsz mbaud s.part } = _
    simp [releasePorst, hs]
  · rw [region_powerOn]; rfl
  · rw [region_powerOn, if_neg hr]
  · rw [port_powerOn]
    split <;> rfl
  · simp [upReady, Part.powerOn, Part.abandoned]
  · simp [fltAsserted, Part.powerOn, Part.abandoned, EventUnit.powerOn]
  · show Host.Outcome.next { s with part := releasePorst bootsz mbaud s.part } = _
    simp [releasePorst, hs]

theorem FreshPart.tableSound {p : Part} (h : FreshPart p) : tableSound p :=
  ⟨by simp [tagsDistinct, h.table], fun r => by simp [h.inFlight r, h.table]⟩

theorem FreshPart.lineHeld {p : Part} (h : FreshPart p) : lineHeld p :=
  ⟨by simp [tagsDistinct, h.table], by simp [h.table]⟩

theorem reset_fresh : FreshPart State.reset.part := powerOn_fresh _ _ _ _ _

/-- Right after reset region 0 alone is in use (R41, R42). -/
theorem region_reset (r : RegionIx) :
    State.reset.part.region r = if r = 0 then Region.boot 0#2 else Region.cleared := region_powerOn ..

theorem inUse_reset {r : RegionIx} (h : inUse (State.reset.part.region r) = true) : r = 0 := by
  by_contra hr
  rw [region_reset, if_neg hr] at h
  exact absurd h (by decide)

theorem mstate_reset (r : RegionIx) (q : Port) : mstate State.reset.part r q = none := by
  by_cases hr : r = 0
  · subst hr; revert q; decide
  · exact mstate_of_not_inUse (by rw [region_reset, if_neg hr]; rfl) q

/-- Settles O50: the table, the lists, the jobs and the queues are empty, no copy has a state, and the boot region alone is
in use. -/
theorem invariantsAtReset : Obligations.InvariantsAtReset := by
  have hq := fun q => reset_fresh.port q
  have hl : ∀ q, State.reset.part.divList q = [] := fun q => divList_powerOn ..
  refine ⟨reset_fresh.tableSound, reset_fresh.lineHeld, fun q => ?_, fun q => ?_, fun q => (hq q).2.2, fun r hr hm => ?_,
    fun q => ?_, fun q x hx => ?_, ⟨List.nodup_nil, Nat.zero_le _⟩, ⟨Nat.zero_le _, Nat.zero_le _⟩,
    ⟨fun r hr => ?_, fun r r' hne hr hr' => ?_, fun r r' hne hr hr' => ?_⟩, fun q => ?_⟩
  · simp [slotsDistinct, (hq q).1, (hq q).2.1]
  · simp [(hq q).2.1]
  · rw [inUse_reset hr, region_reset] at hm
    exact absurd hm (by decide)
  · rw [hl q]; exact ⟨Nat.zero_le _, .nil⟩
  · rw [hl q] at hx; simp at hx
  · rw [inUse_reset hr, region_reset]; decide
  · exact absurd ((inUse_reset hr).trans (inUse_reset hr').symm) hne
  · exact absurd ((inUse_reset hr).trans (inUse_reset hr').symm) hne
  · have hj : State.reset.part.jobs = [] := rfl
    simp [hj, hasRejoining, mstate_reset]

/-! ## UP_READY, and the rows with nothing to act on -/

theorem upReady_iff (p : Part) :
    upReady p = true ↔ p.porst = false ∧ p.hrst = false ∧ ∀ e ∈ p.table, e.state ≠ .orphaned := by
  simp [upReady, and_assoc]

/-- A free tag finds one of the 32 entries free (R4): the tags in use and the free one are distinct tags. -/
theorem table_room {p : Part} {tag : Tag} (hd : tagsDistinct p) (ht : ∀ e ∈ p.table, e.tag ≠ tag) : p.table.length < 32 := by
  have hn : (tag :: p.table.map (·.tag)).Nodup := List.nodup_cons.mpr ⟨by simpa using ht, hd⟩
  have := hn.length_le_card
  simpa using this

theorem takeFirst_none {α : Type} {f : α → Bool} {l : List α} (h : ∀ x ∈ l, f x = false) : takeFirst f l = none := by
  induction l with
  | nil => rfl
  | cons x xs ih =>
    rw [takeFirst, h x (List.mem_cons_self ..), ih fun y hy => h y (List.mem_cons_of_mem _ hy)]
    rfl

/-- A command that leaves the part as it is answers the same state. -/
theorem onPart_idle {f : Part → Part} {s : State} (h : f s.part = s.part) : onPart f s = .next s := by
  simp [onPart, h]

theorem grantAct_idle {q : Port} {k : SlotIx} {p : Part} (h : portDown p q = true ∨ slotFree (p.port q) k = false ∨
    presented p q = none ∧ copyClaimAt p q = none) : grantAct q k p = (p, []) := by
  rcases h with h | h | ⟨h, h'⟩
  · simp [grantAct, h]
  · simp [grantAct, h]
  · simp [grantAct, h, h', grantsToEngine]

theorem hostOutcome_idle {q : Port} {p : Part} (h : ∀ x ∈ p.handed, x.port = q → isHost x.origin = false) :
    hostOutcome q p = p := by
  have := takeFirst_none (f := fun x => x.port == q && isHost x.origin) (l := p.handed) fun x hx => by
    simpa using h x hx
  simp [hostOutcome, this]

theorem copyOutcome_idle {q : Port} {p : Part} (h : ∀ x ∈ p.handed, x.port = q → isCopy x.origin = false) :
    copyOutcome q p = p := by
  have := takeFirst_none (f := fun x => x.port == q && isCopy x.origin) (l := p.handed) fun x hx => by
    simpa using h x hx
  simp [copyOutcome, this]

theorem linkLossClaim_idle {q : Port} {p : Part} (h : ∀ c ∈ p.lossClaims, c.1 ≠ q) : linkLossClaim q p = p := by
  have := takeFirst_none (f := fun c => c.1 == q) (l := p.lossClaims) fun x hx => by simpa using h x hx
  simp [linkLossClaim, this]

/-- While PORST_N is asserted only the two reset pins act (R22, R156, R169). -/
theorem exec_held {c : Instr} {s : State} (h : s.part.porst = true) (h1 : c ≠ .hrstNAssert) (h2 : c ≠ .hrstNDeassert)
    (h3 : c ≠ .porstNAssert) (h4 : ∀ bootsz mbaud, c ≠ .porstNDeassert bootsz mbaud) : exec c s = .next s := by
  cases c with
  | hrstNAssert => exact absurd rfl h1
  | hrstNDeassert => exact absurd rfl h2
  | porstNAssert => exact absurd rfl h3
  | porstNDeassert bootsz mbaud => exact absurd rfl (h4 bootsz mbaud)
  | grant q k => exact onPart_held (fun p => settle (grantAct q k p)) s h
  | _ => exact onPart_held _ s h

/-- Settles O15: each row with nothing to act on leaves the part as it is. -/
theorem upReadyAndIdleRows : Obligations.UpReadyAndIdleRows :=
  ⟨upReady_iff, fun _ => rfl, fun _ _ => table_room,
    fun tag op line s h => onPart_idle (by simp [takeRequest, h]),
    fun q k s h => onPart_idle (f := fun p => settle (grantAct q k p)) (by rw [grantAct_idle h, settle_nil]),
    fun _ _ => ⟨fun h => onPart_idle (hostOutcome_idle h), fun h => onPart_idle (copyOutcome_idle h),
      fun h => onPart_idle (linkLossClaim_idle h)⟩,
    fun _ _ => exec_held⟩

/-! ## The checks of an admission -/

theorem findEntry_none {p : Part} {tag : Tag} (h : ∀ e ∈ p.table, e.tag ≠ tag) : findEntry p tag = none := by
  simpa [findEntry] using h

theorem findEntry_isSome {p : Part} {tag : Tag} (h : ∃ e ∈ p.table, e.tag = tag) : (findEntry p tag).isSome = true := by
  simpa [findEntry] using h

/-- A request with a free tag, for a line of a LIVE region, gets an entry (R8). -/
theorem takeRequest_live {tag : Tag} {line : UpAddr} {r : RegionIx} {p : Part} (op : Op) (hu : upReady p = true)
    (ht : ∀ e ∈ p.table, e.tag ≠ tag) (hl : lookupRegion p line = some r) (hr : (p.region r).state = .live) :
    takeRequest tag op line p = createEntry tag op line r p := by
  simp [takeRequest, hu, findEntry_none ht, hl, hr]

/-- A request with a free tag, for a line of no LIVE region, is answered UNMAPPED (R7). -/
theorem takeRequest_unmapped {tag : Tag} {line : UpAddr} {p : Part} (op : Op) (hu : upReady p = true)
    (ht : ∀ e ∈ p.table, e.tag ≠ tag) (hr : ∀ r, lookupRegion p line = some r → (p.region r).state ≠ .live) :
    takeRequest tag op line p = answerUnmapped tag line p := by
  simp only [takeRequest, hu, findEntry_none ht]
  cases hl : lookupRegion p line with
  | none => rfl
  | some r => simp [hr r hl]

/-- A request with a tag in use is discarded (R6). -/
theorem takeRequest_collision {tag : Tag} {p : Part} (op : Op) (line : UpAddr) (hu : upReady p = true)
    (ht : ∃ e ∈ p.table, e.tag = tag) : takeRequest tag op line p = post { kind := .tagCollision, detail := tag.val } p := by
  simp [takeRequest, hu, findEntry_isSome ht]

/-- The region that a lookup finds covers the line (R25). -/
theorem regionCovers_of_lookup {p : Part} {line : UpAddr} {r : RegionIx} (h : lookupRegion p line = some r) :
    regionCovers (p.region r) line = true := by simpa using List.find?_some h

theorem exec_admission {tag : Tag} {op : Op} {line : UpAddr} {s : State} (hu : upReady s.part = true) :
    leavesPart (.admission tag op line) s (takeRequest tag op line s.part) :=
  onPart_running _ s ((upReady_iff _).mp hu).1

/-- Settles O4: the tag check, then the region check. -/
theorem admissionTagAndRegionChecks : Obligations.AdmissionTagAndRegionChecks := by
  refine ⟨upReady_iff, fun _ _ => table_room, fun tag op line s hu => ⟨fun ht => ?_, fun ht => ?_, ((upReady_iff _).mp hu).2.2,
    fun ht hr => ?_⟩⟩
  · rw [← takeRequest_collision op line hu ht]; exact exec_admission hu
  · have he := exec_admission (tag := tag) (op := op) (line := line) hu
    cases hl : lookupRegion s.part line with
    | none => rwa [takeRequest_unmapped op hu ht (by simp [hl])] at he
    | some r =>
      dsimp only
      split
      · next hr => rwa [takeRequest_live op hu ht hl hr] at he
      · next hr => rwa [takeRequest_unmapped op hu ht (fun r' h => Option.some.inj (hl.symm.trans h) ▸ hr)] at he
  · have he := exec_admission (tag := tag) (op := op) (line := line) hu
    rwa [takeRequest_unmapped op hu ht fun r h => hr r (regionCovers_of_lookup h)] at he

end Sys2Proof.Machine
end

section
/-! SUPPORT. Grants: the port after a slot is granted, the give-back, and the placements of R14 and R122. -/

namespace Sys2Proof.Machine

theorem portSet_ext {s t : PortSet} (h : ∀ q, hasPort s q = hasPort t q) : s = t :=
  BitVec.eq_of_getLsbD_eq fun i hi => h ⟨i, hi⟩

/-! ## The give-back (R13) -/

/-- A give-back changes the held slots of the port at most, and those only where no slot is free. -/
theorem taskGiveBack_spec (q : Port) (p : Part) :
    (taskGiveBack q p).2 = [] ∧ ∃ H, (taskGiveBack q p).1 = p.setPort q { p.port q with held := H } ∧
      (hasFreeSlot (p.port q) = true → H = (p.port q).held) := by
  unfold taskGiveBack
  split
  · exact ⟨rfl, _, (setPort_self p q).symm, fun _ => rfl⟩
  · next h =>
    split
    · exact ⟨rfl, _, rfl, fun hc => absurd hc h⟩
    · exact ⟨rfl, _, (setPort_self p q).symm, fun _ => rfl⟩

theorem taskGiveBack_free {q : Port} {p : Part} (h : hasFreeSlot (p.port q) = true) : taskGiveBack q p = (p, []) := by
  simp [taskGiveBack, h]

theorem runTask_giveBack (q : Port) (p : Part) : runTask (.giveBack q) p = ((taskGiveBack q p).1, []) :=
  Prod.ext rfl (taskGiveBack_spec q p).1

theorem settle_giveBack (q : Port) (p : Part) : settle (p, [.giveBack q]) = (taskGiveBack q p).1 :=
  settle_one _ _ _ (runTask_giveBack q p)

/-- A command whose last work is a give-back leaves the part as it stood but for held slots of the port. -/
theorem leavesPart_giveBack {c : Instr} {s : State} {q : Port} {p : Part}
    (h : leavesPart c s (settle (p, [.giveBack q]))) :
    ∃ H, leavesPart c s (p.setPort q { p.port q with held := H }) ∧
      (hasFreeSlot (p.port q) = true → H = (p.port q).held) := by
  obtain ⟨-, H, hH, hfree⟩ := taskGiveBack_spec q p
  rw [settle_giveBack, hH] at h
  exact ⟨H, h, hfree⟩

theorem hasFreeSlot_iff (x : PortState) : hasFreeSlot x = true ↔ occupancy x < 16 := by
  exact decide_eq_true_iff

/-! ## The granted port -/

theorem startWake_eq (q : Port) (p : Part) :
    startWake q p = (p.setPort q { p.port q with
        link := linkAfterGrant (p.port q).link
        wakeSince := if (p.port q).link = .drowsy then some p.now else (p.port q).wakeSince }).puts (wakeOutput p q) := by
  by_cases h : (p.port q).link = .drowsy
  · simp [startWake, linkAfterGrant, wakeOutput, h, out_eq_puts]
  · simp only [startWake, linkAfterGrant, wakeOutput, h, beq_iff_eq, if_false, puts_nil]
    exact (setPort_self p q).symm

/-- The part once the arbiter has handed the slot to the presented entry (R13, R83, R96). -/
def slotGranted (q : Port) (k : SlotIx) (tag : Tag) (p : Part) : Part :=
  holdSlot q k tag (copyClaimAt p q).isSome (startWake q p)

theorem slotGranted_eq (q : Port) (k : SlotIx) (tag : Tag) (p : Part) :
    slotGranted q k tag p =
      (p.setPort q { portGranted p q with held := (p.port q).held ++ [(k, tag)] }).puts (wakeOutput p q) := by
  simp [slotGranted, holdSlot, startWake_eq, setPort_puts, portGranted]

theorem slotGranted_port (q : Port) (k : SlotIx) (tag : Tag) (p : Part) :
    (slotGranted q k tag p).port q = { portGranted p q with held := (p.port q).held ++ [(k, tag)] } := by
  simp [slotGranted_eq]

theorem slotGranted_port_ne {q q' : Port} (k : SlotIx) (tag : Tag) (p : Part) (h : q' ≠ q) :
    (slotGranted q k tag p).port q' = p.port q' := by
  simp [slotGranted_eq, h]

@[simp] theorem slotGranted_table (q : Port) (k : SlotIx) (tag : Tag) (p : Part) :
    (slotGranted q k tag p).table = p.table := by
  simp [slotGranted_eq]

@[simp] theorem slotGranted_region (q : Port) (k : SlotIx) (tag : Tag) (p : Part) (r : RegionIx) :
    (slotGranted q k tag p).region r = p.region r := by
  simp [slotGranted_eq]

@[simp] theorem slotGranted_now (q : Port) (k : SlotIx) (tag : Tag) (p : Part) : (slotGranted q k tag p).now = p.now := by
  simp [slotGranted_eq]

theorem linkAfterGrant_active {l : Link} : linkAfterGrant l = .active ↔ l = .active := by cases l <;> decide

/-- A slot that is granted is sent at once as before the grant: a wake does not make a link ACTIVE. -/
theorem slotGranted_active (q : Port) (k : SlotIx) (tag : Tag) (p : Part) (q' : Port) :
    ((slotGranted q k tag p).port q').link = .active ↔ (p.port q').link = .active := by
  by_cases h : q' = q
  · subst h; rw [slotGranted_port]; exact linkAfterGrant_active
  · rw [slotGranted_port_ne k tag p h]

theorem queuedEntry_congr {p p' : Part} {q : Port} (hn : p'.now = p.now)
    (hl : (p'.port q).link = .active ↔ (p.port q).link = .active) (k : SlotIx) (o : Origin) (op : Op) (a : DownAddr) :
    queuedEntry p' q k o op a = queuedEntry p q k o op a := by
  simp [queuedEntry, hn, hl]

theorem sendOutput_congr {p p' : Part} {q : Port} (hl : (p'.port q).link = .active ↔ (p.port q).link = .active)
    (k : SlotIx) (op : Op) (a : DownAddr) : sendOutput p' q k op a = sendOutput p q k op a := by
  simp [sendOutput, hl]

theorem held_filter_free {x : PortState} {k : SlotIx} (h : slotFree x k = true) : x.held.filter (fun a => a.1 != k) = x.held := by
  have := ((slotFree_iff x k).mp h).2
  refine List.filter_eq_self.mpr fun a ha => ?_
  simpa using fun (hc : a.1 = k) => this (hc ▸ List.mem_map_of_mem ha)

/-! ## The arbiter's choice (R94, R95) -/

theorem grantAct_dispatcher {q : Port} {k : SlotIx} {e : Entry} {p : Part} (hd : portDown p q = false)
    (hk : slotFree (p.port q) k = true) (he : presented p q = some e) (hg : grantsToEngine p q = false) :
    grantAct q k p = grantDispatcher q k e p := by simp [grantAct, hd, hk, he, hg]

theorem grantAct_engine {q : Port} {k : SlotIx} {c : Claim} {p : Part} (hd : portDown p q = false)
    (hk : slotFree (p.port q) k = true) (hc : copyClaimAt p q = some c) (hg : grantsToEngine p q = true) :
    grantAct q k p = grantEngine q k c p := by simp [grantAct, hd, hk, hc, hg]

theorem exec_grant {q : Port} {k : SlotIx} {s : State} (h : s.part.porst = false) :
    leavesPart (.grant q k) s (settle (grantAct q k s.part)) :=
  onPart_running (fun p => settle (grantAct q k p)) s h

/-! ## READ and DIRECT write (R14) -/

theorem grantDispatcher_single {q : Port} {k : SlotIx} {e : Entry} {p : Part}
    (h : e.kind = .read ∨ (p.region e.region).mode = .direct) :
    grantDispatcher q k e p = (placeSingle e q k (slotGranted q k e.tag p), [.giveBack q]) := by
  have hm : (e.kind == .write && isMirrorEntry (slotGranted q k e.tag p) e) = false := by
    rcases h with h | h <;> simp [isMirrorEntry, h]
  unfold slotGranted at hm ⊢
  simp [grantDispatcher, hm]

/-- The transaction stands in the granted slot, which is held no longer (R14). -/
theorem placeSingle_granted {q : Port} {k : SlotIx} {p : Part} (e : Entry) (hk : slotFree (p.port q) k = true) :
    placeSingle e q k (slotGranted q k e.tag p) =
      becomeIssued e.tag ((p.setPort q { portGranted p q with
          queue := (p.port q).queue ++
            [queuedEntry p q k (.host e.tag) (entryOp e) (downAddr (p.region e.region) q e.line)] }).puts
        (wakeOutput p q ++ sendOutput p q k (entryOp e) (downAddr (p.region e.region) q e.line))) := by
  have hl := slotGranted_active q k e.tag p q
  rw [placeSingle, placeTxn_eq, queuedEntry_congr (slotGranted_now ..) hl, sendOutput_congr hl, slotGranted_port,
    slotGranted_region, slotGranted_eq]
  simp [setPort_puts, held_filter_free hk, portGranted]

/-- A port as granted, with one transaction more: a slot is free while fewer than fifteen were taken. -/
theorem hasFreeSlot_granted {p : Part} {q : Port} {x : PortState} (h : occupancy (p.port q) < 15)
    (hx : x.queue.length + x.held.length = occupancy (p.port q) + 1) : hasFreeSlot x = true := by
  rw [hasFreeSlot_iff, occupancy]
  omega

/-- Settles O16: the slot is granted, the transaction placed in it, and one give-back follows. -/
theorem grantPlacesSingleTarget : Obligations.GrantPlacesSingleTarget := by
  intro q k e s hs hd hk he hg hm
  have hx := exec_grant (q := q) (k := k) hs
  rw [grantAct_dispatcher hd hk he hg, grantDispatcher_single hm, placeSingle_granted e hk] at hx
  obtain ⟨H, hx, hfree⟩ := leavesPart_giveBack hx
  simp only [becomeIssued, port_updateEntry, port_puts, port_setPort_self] at hx hfree
  refine ⟨_, _, hx, rfl, ?_, fun ho => ?_, fun q' hq' => ?_, ?_⟩
  · simp
  · simpa [portGranted] using hfree (hasFreeSlot_granted ho (by simp [occupancy, portGranted]; omega))
  · simp [hq']
  · simp [updateEntry, Part.setTable, Part.setPort, Part.puts]

/-! ## The copy engine (R122) -/

theorem grantEngine_eq {q : Port} {k : SlotIx} {p : Part} (c : Claim) (hk : slotFree (p.port q) k = true) :
    grantEngine q k c p =
      (((p.setPort q { portGranted p q with
          queue := (p.port q).queue ++ [queuedEntry p q k (.copy c.part) c.op c.addr], passOver := 0 }).puts
        (wakeOutput p q ++ sendOutput p q k c.op c.addr)).setWindow (p.window.map (windowGranted c)), [.giveBack q]) := by
  have hc : clearPassOver q (startWake q p) = (p.setPort q { p.port q with
      link := linkAfterGrant (p.port q).link
      wakeSince := if (p.port q).link = .drowsy then some p.now else (p.port q).wakeSince
      passOver := 0 }).puts (wakeOutput p q) := by
    simp [clearPassOver, startWake_eq, setPort_puts]
  have hl : ((clearPassOver q (startWake q p)).port q).link = .active ↔ (p.port q).link = .active := by
    rw [hc, port_puts, port_setPort_self]; exact linkAfterGrant_active
  have hn : (clearPassOver q (startWake q p)).now = p.now := by rw [hc]; rfl
  rw [grantEngine, placeTxn_eq, queuedEntry_congr hn hl, sendOutput_congr hl, hc]
  simp [setPort_puts, held_filter_free hk, portGranted]

/-- Settles O19: the transaction is placed in the granted slot, the window moves on, and one give-back follows. -/
theorem grantToCopyEngine : Obligations.GrantToCopyEngine := by
  intro q k c s hs hd hk hc hw
  have hg : grantsToEngine s.part q = true := by
    rcases hw with hw | hw <;> simp [grantsToEngine, hc, dispatcherWaits, hw]
  have hx := exec_grant (q := q) (k := k) hs
  rw [grantAct_engine hd hk hc hg, grantEngine_eq c hk] at hx
  obtain ⟨H, hx, hfree⟩ := leavesPart_giveBack hx
  simp only [port_setWindow, port_puts, port_setPort_self] at hx hfree
  refine ⟨_, hx, ?_, fun ho => ?_, fun q' hq' => ?_, ?_⟩
  · simp
  · simpa [portGranted] using hfree (hasFreeSlot_granted ho (by simp [occupancy, portGranted]; omega))
  · simp [hq']
  · simp [Part.setWindow, Part.setPort, Part.puts]

/-! ## MIRROR write: a slot is held (R13) -/

/-- The granted slot is the tag's; what other tags hold, and what is held elsewhere, stands. -/
theorem heldSlot_slotGranted {q : Port} {k : SlotIx} {tag : Tag} {p : Part} (hn : heldSlot p tag q = none) (t : Tag)
    (q' : Port) : heldSlot (slotGranted q k tag p) t q' = if q' = q ∧ t = tag then some k else heldSlot p t q' := by
  by_cases hq : q' = q
  · subst hq
    by_cases ht : t = tag
    · subst ht
      have : (p.port q').held.find? (fun h => h.2 == t) = none := by simpa [heldSlot] using hn
      simp [heldSlot, slotGranted_port, List.find?_append, this]
    · have : ((k, tag).2 == t) = false := by simpa using Ne.symm ht
      simp [heldSlot, slotGranted_port, List.find?_append, ht, this]
  · simp [heldSlot, hq, slotGranted_port_ne k tag p hq]

theorem heldSet_slotGranted {q : Port} (k : SlotIx) {tag : Tag} {p : Part} (hn : heldSlot p tag q = none) :
    heldSet (slotGranted q k tag p) tag = addPort (heldSet p tag) q := by
  refine portSet_ext fun q' => ?_
  rw [hasPort_addPort, heldSet, heldSet, hasPort_portSetOf, hasPort_portSetOf, heldSlot_slotGranted hn]
  by_cases hq : q' = q
  · subst hq; simp
  · simp [hq, Ne.symm hq]

/-- A grant to a MIRROR write with slots still missing elsewhere. -/
theorem grantDispatcher_mirror {q : Port} {k : SlotIx} {e : Entry} {p : Part} (hw : e.kind = .write)
    (hm : (p.region e.region).mode = .mirror) :
    grantDispatcher q k e p = ((placeIfComplete e.tag (slotGranted q k e.tag p)).1,
      (placeIfComplete e.tag (slotGranted q k e.tag p)).2 ++ [.giveBack q]) := by
  have hm : (e.kind == .write && isMirrorEntry (slotGranted q k e.tag p) e) = true := by simp [isMirrorEntry, hw, hm]
  unfold slotGranted at hm ⊢
  simp [grantDispatcher, hm]

theorem findEntry_of_table {p p' : Part} (h : p'.table = p.table) (tag : Tag) : findEntry p' tag = findEntry p tag := by
  simp [findEntry, h]

/-- Where no entry up to and with `e` waits on the port, the entries from the first that waits on are behind `e`. -/
theorem dropWhile_behind {f : Entry → Bool} {pre post : List Entry} {e : Entry} (hpre : ∀ x ∈ pre, f x = false)
    (he : f e = false) : (pre ++ e :: post).dropWhile (fun x => !f x) = post.dropWhile (fun x => !f x) := by
  induction pre with
  | nil => simp [he]
  | cons x xs ih =>
    rw [List.cons_append, List.dropWhile_cons, hpre x (List.mem_cons_self ..)]
    exact ih fun y hy => hpre y (List.mem_cons_of_mem _ hy)

/-- Once the presented entry has the slot it gives none back at the port: the entries that wait there are behind it. -/
theorem giver_slotGranted {q : Port} {k : SlotIx} {e g : Entry} {p : Part} (hd : tagsDistinct p)
    (he : presented p q = some e) (hg : giver (slotGranted q k e.tag p) q = some g) : g.tag ≠ e.tag := by
  obtain ⟨-, -, -, hn⟩ := presented_spec he
  obtain ⟨-, pre, post, htab, hpre⟩ := List.find?_eq_some_iff_append.mp he
  rw [tagsDistinct, htab, List.map_append, List.map_cons, List.nodup_append, List.nodup_cons] at hd
  obtain ⟨-, ⟨hpost, -⟩, hdis⟩ := hd
  have hw : ∀ x ∈ pre, waitsOn (slotGranted q k e.tag p) x q = false := fun x hx => by
    have hne : x.tag ≠ e.tag := fun hc => hdis _ (List.mem_map_of_mem hx) _ (List.mem_cons_self ..) hc
    have : waitsOn (slotGranted q k e.tag p) x q = waitsOn p x q := by simp [waitsOn, heldSlot_slotGranted hn, hne]
    rw [this]
    simpa using hpre x hx
  have hwe : waitsOn (slotGranted q k e.tag p) e q = false := by simp [waitsOn, heldSlot_slotGranted hn]
  have hmem := List.mem_reverse.mp (List.mem_of_find?_eq_some hg)
  rw [slotGranted_table, htab, dropWhile_behind (f := fun x => waitsOn _ x q) hw hwe] at hmem
  exact fun hc => hpost (hc ▸ List.mem_map_of_mem (List.dropWhile_sublist _ |>.subset hmem))

/-- A give-back by another entry leaves a tag its slots. -/
theorem heldSlot_giveBack {q : Port} {tag : Tag} {p : Part} (h : ∀ g, giver p q = some g → g.tag ≠ tag) (q' : Port) :
    heldSlot (taskGiveBack q p).1 tag q' = heldSlot p tag q' := by
  unfold taskGiveBack
  split
  · rfl
  · split
    · next g hg =>
      have hgt := h g hg
      by_cases hq : q' = q
      · subst hq
        simp only [heldSlot, dropHeldSlot, port_setPort_self, List.find?_filter]
        congr 2
        funext x
        by_cases hx : x.2 = tag <;> simp [hx, hgt.symm]
      · simp [heldSlot, dropHeldSlot, hq]
    · rfl

/-- Settles O17: the slot is held, the set of held slots is not yet the target set, and a give-back spares the entry. -/
theorem grantHoldsSlotForMirrorWrite : Obligations.GrantHoldsSlotForMirrorWrite := by
  intro q k e s hs hd hk he hg htags hw hm hne
  obtain ⟨hmem, -, -, hn⟩ := presented_spec he
  have hf : findEntry (slotGranted q k e.tag s.part) e.tag = some e := by
    rw [findEntry_of_table (slotGranted_table ..), findEntry_of_mem htags hmem]
  have hp : placeIfComplete e.tag (slotGranted q k e.tag s.part) = (slotGranted q k e.tag s.part, []) := by
    simp [placeIfComplete, hf, heldSet_slotGranted k hn, hne]
  have hx := exec_grant (q := q) (k := k) hs
  rw [grantAct_dispatcher hd hk he hg, grantDispatcher_mirror hw hm, hp, List.nil_append, settle_giveBack] at hx
  have hh := heldSlot_giveBack (fun g => giver_slotGranted (k := k) htags he) q
  rw [heldSlot_slotGranted hn, if_pos ⟨rfl, rfl⟩] at hh
  obtain ⟨-, H, hH, hfree⟩ := taskGiveBack_spec q (slotGranted q k e.tag s.part)
  refine ⟨_, hx, hh, ?_, fun ho => ?_, fun q' hq' => ?_, ?_⟩
  · simp [hH, slotGranted_port]
  · rw [slotGranted_port] at hfree
    simpa [hH] using hfree (hasFreeSlot_granted ho (by simp [occupancy, portGranted]; omega))
  · simp [hH, hq', slotGranted_port_ne]
  · simp only [hH]
    simp [slotGranted_eq, Part.setPort, Part.puts]

end Sys2Proof.Machine
end

section
/-! SUPPORT. Which works an event can set off: the copy engine's, which leave the table and the port queues alone, and those
of first choices, which leave the queues and the placed entries alone. -/

namespace Sys2Proof.Machine

/-! ## Runs of a class of works -/

/-- A property that works of a class keep, their followers being of the class too, holds after a run of such works. -/
theorem runAgenda_inv_of {I : Part → Prop} {T : Task → Prop}
    (h : ∀ t p, T t → I p → I (runTask t p).1 ∧ ∀ u ∈ (runTask t p).2, T u) :
    ∀ n ts p, (∀ u ∈ ts, T u) → I p → I (runAgenda n ts p)
  | 0, _, _, _, hp => hp
  | n + 1, ts, p, hts, hp => by
    unfold runAgenda
    split
    · exact hp
    · next t rest hn =>
      obtain ⟨pre, post, rfl, rfl, -⟩ := nextWork_spec p ts t rest hn
      obtain ⟨hi, hf⟩ := h t p (hts t (by simp)) hp
      refine runAgenda_inv_of h n _ _ (fun u hu => ?_) hi
      simp only [List.mem_append, List.mem_cons] at hu hts
      rcases hu with hu | hu | hu
      · exact hf u hu
      · exact hts u (.inl hu)
      · exact hts u (.inr (.inr hu))

theorem settle_inv_of {I : Part → Prop} {T : Task → Prop}
    (h : ∀ t p, T t → I p → I (runTask t p).1 ∧ ∀ u ∈ (runTask t p).2, T u) {a : Act} (ht : ∀ u ∈ a.2, T u) (ha : I a.1) :
    I (settle a) := runAgenda_inv_of h _ _ _ ht ha

/-! ## The copy engine's works -/

/-- Table, queues and held slots stand: of the ports only pass-over counts change. -/
structure Offstage (p p' : Part) : Prop where
  table : p'.table = p.table
  port : ∀ q, p'.port q = { p.port q with passOver := (p'.port q).passOver }

namespace Offstage

theorem refl (p : Part) : Offstage p p := ⟨rfl, fun _ => rfl⟩

theorem trans {a b c : Part} (h : Offstage a b) (h' : Offstage b c) : Offstage a c :=
  ⟨h'.table.trans h.table, fun q => by rw [h'.port q, h.port q]⟩

theorem queue {p p' : Part} (h : Offstage p p') (q : Port) : (p'.port q).queue = (p.port q).queue := by rw [h.port q]

theorem foldl {α : Type} {f : Part → α → Part} (h : ∀ p x, Offstage p (f p x)) :
    ∀ (l : List α) (p : Part), Offstage p (l.foldl f p)
  | [], p => refl p
  | x :: xs, p => (h p x).trans (foldl h xs (f p x))

end Offstage

theorem Aside.offstage {p p' : Part} (h : Aside p p') : Offstage p p' := ⟨h.table, fun q => by rw [h.port q]⟩

/-- A work of the copy engine or of the region map, a report, a post, or a waiting entry's turn. -/
def isEngineWork : Task → Bool
  | .immediateFailure _ _ | .fixTargets _ | .giveBack _ | .serveLost | .redirect _ _ _ | .afterShrink _
  | .afterWriteFailure _ _ | .leave _ => false
  | _ => true

/-- What an engine's work leaves behind: table and queues as they were; engine's works, and turns of waiting entries, follow. -/
structure EngineAct (p : Part) (a : Act) : Prop where
  part : Offstage p a.1
  works : ∀ u ∈ a.2, isEngineWork u = true ∨ ∃ l, u = .leave l

theorem EngineAct.of_aside {p : Part} {a : Act} (h : Aside p a.1)
    (hw : ∀ u ∈ a.2, isEngineWork u = true ∨ ∃ l, u = .leave l) : EngineAct p a := ⟨h.offstage, hw⟩

theorem EngineAct.idle (p : Part) : EngineAct p (p, []) := ⟨.refl p, by simp⟩

theorem EngineAct.after {p p' : Part} {a : Act} (h : Aside p p') (ha : EngineAct p' a) : EngineAct p a :=
  ⟨h.offstage.trans ha.part, ha.works⟩

theorem withdrawClaimAt_offstage (q : Port) (p : Part) : Offstage p (withdrawClaimAt q p) := by
  unfold withdrawClaimAt
  split
  · split
    · refine ⟨rfl, fun q' => ?_⟩
      rw [clearPassOver, port_setPort]
      split
      · next e => subst e; simp
      · simp
    · exact .refl p
  · exact .refl p

theorem withdrawClaims_offstage (p : Part) : Offstage p (withdrawClaims p) :=
  Offstage.foldl (fun p q => withdrawClaimAt_offstage q p) _ p

theorem releaseLineClaim_works (p : Part) : ∀ u ∈ (releaseLineClaim p).2, ∃ l, u = .leave l := by
  unfold releaseLineClaim
  split <;> simp

theorem endRunning_act (rest : List Job) (ev : Option EventBody) (p : Part) : EngineAct p (endRunning rest ev p) where
  part := (withdrawClaims_offstage p).trans ((releaseLineClaim_aside _).trans ((postEnd_aside ev _).trans
    ((jobs_aside _ rest).trans (setWindow_aside _ _)))).offstage
  works u hu := .inr (releaseLineClaim_works _ u hu)

theorem leaveRunning_act (rest : List Job) (ev : Option EventBody) (p : Part) : EngineAct p (leaveRunning rest ev p) := by
  have h := endRunning_act rest ev p
  refine ⟨h.part, fun u hu => ?_⟩
  simp only [leaveRunning, List.mem_append, Option.mem_toList, Option.map_eq_some_iff, List.mem_cons] at hu
  rcases hu with ⟨w, -, rfl⟩ | rfl | hu
  · exact .inl rfl
  · exact .inl rfl
  · exact h.works u hu

theorem leaveCatchUp_act (q : Port) (ev : Option EventBody) (p : Part) : EngineAct p (leaveCatchUp q ev p) := by
  unfold leaveCatchUp
  split
  · exact .idle p
  · split
    · exact leaveRunning_act _ _ _
    · exact .of_aside ((postEnd_aside ev p).trans (jobs_aside _ _)) (by simp [isEngineWork])

theorem taskReport_act (r : RegionIx) (q : Port) (why : Reason) (line : Option UpAddr) (p : Part) :
    EngineAct p (taskReport r q why line p) := by
  unfold taskReport
  split
  · exact .after (takeReport_aside _ _ _ _ _) (leaveCatchUp_act _ _ _)
  · exact .of_aside (takeReport_aside _ _ _ _ _) (by simp)

theorem taskDrainCheck_act (r : RegionIx) (p : Part) : EngineAct p (taskDrainCheck r p) := by
  by_cases h : drained p r = true
  · rw [taskDrainCheck_drained r p h]
    exact ⟨⟨rfl, fun _ => rfl⟩, by simp [isEngineWork]⟩
  · rw [taskDrainCheck_kept r p (by simpa using h)]
    exact .idle p

theorem taskHeadStart_act (p : Part) : EngineAct p (taskHeadStart p) := by
  unfold taskHeadStart
  split
  · split
    · exact .idle p
    · dsimp only
      split
      · exact .of_aside ((jobs_aside p _).trans (post_aside _ _)) (by simp [isEngineWork])
      · exact .of_aside (jobs_aside p _) (by simp [isEngineWork])
  all_goals exact .idle p

theorem startLine_works (job : WindowJob) (r : RegionIx) (e k : Nat) (p : Part) :
    ∀ u ∈ (startLine job r e k p).2, ∃ r', u = .drainCheck r' := by
  unfold startLine
  dsimp only
  split
  · split <;> simp
  · simp

theorem startLine_act (job : WindowJob) (r : RegionIx) (e k : Nat) (p : Part) : EngineAct p (startLine job r e k p) :=
  .of_aside (startLine_aside _ _ _ _ _) fun u hu => by
    obtain ⟨r', rfl⟩ := startLine_works job r e k p u hu
    exact .inl rfl

/-- Engine's works and turns of waiting entries behind the others. -/
theorem EngineAct.append {p : Part} {a : Act} (h : EngineAct p a) {us : List Task}
    (hu : ∀ u ∈ us, isEngineWork u = true ∨ ∃ l, u = .leave l) : EngineAct p (a.1, a.2 ++ us) :=
  ⟨h.part, fun u hm => (List.mem_append.mp hm).elim (h.works u) (hu u)⟩

theorem abandonSource_act (q : Port) (p : Part) : EngineAct p (abandonSource q p) :=
  .after (takeOutRejoining_aside _ _ _) (leaveRunning_act _ _ _)

theorem taskChooseSource_act (q : Port) (p : Part) : EngineAct p (taskChooseSource q p) := by
  unfold taskChooseSource
  split
  · exact .idle p
  · split
    · exact abandonSource_act _ _
    · exact .of_aside (setWindow_aside p _) (by simp)

theorem taskSelection_act (q : Port) (p : Part) : EngineAct p (taskSelection q p) := by
  unfold taskSelection
  split
  · exact (startLine_act _ _ _ _ _).append (by simp [isEngineWork])
  · exact .after (takeCompletion_aside _ _) (leaveRunning_act _ _ _)

theorem nextCatchUpLine_act (q : Port) (w : Window) (p : Part) : EngineAct p (nextCatchUpLine q w p) := by
  unfold nextCatchUpLine
  split
  · split
    · exact (startLine_act _ _ _ _ _).append (by simp [isEngineWork])
    · exact .of_aside (.refl p) (by simp [isEngineWork])
  · exact .of_aside (setDivList_aside p _ _) (by simp [isEngineWork])

theorem taskLineDone_act (q : Port) (p : Part) : EngineAct p (taskLineDone q p) := by
  unfold taskLineDone
  split
  · exact .idle p
  · split
    · exact .after (releaseLineClaim_aside p) ((nextCatchUpLine_act _ _ _).append fun u hu =>
        .inr (releaseLineClaim_works p u hu))
    · exact .idle p

theorem restartLine_act (q : Port) (w : Window) (p : Part) : EngineAct p (restartLine q w p) :=
  .of_aside (restartLine_aside q w p) (by simp [restartLine, isEngineWork])

theorem taskAfterSourceFailure_act (t s : Port) (p : Part) : EngineAct p (taskAfterSourceFailure t s p) := by
  unfold taskAfterSourceFailure
  split
  · exact .idle p
  · split
    · split
      · exact .of_aside (.refl p) (by simp [isEngineWork])
      · split
        · exact abandonSource_act _ _
        · exact restartLine_act _ _ _
    · exact .idle p

theorem taskCompareStart_act (p : Part) : EngineAct p (taskCompareStart p) := by
  unfold taskCompareStart
  split
  · exact .idle p
  · dsimp only
    split
    · exact leaveRunning_act _ _ _
    · next c _ _ =>
      have h := startLine_act .compare c.region c.nextExtent c.nextLine p
      exact ⟨h.part.trans (setWindow_aside _ _).offstage, h.works⟩

theorem recordLine_act (d : PortSet) (w : Window) (p : Part) : EngineAct p (recordLine d w p) := by
  unfold recordLine
  split
  · exact .idle p
  · dsimp only
    have h := fun (r : RegionIx) (a : UpAddr) (j : List Job) => (postMismatch_aside d r a p).trans (jobs_aside _ j)
    split
    · exact .of_aside (h _ _ _) (by simp [isEngineWork])
    · exact .after (h _ _ _) (leaveRunning_act _ _ _)

theorem compareLine_act (w : Window) (p : Part) : EngineAct p (compareLine w p) := by
  unfold compareLine
  dsimp only
  split
  · exact .of_aside (.refl p) (by simp [isEngineWork])
  · exact .after (releaseLineClaim_aside p) ((recordLine_act _ _ _).append fun u hu =>
      .inr (releaseLineClaim_works p u hu))

theorem compareProgress_act (p : Part) : EngineAct p (compareProgress p) := by
  unfold compareProgress
  split
  · exact .idle p
  · split
    · split
      · exact .of_aside (.refl p) (by simp [isEngineWork])
      · exact compareLine_act _ _
    · exact .idle p

theorem taskCopyFailed_act (part : CopyPart) (q : Port) (why : Reason) (p : Part) :
    EngineAct p (taskCopyFailed part q why p) := by
  refine .of_aside (taskCopyFailed_aside part q why p) ?_
  unfold taskCopyFailed
  split
  · simp
  · dsimp only
    split
    · simp [isEngineWork]
    · split <;> simp [isEngineWork]

theorem taskCloseCheck_act (p : Part) : EngineAct p (taskCloseCheck p) := by
  refine .of_aside (taskCloseCheck_aside p) ?_
  unfold taskCloseCheck
  split
  · simp
  · split <;> simp [isEngineWork]

theorem taskClaimLost_act (q : Port) (p : Part) : EngineAct p (taskClaimLost q p) := by
  unfold taskClaimLost
  split
  · exact .idle p
  · exact ⟨withdrawClaimAt_offstage _ _, by simp [isEngineWork]⟩

theorem noticeReading_act (t : Port) (full : Bool) (w : Window) (p : Part) : EngineAct p (noticeReading t full w p) := by
  unfold noticeReading
  split
  · exact .idle p
  · split
    · split
      · exact .of_aside (setWindow_aside p _) (by simp)
      · exact .of_aside ((overtaken_aside w p).trans (setWindow_aside _ _)) (by simp)
    · split
      · exact ⟨(withdrawClaimAt_offstage _ _).trans (setWindow_aside _ _).offstage, by simp [isEngineWork]⟩
      · exact ⟨((overtaken_aside w p).offstage.trans (withdrawClaimAt_offstage _ _)).trans
          (restartLine_aside _ _ _).offstage, by simp [restartLine, isEngineWork]⟩

theorem taskNotice_act (line : UpAddr) (full : Bool) (p : Part) : EngineAct p (taskNotice line full p) := by
  unfold taskNotice
  split
  · exact .idle p
  · split
    · split
      · exact noticeReading_act _ _ _ _
      · exact .of_aside ((overtaken_aside _ p).trans (setWindow_aside _ _)) (by simp)
    · exact .idle p

/-- What every work of the engine does: the table and the queues stand, and engine's works follow. -/
theorem runTask_engine {t : Task} (h : isEngineWork t = true) (p : Part) : EngineAct p (runTask t p) := by
  cases t with
  | report r q why line => exact taskReport_act _ _ _ _ _
  | drainCheck r => exact taskDrainCheck_act _ _
  | headStart => exact taskHeadStart_act _
  | selection q => exact taskSelection_act _ _
  | chooseSource q => exact taskChooseSource_act _ _
  | lineDone q => exact taskLineDone_act _ _
  | afterSourceFailure t s => exact taskAfterSourceFailure_act _ _ _
  | compareStart => exact taskCompareStart_act _
  | afterCompareFailure => exact compareProgress_act _
  | closeCheck => exact taskCloseCheck_act _
  | claimLost q => exact taskClaimLost_act _ _
  | copyFailed part q why => exact taskCopyFailed_act _ _ _ _
  | notice line full => exact taskNotice_act _ _ _
  | posting b => exact .of_aside (post_aside _ _) (by simp [runTask])
  | leave _ => simp [isEngineWork] at h
  | immediateFailure _ _ => simp [isEngineWork] at h
  | fixTargets _ => simp [isEngineWork] at h
  | giveBack _ => simp [isEngineWork] at h
  | serveLost => simp [isEngineWork] at h
  | redirect _ _ _ => simp [isEngineWork] at h
  | afterShrink _ => simp [isEngineWork] at h
  | afterWriteFailure _ _ => simp [isEngineWork] at h

/-! ## Turns of waiting entries -/

/-- Engine's works, turns of waiting entries and what follows these: first choices and give-backs. -/
def isCalmWork : Task → Bool
  | .serveLost | .redirect _ _ _ | .afterShrink _ | .afterWriteFailure _ _ => false
  | _ => true

/-- The tag has an ISSUED entry with these targets whose mask and data are its transactions'. -/
def placedAs (p : Part) (tag : Tag) (targets : PortSet) : Prop :=
  ∃ e ∈ p.table, e.tag = tag ∧ e.state = .issued ∧ e.payload = none ∧ e.target = targets

/-- The queues stand, and an ISSUED entry stays as it was placed. -/
structure Calm (p p' : Part) : Prop where
  queue : ∀ q, (p'.port q).queue = (p.port q).queue
  placed : ∀ tag targets, tagsDistinct p → placedAs p tag targets → placedAs p' tag targets

theorem Calm.refl (p : Part) : Calm p p := ⟨fun _ => rfl, fun _ _ _ => id⟩

theorem Offstage.calm {p p' : Part} (h : Offstage p p') : Calm p p' :=
  ⟨h.queue, fun tag targets _ hp => by unfold placedAs; rwa [h.table]⟩

theorem Aside.calm_after {p p' p'' : Part} (h : Aside p p') (h' : Calm p' p'') : Calm p p'' :=
  ⟨fun q => (h'.queue q).trans (by rw [h.port q]), fun tag targets hd hp =>
    h'.placed tag targets (by unfold tagsDistinct; rwa [h.table]) (by unfold placedAs; rwa [h.table])⟩

/-- New forms that keep ISSUED entries as they were placed. -/
theorem updateEntry_calm {tag : Tag} {f : Entry → Entry} {p : Part} (h : tagsDistinct p → ∀ x ∈ p.table, x.tag = tag →
    x.state = .issued → (f x).tag = x.tag ∧ (f x).state = .issued ∧ (f x).payload = x.payload ∧ (f x).target = x.target) :
    Calm p (updateEntry tag f p) := by
  refine ⟨fun _ => rfl, fun t targets hd ⟨x, hx, ht, hs, hp, hg⟩ => ⟨_, List.mem_map_of_mem hx, ?_⟩⟩
  split
  · next he =>
    obtain ⟨h1, h2, h3, h4⟩ := h hd x hx (by simpa using he) hs
    exact ⟨h1.trans ht, h2, h3.trans hp, h4.trans hg⟩
  · exact ⟨ht, hs, hp, hg⟩

/-- The freeing of an entry in WAITING_LINE keeps the ISSUED ones. -/
theorem freeEntry_calm {e : Entry} {p : Part} (he : e ∈ p.table) (hs : e.state = .waitingLine) : Calm p (freeEntry e p).1 := by
  refine ⟨fun _ => rfl, fun t targets hd ⟨x, hx, ht, hxs, hp, hg⟩ => ⟨x, List.mem_filter.mpr ⟨hx, ?_⟩, ht, hxs, hp, hg⟩⟩
  simpa using fun hc => by
    rw [eq_of_tag hd hx he hc, hs] at hxs
    simp at hxs

theorem completeEntry_calm {e : Entry} {p : Part} (st : RespStatus) (he : e ∈ p.table) (hs : e.state = .waitingLine) :
    Calm p (completeEntry e st p).1 := (out_aside p _).calm_after (freeEntry_calm he hs)

theorem enterWaitingSlot_calm {e : Entry} {p : Part} (t : PortSet) (he : e ∈ p.table) (hs : e.state = .waitingLine) :
    Calm p (enterWaitingSlot e t p).1 :=
  updateEntry_calm fun hd x hx ht hxs => by
    rw [eq_of_tag hd hx he ht, hs] at hxs
    simp at hxs

theorem freeEntry_works (e : Entry) (p : Part) : ∀ u ∈ (freeEntry e p).2, isCalmWork u = true := by
  simp [freeEntry, isCalmWork]

theorem completeEntry_works (e : Entry) (st : RespStatus) (p : Part) : ∀ u ∈ (completeEntry e st p).2, isCalmWork u = true :=
  freeEntry_works e _

theorem enterWaitingSlot_works (e : Entry) (t : PortSet) (p : Part) :
    ∀ u ∈ (enterWaitingSlot e t p).2, isCalmWork u = true := by
  simp [enterWaitingSlot, isCalmWork]

theorem chooseFirst_calm {e : Entry} {p : Part} (he : e ∈ p.table) (hs : e.state = .waitingLine) :
    Calm p (chooseFirst e p).1 ∧ ∀ u ∈ (chooseFirst e p).2, isCalmWork u = true := by
  unfold chooseFirst
  split
  · unfold chooseDirect
    split
    · split
      · exact ⟨completeEntry_calm _ he hs, completeEntry_works _ _ _⟩
      · exact ⟨enterWaitingSlot_calm _ he hs, enterWaitingSlot_works _ _ _⟩
    · exact ⟨completeEntry_calm _ he hs, completeEntry_works _ _ _⟩
  · split
    · split
      · next hc =>
        have ha := chooseRead_aside hc
        exact ⟨ha.calm_after (enterWaitingSlot_calm _ (ha.table ▸ he) hs), enterWaitingSlot_works _ _ _⟩
      · exact ⟨completeEntry_calm _ he hs, completeEntry_works _ _ _⟩
    · refine ⟨.refl p, fun u hu => ?_⟩
      simp only [List.mem_append, List.mem_map, List.mem_singleton] at hu
      rcases hu with ⟨_, -, rfl⟩ | rfl <;> rfl

theorem taskLeave_calm (line : UpAddr) (p : Part) :
    Calm p (taskLeave line p).1 ∧ ∀ u ∈ (taskLeave line p).2, isCalmWork u = true := by
  unfold taskLeave
  split
  · exact ⟨.refl p, by simp⟩
  · next e h =>
    obtain ⟨-, hm⟩ := (leavesLine_iff _ _ _).mp (List.find?_some h)
    exact chooseFirst_calm (List.mem_of_find?_eq_some h) ((mayLeave_iff _ _).mp hm).1

theorem taskImmediateFailure_calm (tag : Tag) (q : Port) (p : Part) :
    Calm p (taskImmediateFailure tag q p).1 ∧ ∀ u ∈ (taskImmediateFailure tag q p).2, isCalmWork u = true := by
  unfold taskImmediateFailure
  split
  · exact ⟨.refl p, by simp⟩
  · dsimp only
    split
    · refine ⟨updateEntry_calm fun _ x _ _ hs => ?_, by simp [isCalmWork]⟩
      split <;> exact ⟨rfl, hs, rfl, rfl⟩
    · exact ⟨.refl p, by simp⟩

theorem taskFixTargets_calm (tag : Tag) (p : Part) :
    Calm p (taskFixTargets tag p).1 ∧ ∀ u ∈ (taskFixTargets tag p).2, isCalmWork u = true := by
  unfold taskFixTargets
  split
  · exact ⟨.refl p, by simp⟩
  · next h =>
    dsimp only
    split
    · exact ⟨.refl p, by simp⟩
    · next hm =>
      have hs := ((mayLeave_iff _ _).mp (by simpa using hm)).1
      split
      · exact ⟨completeEntry_calm _ (findEntry_mem h).1 hs, completeEntry_works _ _ _⟩
      · exact ⟨enterWaitingSlot_calm _ (findEntry_mem h).1 hs, enterWaitingSlot_works _ _ _⟩

theorem taskGiveBack_calm (q : Port) (p : Part) : Calm p (taskGiveBack q p).1 := by
  obtain ⟨-, H, hH, -⟩ := taskGiveBack_spec q p
  rw [hH]
  refine ⟨fun q' => ?_, fun _ _ _ => id⟩
  rw [port_setPort]
  split
  · next e => rw [e]
  · rfl

theorem isCalmWork_of_engine {t : Task} (h : isEngineWork t = true ∨ ∃ l, t = .leave l) : isCalmWork t = true := by
  rcases h with h | ⟨l, rfl⟩
  · cases t <;> simp_all [isEngineWork, isCalmWork]
  · rfl

theorem runTask_calm {t : Task} (h : isCalmWork t = true) (p : Part) :
    Calm p (runTask t p).1 ∧ ∀ u ∈ (runTask t p).2, isCalmWork u = true := by
  by_cases he : isEngineWork t = true
  · have ha := runTask_engine he p
    exact ⟨ha.part.calm, fun u hu => isCalmWork_of_engine (ha.works u hu)⟩
  · cases t with
    | leave line => exact taskLeave_calm line p
    | immediateFailure tag q => exact taskImmediateFailure_calm tag q p
    | fixTargets tag => exact taskFixTargets_calm tag p
    | giveBack q =>
      rw [runTask_giveBack]
      exact ⟨taskGiveBack_calm q p, by simp⟩
    | _ => simp_all [isEngineWork, isCalmWork]

/-- What a run of such works leaves. -/
theorem settle_calm {a : Act} (h : ∀ u ∈ a.2, isCalmWork u = true) : Calm a.1 (settle a) := by
  have hq := settle_inv_of (I := fun p => ∀ q, (p.port q).queue = (a.1.port q).queue) (T := fun u => isCalmWork u = true)
    (fun t p ht hp => ⟨fun q => ((runTask_calm ht p).1.queue q).trans (hp q), (runTask_calm ht p).2⟩) h fun _ => rfl
  refine ⟨hq, fun tag targets hd hp => ?_⟩
  exact (settle_inv_of (I := fun p => tagsDistinct p ∧ placedAs p tag targets) (T := fun u => isCalmWork u = true)
    (fun t p ht ⟨hd, hp⟩ => ⟨⟨(runTask_keeps t p).distinct hd, (runTask_calm ht p).1.placed tag targets hd hp⟩,
      (runTask_calm ht p).2⟩) h ⟨hd, hp⟩).2

end Sys2Proof.Machine
end

section
/-! SUPPORT. Divergence lists: what an insertion makes of its list and which record it posts (R106 to R110). -/

namespace Sys2Proof.Machine

/-- A list with a range inserted: at a full list that no run of meets the range, one pair is joined first (R106, R108). -/
def insertedRuns (x : Run) (l : List Run) : List Run :=
  if l.any (fun r => runMeets r x) || l.length < Config.runCapacity then insertOpen x l
  else match bestPair l with
    | some (a, b) => insertOpen x (joinPair a b l)
    | none => insertOpen x l

/-- Several records posted in order. -/
def Part.posts (p : Part) (bs : List EventBody) : Part := { p with events := bs.foldl postTo p.events }

@[simp] theorem posts_nil (p : Part) : p.posts [] = p := rfl
@[simp] theorem posts_posts (p : Part) (a b : List EventBody) : (p.posts a).posts b = p.posts (a ++ b) := by
  simp [Part.posts]
theorem post_eq_posts (b : EventBody) (p : Part) : post b p = p.posts [b] := rfl
@[simp] theorem divList_posts (p : Part) (bs : List EventBody) (q : Port) : (p.posts bs).divList q = p.divList q := rfl
@[simp] theorem region_posts (p : Part) (bs : List EventBody) (r : RegionIx) : (p.posts bs).region r = p.region r := rfl
@[simp] theorem port_posts (p : Part) (bs : List EventBody) (q : Port) : (p.posts bs).port q = p.port q := rfl
@[simp] theorem mstate_posts (p : Part) (bs : List EventBody) (r : RegionIx) (q : Port) :
    mstate (p.posts bs) r q = mstate p r q := rfl
theorem setDivList_posts (p : Part) (bs : List EventBody) (q : Port) (l : List Run) :
    (p.posts bs).setDivList q l = (p.setDivList q l).posts bs := rfl
theorem setRegion_posts (p : Part) (bs : List EventBody) (r : RegionIx) (x : Region) :
    (p.posts bs).setRegion r x = (p.setRegion r x).posts bs := rfl

@[simp] theorem setDivList_setDivList (p : Part) (q : Port) (l l' : List Run) :
    (p.setDivList q l).setDivList q l' = p.setDivList q l' := by
  simp [Part.setDivList]

@[simp] theorem setDivList_self (p : Part) (q : Port) : p.setDivList q (p.divList q) = p := by
  simp [Part.setDivList, Part.divList]

theorem runMeets_iff (r x : Run) :
    runMeets r x = true ↔ r.region = x.region ∧ r.first ≤ x.stop ∧ x.first ≤ r.stop := by
  simp [runMeets, and_assoc]

/-- An insertion changes the list of its port alone, and posts the record of a coalescing (R106, R108, R110). -/
theorem insertRun_eq (q : Port) (x : Run) (p : Part) :
    insertRun q x p = (p.setDivList q (insertedRuns x (p.divList q))).posts (coalescedRecord q x (p.divList q)).toList := by
  have hany : (p.divList q).any (fun r => runMeets r x) = true ↔
      ∃ y ∈ p.divList q, y.region = x.region ∧ y.first ≤ x.stop ∧ x.first ≤ y.stop := by
    simp only [List.any_eq_true, runMeets_iff]
  by_cases h : (p.divList q).length < 64 ∨ ∃ y ∈ p.divList q, y.region = x.region ∧ y.first ≤ x.stop ∧ x.first ≤ y.stop
  · have hm : ((p.divList q).any (fun r => runMeets r x) || decide ((p.divList q).length < Config.runCapacity)) = true := by
      rw [Bool.or_eq_true, hany, decide_eq_true_iff]
      exact h.symm
    simp [insertRun, insertedRuns, coalescedRecord, hm, h]
  · have hm : ((p.divList q).any (fun r => runMeets r x) || decide ((p.divList q).length < Config.runCapacity)) = false := by
      rw [← Bool.not_eq_true, Bool.or_eq_true, hany, decide_eq_true_iff]
      exact fun hc => h hc.symm
    cases hb : bestPair (p.divList q) with
    | none => simp [insertRun, insertedRuns, coalescedRecord, hm, h, coalesce, hb]
    | some ab =>
      rw [coalescedRecord, if_neg h]
      simp [insertRun, insertedRuns, hm, coalesce, hb, post_eq_posts, setDivList_posts, runGap, Run.stop, Nat.sub_sub]

theorem insertRun_divList (q : Port) (x : Run) (p : Part) :
    (insertRun q x p).divList q = insertedRuns x (p.divList q) := by simp [insertRun_eq]

theorem withLine_eq (p : Part) (r : RegionIx) (q : Port) (a : UpAddr) :
    withLine p r q a = insertedRuns { region := r, first := extentOf (p.region r) a, count := 1 } (p.divList q) :=
  insertRun_divList ..

end Sys2Proof.Machine
end

section
/-! SUPPORT. Placement of a MIRROR write (R55), step by step. -/

namespace Sys2Proof.Machine

/-! ## The transactions (R55 step 1) -/

/-- A target port once the transaction stands in the slot the entry held there. -/
def placedPort (e : Entry) (p : Part) (q : Port) : PortState :=
  match heldSlot p e.tag q with
  | some k => { p.port q with
      queue := (p.port q).queue ++ [queuedEntry p q k (.host e.tag) (entryOp e) (downAddr (p.region e.region) q e.line)]
      held := (p.port q).held.filter (fun h => h.1 != k)
      silenceSince := none }
  | none => p.port q

/-- What the placement at a port puts out. -/
def placedOutput (e : Entry) (p : Part) (q : Port) : List Output :=
  match heldSlot p e.tag q with
  | some k => sendOutput p q k (entryOp e) (downAddr (p.region e.region) q e.line)
  | none => []

theorem placeAt_eq (e : Entry) (p : Part) (q : Port) :
    placeAt e p q = (p.setPort q (placedPort e p q)).puts (placedOutput e p q) := by
  unfold placeAt placedPort placedOutput
  cases heldSlot p e.tag q with
  | some k => exact placeTxn_eq ..
  | none => simp

/-- A port's placement looks at that port alone. -/
theorem placed_congr {e : Entry} {p p' : Part} {q : Port} (hp : p'.port q = p.port q) (hn : p'.now = p.now)
    (hr : p'.region e.region = p.region e.region) :
    placedPort e p' q = placedPort e p q ∧ placedOutput e p' q = placedOutput e p q := by
  have hh : heldSlot p' e.tag q = heldSlot p e.tag q := by simp [heldSlot, hp]
  unfold placedPort placedOutput
  rw [hh, hr]
  cases heldSlot p e.tag q with
  | none => exact ⟨hp, rfl⟩
  | some k =>
    dsimp only
    rw [queuedEntry_congr hn (by rw [hp]), hp]
    exact ⟨rfl, sendOutput_congr (by rw [hp]) ..⟩

/-- The ports that are set one after the other, each to a state fixed beforehand. -/
def setPorts (f : Port → PortState) (l : List Port) (p : Part) : Part := l.foldl (fun p q => p.setPort q (f q)) p

theorem setPorts_port (f : Port → PortState) (l : List Port) (p : Part) (q : Port) :
    (setPorts f l p).port q = if q ∈ l then f q else p.port q := by
  induction l generalizing p with
  | nil => simp [setPorts]
  | cons x xs ih =>
    have := ih (p.setPort x (f x))
    rw [port_setPort] at this
    rw [setPorts, List.foldl_cons]
    rw [setPorts] at this
    rw [this]
    by_cases hx : q = x
    · subst hx; simp
    · simp [hx]

theorem setPorts_eq (f : Port → PortState) (l : List Port) (p : Part) :
    setPorts f l p = { p with ports := (setPorts f l p).ports } := by
  induction l generalizing p with
  | nil => rfl
  | cons x xs ih => exact ih (p.setPort x (f x))

theorem setPorts_congr {f g : Port → PortState} {l : List Port} (h : ∀ q ∈ l, f q = g q) (p : Part) :
    setPorts f l p = setPorts g l p :=
  List.foldl_ext _ _ p fun p q hq => by rw [h q hq]

theorem setPorts_puts (f : Port → PortState) (l : List Port) (p : Part) (os : List Output) :
    setPorts f l (p.puts os) = (setPorts f l p).puts os := by
  induction l generalizing p with
  | nil => rfl
  | cons x xs ih => exact ih (p.setPort x (f x))

/-- Transactions placed at distinct ports, each as its port stood before. -/
theorem foldl_placeAt (e : Entry) {l : List Port} (hl : l.Nodup) (p : Part) :
    l.foldl (placeAt e) p = (setPorts (placedPort e p) l p).puts (l.flatMap (placedOutput e p)) := by
  induction l generalizing p with
  | nil => simp [setPorts]
  | cons x xs ih =>
    rw [List.nodup_cons] at hl
    have hc : ∀ q ∈ xs, placedPort e (placeAt e p x) q = placedPort e p q ∧
        placedOutput e (placeAt e p x) q = placedOutput e p q := fun q hq => by
      have hne : q ≠ x := fun hc => hl.1 (hc ▸ hq)
      rw [placeAt_eq]
      exact placed_congr (by simp [hne]) rfl rfl
    have ho : xs.flatMap (placedOutput e (placeAt e p x)) = xs.flatMap (placedOutput e p) :=
      List.flatMap_congr fun q hq => (hc q hq).2
    rw [List.foldl_cons, ih hl.2, setPorts_congr fun q hq => (hc q hq).1, ho, placeAt_eq, setPorts_puts, puts_puts,
      List.flatMap_cons]
    rfl

/-! ## The repeated reports (R55 step 2) -/

/-- A copy made FAULTED at the given ports. -/
def Member.faultedAt (c : Port → Prop) [DecidablePred c] (m : Member) : Member :=
  if c m.port then { m with state := some .faulted } else m

@[simp] theorem port_faultedAt (c : Port → Prop) [DecidablePred c] (m : Member) : (m.faultedAt c).port = m.port := by
  unfold Member.faultedAt; split <;> rfl

theorem state_faultedAt (c : Port → Prop) [DecidablePred c] (m : Member) :
    (m.faultedAt c).state = if c m.port then some .faulted else m.state := by
  unfold Member.faultedAt; split <;> rfl

theorem faultedAt_congr {c d : Port → Prop} [DecidablePred c] [DecidablePred d] (h : ∀ q, c q ↔ d q) :
    Member.faultedAt c = Member.faultedAt d := by
  funext m; simp only [Member.faultedAt, h]

theorem faultedAt_comp {c d : Port → Prop} [DecidablePred c] [DecidablePred d] (m : Member) :
    (m.faultedAt c).faultedAt d = m.faultedAt (fun q => c q ∨ d q) := by
  by_cases hc : c m.port
  · by_cases hd : d m.port <;> simp [Member.faultedAt, hc, hd]
  · simp [Member.faultedAt, hc]

/-- Of a list of ports those whose copies leave service have left it, with MEMBER_EJECTED in the list's order. -/
def ejected (r : RegionIx) (f : Port → Bool) (why : Reason) (l : List Port) (p : Part) : Part :=
  (p.setRegion r { p.region r with
      members := (p.region r).members.map (Member.faultedAt fun q => q ∈ l ∧ leavesService p r f q) }).posts
    (l.filterMap (fun q => if leavesService p r f q
      then some { kind := .memberEjected, port := some q, region := some r, detail := reasonCode why } else none))

theorem memberAt_map {g : Member → Member} (hg : ∀ m, (g m).port = m.port) (x : Region) (q : Port) :
    memberAt { x with members := x.members.map g } q = (memberAt x q).map g := by
  have : ((fun m : Member => m.port == q) ∘ g) = fun m => m.port == q := by funext m; simp [hg]
  rw [memberAt, List.find?_map, this, memberAt]

theorem memberAt_port {x : Region} {q : Port} {m : Member} (h : memberAt x q = some m) : m.port = q := by
  simpa using List.find?_some h

/-- A region whose members are mapped, port by port. -/
theorem mstate_mapMembers {g : Member → Member} (hg : ∀ m, (g m).port = m.port) (r : RegionIx) (p : Part) (q : Port) :
    mstate (p.setRegion r { p.region r with members := (p.region r).members.map g }) r q =
      if inUse (p.region r) then (memberAt (p.region r) q).bind (fun m => (g m).state) else none := by
  simp only [mstate, region_setRegion_self, memberAt_map hg, Option.bind_map]
  rfl

theorem mstate_ejected (r : RegionIx) (f : Port → Bool) (why : Reason) (l : List Port) (p : Part) (q : Port) :
    mstate (ejected r f why l p) r q = if q ∈ l ∧ leavesService p r f q then some .faulted else mstate p r q := by
  rw [ejected, mstate_posts, mstate_mapMembers (port_faultedAt _)]
  simp only [state_faultedAt]
  by_cases hu : inUse (p.region r) = true
  · rw [if_pos hu]
    cases hm : memberAt (p.region r) q with
    | none => simp [mstate, hu, hm]
    | some m =>
      have hq := memberAt_port hm
      subst hq
      rw [Option.bind_some]
      exact if_congr Iff.rfl rfl (by simp [mstate, hu, hm])
  · simp [mstate, hu]

theorem allPorts_sorted : allPorts.Pairwise (· < ·) := by decide

theorem otherInService_iff (p : Part) (r : RegionIx) (q : Port) :
    otherInService p r q = true ↔ ∃ x, x ≠ q ∧ mstate p r x = some .inService := by
  simp [otherInService, mem_allPorts]

/-- With the ports before `q` examined, the copy at `q` is reported and leaves exactly if it leaves service by the rule. -/
theorem leaves_after_ejected {r : RegionIx} {f : Port → Bool} {why : Reason} {pre suf : List Port} {q : Port} (p : Part)
    (h : allPorts = pre ++ q :: suf) :
    (mstate (ejected r f why pre p) r q = some .inService ∧ f q = true ∧
        otherInService (ejected r f why pre p) r q = true) ↔ leavesService p r f q := by
  have hs := allPorts_sorted
  rw [h, List.pairwise_append, List.pairwise_cons] at hs
  obtain ⟨-, ⟨hsuf, -⟩, hpre⟩ := hs
  have hlt : ∀ x ∈ pre, x < q := fun x hx => hpre x hx q (List.mem_cons_self ..)
  have hq : q ∉ pre := fun hc => lt_irrefl _ (hlt q hc)
  have hgt : ∀ x, x ≠ q → x ∉ pre → q < x := fun x hne hx => by
    have := mem_allPorts x
    rw [h, List.mem_append, List.mem_cons] at this
    exact hsuf x ((this.resolve_left hx).resolve_left hne)
  rw [otherInService_iff, mstate_ejected, if_neg fun hc => hq hc.1]
  refine and_congr_right fun hin => and_congr_right fun hfq => exists_congr fun x => and_congr_right fun hne => ?_
  rw [mstate_ejected]
  constructor
  · intro hx
    split at hx
    · simp at hx
    · next hc =>
      refine ⟨hx, ?_⟩
      by_cases hxp : x ∈ pre
      · left
        by_contra hf
        exact hc ⟨hxp, hx, by simpa using hf, q, hne.symm, hin, .inr (hlt x hxp)⟩
      · exact .inr (hgt x hne hxp)
  · rintro ⟨hx, hx'⟩
    rw [if_neg, hx]
    rintro ⟨hxp, -, hfx, -⟩
    rcases hx' with hx' | hx'
    · simp [hfx] at hx'
    · exact lt_asymm hx' (hlt x hxp)

/-- One more copy leaves service. -/
theorem ejectMember_ejected {r : RegionIx} {f : Port → Bool} {why : Reason} {pre : List Port} {q : Port} {p : Part}
    (h : leavesService p r f q) : ejectMember r q why (ejected r f why pre p) = ejected r f why (pre ++ [q]) p := by
  have hm : (fun m : Member => if m.port == q then { m with state := some .faulted } else m) ∘
      Member.faultedAt (fun x => x ∈ pre ∧ leavesService p r f x) =
        Member.faultedAt (fun x => x ∈ pre ++ [q] ∧ leavesService p r f x) := by
    have hf : (fun m : Member => if m.port == q then { m with state := some .faulted } else m) =
        Member.faultedAt (· = q) := by
      funext m; simp only [Member.faultedAt, beq_iff_eq]
    funext m
    rw [hf, Function.comp, faultedAt_comp]
    refine congrFun (faultedAt_congr fun x => ?_) m
    rw [List.mem_append, List.mem_singleton, or_and_right]
    exact or_congr_right ⟨fun hx => ⟨hx, hx ▸ h⟩, fun hx => hx.1⟩
  have hl : [q].filterMap (fun q => if leavesService p r f q
      then some ({ kind := .memberEjected, port := some q, region := some r, detail := reasonCode why } : EventBody) else none) =
      [{ kind := .memberEjected, port := some q, region := some r, detail := reasonCode why }] := by
    rw [List.filterMap_cons, if_pos h]; rfl
  simp only [ejectMember, setMState, ejected, region_posts, region_setRegion_self, setRegion_posts, setRegion_setRegion,
    post_eq_posts, posts_posts, List.filterMap_append, hl, List.map_map, hm]

theorem ejected_skip {r : RegionIx} {f : Port → Bool} {why : Reason} {pre : List Port} {q : Port} {p : Part}
    (h : ¬ leavesService p r f q) : ejected r f why (pre ++ [q]) p = ejected r f why pre p := by
  have hm : Member.faultedAt (fun x => x ∈ pre ++ [q] ∧ leavesService p r f x) =
      Member.faultedAt (fun x => x ∈ pre ∧ leavesService p r f x) :=
    faultedAt_congr fun x => by
      rw [List.mem_append, List.mem_singleton, or_and_right]
      exact ⟨fun hx => hx.resolve_right fun hx => h (hx.1 ▸ hx.2), .inl⟩
  have hl : [q].filterMap (fun q => if leavesService p r f q
      then some ({ kind := .memberEjected, port := some q, region := some r, detail := reasonCode why } : EventBody) else none) =
      [] := by
    rw [List.filterMap_cons, if_neg h]; rfl
  simp only [ejected, hm, List.filterMap_append, hl, List.append_nil]

theorem ejected_nil (r : RegionIx) (f : Port → Bool) (why : Reason) (p : Part) : ejected r f why [] p = p := by
  have hm : Member.faultedAt (fun x => x ∈ ([] : List Port) ∧ leavesService p r f x) = id := by
    funext m; simp [Member.faultedAt]
  rw [ejected, hm, List.map_id]
  exact setRegion_self p r

/-- The copies that are no targets of the write. -/
def notTarget (e : Entry) (q : Port) : Bool := !hasPort e.target q

theorem foldl_placementReport (e : Entry) (p : Part) (pre : List Port) : ∀ suf, allPorts = pre ++ suf →
    pre.foldl (placementReport e) p = ejected e.region (notTarget e) .link pre p := by
  induction pre using List.reverseRecOn with
  | nil => intro _ _; exact (ejected_nil ..).symm
  | append_singleton pre q ih =>
    intro suf h
    rw [List.append_assoc] at h
    rw [List.foldl_append, ih _ h]
    have hl := leaves_after_ejected (r := e.region) (f := notTarget e) (why := .link) p h
    show placementReport e _ q = _
    unfold placementReport
    by_cases hq : leavesService p e.region (notTarget e) q
    · obtain ⟨h1, h2, h3⟩ := hl.mpr hq
      rw [← ejectMember_ejected hq]
      have h2 : hasPort e.target q = false := by simpa [notTarget] using h2
      simp [h1, h2, h3, isLastReplica, takeReport]
    · rw [ejected_skip hq, if_neg]
      intro hc
      simp only [Bool.and_eq_true, beq_iff_eq, Bool.not_eq_true', isLastReplica, Bool.and_eq_false_iff, beq_eq_false_iff_ne,
        Bool.not_eq_false'] at hc
      obtain ⟨⟨h1, h2⟩, h3⟩ := hc
      exact hq (hl.mp ⟨h1, by simpa [notTarget] using h2, h3.resolve_left (absurd h1)⟩)

/-! ## The insertions (R55 step 3) -/

/-- The copy is out of service (R62). -/
def isOut (p : Part) (r : RegionIx) (q : Port) : Bool :=
  mstate p r q == some .faulted || mstate p r q == some .detached

theorem isOut_iff (p : Part) (r : RegionIx) (q : Port) :
    isOut p r q = true ↔ mstate p r q = some .faulted ∨ mstate p r q = some .detached := by simp [isOut]

/-- The range an entry's line inserts: its extent (R103, R106). -/
def lineRun (e : Entry) (p : Part) : Run := { region := e.region, first := extentOf (p.region e.region) e.line, count := 1 }

/-- A port's list once the line is inserted where the copy is out of service. -/
def listAfter (e : Entry) (p : Part) (q : Port) : List Run :=
  if isOut p e.region q then insertedRuns (lineRun e p) (p.divList q) else p.divList q

/-- The record the insertion at a port posts. -/
def insertionRecord (e : Entry) (p : Part) (q : Port) : Option EventBody :=
  if isOut p e.region q then coalescedRecord q (lineRun e p) (p.divList q) else none

theorem insertIfOut_eq (e : Entry) (p : Part) (q : Port) :
    insertIfOut e p q = (p.setDivList q (listAfter e p q)).posts (insertionRecord e p q).toList := by
  unfold insertIfOut listAfter insertionRecord isOut
  split
  · next h => exact insertRun_eq ..
  · next h => simp

/-- The lists that are set one after the other, each to what was fixed beforehand. -/
def setLists (f : Port → List Run) (l : List Port) (p : Part) : Part := l.foldl (fun p q => p.setDivList q (f q)) p

theorem setLists_divList (f : Port → List Run) (l : List Port) (p : Part) (q : Port) :
    (setLists f l p).divList q = if q ∈ l then f q else p.divList q := by
  induction l generalizing p with
  | nil => simp [setLists]
  | cons x xs ih =>
    have := ih (p.setDivList x (f x))
    rw [divList_setDivList] at this
    rw [setLists, List.foldl_cons]
    rw [setLists] at this
    rw [this]
    by_cases hx : q = x
    · subst hx; simp
    · simp [hx]

theorem setLists_eq (f : Port → List Run) (l : List Port) (p : Part) :
    setLists f l p = { p with lists := (setLists f l p).lists } := by
  induction l generalizing p with
  | nil => rfl
  | cons x xs ih => exact ih (p.setDivList x (f x))

/-- The lists that come out depend on the lists alone. -/
theorem lists_setLists (f : Port → List Run) (l : List Port) {p p' : Part} (h : p'.lists = p.lists) :
    (setLists f l p').lists = (setLists f l p).lists := by
  induction l generalizing p p' with
  | nil => exact h
  | cons x xs ih => exact ih (by simp only [Part.setDivList, h])

theorem setLists_congr {f g : Port → List Run} {l : List Port} (h : ∀ q ∈ l, f q = g q) (p : Part) :
    setLists f l p = setLists g l p :=
  List.foldl_ext _ _ p fun p q hq => by rw [h q hq]

theorem setLists_posts (f : Port → List Run) (l : List Port) (p : Part) (bs : List EventBody) :
    setLists f l (p.posts bs) = (setLists f l p).posts bs := by
  induction l generalizing p with
  | nil => rfl
  | cons x xs ih => exact ih (p.setDivList x (f x))

/-- Insertions at distinct ports, each into the list as it stood before. -/
theorem foldl_insertIfOut (e : Entry) {l : List Port} (hl : l.Nodup) (p : Part) :
    l.foldl (insertIfOut e) p = (setLists (listAfter e p) l p).posts (l.filterMap (insertionRecord e p)) := by
  induction l generalizing p with
  | nil => rfl
  | cons x xs ih =>
    rw [List.nodup_cons] at hl
    have hc : ∀ q ∈ xs, listAfter e (insertIfOut e p x) q = listAfter e p q ∧
        insertionRecord e (insertIfOut e p x) q = insertionRecord e p q := fun q hq => by
      have hne : q ≠ x := fun hc => hl.1 (hc ▸ hq)
      have hd : (insertIfOut e p x).divList q = p.divList q := by rw [insertIfOut_eq, divList_posts, divList_setDivList_ne _ _ _ _ hne]
      have ho : isOut (insertIfOut e p x) e.region q = isOut p e.region q := by rw [insertIfOut_eq]; rfl
      have hr : lineRun e (insertIfOut e p x) = lineRun e p := by rw [insertIfOut_eq]; rfl
      rw [listAfter, insertionRecord, hd, ho, hr]
      exact ⟨rfl, rfl⟩
    have hs : xs.filterMap (insertionRecord e (insertIfOut e p x)) = xs.filterMap (insertionRecord e p) :=
      List.filterMap_congr fun q hq => (hc q hq).2
    have ht : (x :: xs).filterMap (insertionRecord e p) =
        (insertionRecord e p x).toList ++ xs.filterMap (insertionRecord e p) := by
      rw [List.filterMap_cons]; cases insertionRecord e p x <;> rfl
    rw [List.foldl_cons, ih hl.2, setLists_congr fun q hq => (hc q hq).1, hs, insertIfOut_eq, setLists_posts, posts_posts, ht]
    rfl

/-! ## The whole placement -/

/-- An entry placed with these targets IN_SERVICE (R1, R55). -/
def Entry.placed (inService : PortSet) (x : Entry) : Entry :=
  { x with state := .issued, payload := none, counted := x.counted ||| inService, inServiceAtPlacement := inService }

/-- The part with its reports made: the copies that are no targets have left service (R55 step 2). -/
def reported (e : Entry) (p : Part) : Part := ejected e.region (notTarget e) .link allPorts p

theorem region_ejected_ne {r : RegionIx} {f : Port → Bool} {why : Reason} {l : List Port} {p : Part} {r' : RegionIx}
    (h : r' ≠ r) : (ejected r f why l p).region r' = p.region r' := by
  rw [ejected, region_posts, region_setRegion, if_neg h]

theorem mstate_reported (e : Entry) (p : Part) (q : Port) :
    mstate (reported e p) e.region q = if leavesService p e.region (notTarget e) q then some .faulted
      else mstate p e.region q := by
  rw [reported, mstate_ejected]
  exact if_congr (and_iff_right (mem_allPorts q)) rfl rfl

theorem lineRun_reported (e : Entry) (p : Part) : lineRun e (reported e p) = lineRun e p := by
  simp only [lineRun, reported, ejected, region_posts, region_setRegion_self]
  rfl

theorem nodup_portsOf (s : PortSet) : (portsOf s).Nodup := List.Nodup.filter _ (by decide)

/-- Who reports, which lists take the line and what is posted do not depend on the ports, the table and the trace. -/
theorem reported_of (e : Entry) (p : Part) (ports : Vector PortState 4) (t : List Entry) (os : List Output) :
    reported e { p with ports := ports, table := t, trace := p.trace ++ os } =
      { reported e p with ports := ports, table := t, trace := p.trace ++ os } := rfl

theorem listAfter_of (e : Entry) (p : Part) (ports : Vector PortState 4) (t : List Entry) (os : List Output) :
    listAfter e { p with ports := ports, table := t, trace := os } = listAfter e p := rfl

theorem insertionRecord_of (e : Entry) (p : Part) (ports : Vector PortState 4) (t : List Entry) (os : List Output) :
    insertionRecord e { p with ports := ports, table := t, trace := os } = insertionRecord e p := rfl

theorem markCounted_puts (e : Entry) (p : Part) (ports : Vector PortState 4) (os : List Output) :
    markCounted e (({ p with ports := ports } : Part).puts os) = { p with
      ports := ports
      table := p.table.map (fun x => if x.tag == e.tag then
        { x with counted := x.counted ||| targetsInService e p, inServiceAtPlacement := targetsInService e p } else x)
      trace := p.trace ++ os } := rfl

theorem map_placed (tag : Tag) (c : PortSet) (t : List Entry) :
    (t.map (fun x => if x.tag == tag then { x with counted := x.counted ||| c, inServiceAtPlacement := c } else x)).map
      (fun x => if x.tag == tag then { x with state := .issued, payload := none } else x) =
      t.map (fun x => if x.tag = tag then x.placed c else x) := by
  rw [List.map_map]
  refine List.map_congr_left fun x _ => ?_
  by_cases hx : x.tag = tag <;> simp [hx, Entry.placed]

/-- The records of a placement: the copies that left service, then the insertions that coalesced. -/
def recordsOf (e : Entry) (p : Part) : List EventBody :=
  allPorts.filterMap (fun q => if leavesService p e.region (notTarget e) q
      then some ({ kind := .memberEjected, port := some q, region := some e.region, detail := reasonCode .link } : EventBody)
      else none) ++ allPorts.filterMap (insertionRecord e (reported e p))

/-- What the placement of a MIRROR write makes of the part (R55). -/
theorem placeMirror_part (e : Entry) (p : Part) :
    (placeMirror e p).1 = { p with
      table := p.table.map (fun x => if x.tag = e.tag then x.placed (targetsInService e p) else x)
      regions := (reported e p).regions
      ports := (setPorts (placedPort e p) (portsOf e.target) p).ports
      lists := (setLists (listAfter e (reported e p)) allPorts p).lists
      events := (recordsOf e p).foldl postTo p.events
      trace := p.trace ++ (portsOf e.target).flatMap (placedOutput e p) } := by
  rw [placeMirror_eq, foldl_placeAt e (nodup_portsOf e.target), foldl_placementReport e _ allPorts [] (by simp),
    foldl_insertIfOut e (by decide), setPorts_eq, ← map_placed, setLists_eq, lists_setLists (p := p) _ _ (by rfl), recordsOf,
    List.foldl_append]
  generalize (portsOf e.target).flatMap (placedOutput e p) = os
  generalize (setPorts (placedPort e p) (portsOf e.target) p).ports = ports
  rw [markCounted_puts, ← reported, reported_of, listAfter_of, insertionRecord_of]
  generalize (setLists (listAfter e (reported e p)) allPorts p).lists = lists
  generalize allPorts.filterMap (insertionRecord e (reported e p)) = records
  rfl

/-- What the placement leaves of a copy's state: those that left service are FAULTED. -/
theorem placeMirror_mstate (e : Entry) (p : Part) (r' : RegionIx) (q' : Port) :
    (r' = e.region ∧ leavesService p e.region (notTarget e) q' → mstate (placeMirror e p).1 r' q' = some .faulted) ∧
    (¬ (r' = e.region ∧ leavesService p e.region (notTarget e) q') → mstate (placeMirror e p).1 r' q' = mstate p r' q') := by
  have hr : mstate (placeMirror e p).1 r' q' = mstate (reported e p) r' q' := by rw [placeMirror_part]; rfl
  rw [hr]
  by_cases hre : r' = e.region
  · subst hre
    rw [mstate_reported]
    exact ⟨fun h => if_pos h.2, fun h => if_neg fun hc => h ⟨rfl, hc⟩⟩
  · have : mstate (reported e p) r' q' = mstate p r' q' := by simp only [mstate, reported, region_ejected_ne hre]
    exact ⟨fun h => absurd h.1 hre, fun _ => this⟩

theorem placeMirror_isOut (e : Entry) (p : Part) (q : Port) :
    isOut (reported e p) e.region q = isOut (placeMirror e p).1 e.region q := by
  rw [placeMirror_part]; rfl

theorem placeMirror_divList (e : Entry) (p : Part) (q : Port) :
    (placeMirror e p).1.divList q =
      if mstate (placeMirror e p).1 e.region q = some .faulted ∨ mstate (placeMirror e p).1 e.region q = some .detached
      then withLine p e.region q e.line else p.divList q := by
  have hl : (placeMirror e p).1.divList q = listAfter e (reported e p) q := by
    rw [placeMirror_part]
    exact (setLists_divList ..).trans (if_pos (mem_allPorts q))
  rw [hl, listAfter, placeMirror_isOut, lineRun_reported, withLine_eq]
  exact if_congr (isOut_iff ..) rfl rfl

/-- The records of a placement, read off the part after it. -/
theorem placementRecords_eq (e : Entry) (p : Part) : placementRecords e p (placeMirror e p).1 = recordsOf e p := by
  have hi : ∀ q, insertionRecord e (reported e p) q =
      if mstate (placeMirror e p).1 e.region q = some .faulted ∨ mstate (placeMirror e p).1 e.region q = some .detached
      then coalescedRecord q (lineRun e p) (p.divList q) else none := fun q => by
    rw [insertionRecord, placeMirror_isOut, lineRun_reported]
    exact if_congr (isOut_iff ..) rfl rfl
  rw [recordsOf, funext hi]
  rfl

theorem reported_regions (e : Entry) (p : Part) :
    (reported e p).regions = p.regions.set e.region { p.region e.region with
      members := (p.region e.region).members.map (fun m =>
        if leavesService p e.region (notTarget e) m.port then { m with state := some .faulted } else m) } := by
  have hm : Member.faultedAt (fun q => q ∈ allPorts ∧ leavesService p e.region (notTarget e) q) =
      fun m => if leavesService p e.region (notTarget e) m.port then { m with state := some .faulted } else m :=
    funext fun m => if_congr (and_iff_right (mem_allPorts m.port)) rfl rfl
  rw [← hm]
  rfl

theorem placeMirror_port (e : Entry) (p : Part) (q : Port) :
    (placeMirror e p).1.port q = if hasPort e.target q = true then placedPort e p q else p.port q := by
  rw [placeMirror_part]
  exact (setPorts_port ..).trans (if_congr (mem_portsOf ..) rfl rfl)

/-! ## The grant of the last slot -/

/-- The slot of each target when the last one is granted. -/
def lastSlot (p : Part) (q : Port) (k : SlotIx) (tag : Tag) (q' : Port) : SlotIx :=
  if q' = q then k else (heldSlot p tag q').getD k

section
variable {q : Port} {k : SlotIx} {e : Entry} {p : Part} (hn : heldSlot p e.tag q = none)
  (ht : addPort (heldSet p e.tag) q = e.target)
include hn ht

/-- Every target holds its slot, the granted one included. -/
theorem heldSlot_lastSlot {q' : Port} (hq : hasPort e.target q' = true) :
    heldSlot (slotGranted q k e.tag p) e.tag q' = some (lastSlot p q k e.tag q') := by
  rw [heldSlot_slotGranted hn, lastSlot]
  by_cases h : q' = q
  · rw [if_pos ⟨h, rfl⟩, if_pos h]
  · rw [if_neg fun hc => h hc.1, if_neg h]
    rw [← ht, hasPort_addPort, heldSet, hasPort_portSetOf, Bool.or_eq_true, decide_eq_true_iff] at hq
    obtain ⟨k', hk'⟩ := Option.isSome_iff_exists.mp (hq.resolve_right (Ne.symm h))
    rw [hk']; rfl

theorem placedOutput_last {q' : Port} (hq : hasPort e.target q' = true) :
    placedOutput e (slotGranted q k e.tag p) q' =
      sendOutput p q' (lastSlot p q k e.tag q') (entryOp e) (downAddr (p.region e.region) q' e.line) := by
  rw [placedOutput, heldSlot_lastSlot hn ht hq, slotGranted_region]
  exact sendOutput_congr (slotGranted_active ..) ..

theorem placedPort_last (hk : slotFree (p.port q) k = true) {q' : Port} (hq : hasPort e.target q' = true) :
    placedPort e (slotGranted q k e.tag p) q' = { (if q' = q then portGranted p q else p.port q') with
      queue := (p.port q').queue ++ [queuedEntry p q' (lastSlot p q k e.tag q') (.host e.tag) (entryOp e)
        (downAddr (p.region e.region) q' e.line)]
      held := (p.port q').held.filter (fun h => h.1 != lastSlot p q k e.tag q')
      silenceSince := none } := by
  rw [placedPort, heldSlot_lastSlot hn ht hq, slotGranted_region]
  dsimp only
  rw [queuedEntry_congr (slotGranted_now ..) (slotGranted_active ..)]
  by_cases h : q' = q
  · subst h
    simp [slotGranted_port, lastSlot, portGranted, List.filter_append]
  · simp [slotGranted_port_ne k e.tag p h, h]

/-- The grant completes the held set: the write is placed. -/
theorem placeIfComplete_last (hd : tagsDistinct p) (he : e ∈ p.table) :
    placeIfComplete e.tag (slotGranted q k e.tag p) = placeMirror e (slotGranted q k e.tag p) := by
  have hf : findEntry (slotGranted q k e.tag p) e.tag = some e := by
    rw [findEntry_of_table (slotGranted_table ..), findEntry_of_mem hd he]
  simp [placeIfComplete, hf, heldSet_slotGranted k hn, ht]

/-- No held slot of the tag is left at a target. -/
theorem heldSlot_placed (hk : slotFree (p.port q) k = true) (hh : heldTagsDistinct p) {q' : Port}
    (hq : hasPort e.target q' = true) :
    heldSlot (placeMirror e (slotGranted q k e.tag p)).1 e.tag q' = none := by
  have hp : ((placeMirror e (slotGranted q k e.tag p)).1.port q').held =
      (p.port q').held.filter (fun h => h.1 != lastSlot p q k e.tag q') := by
    rw [placeMirror_port, if_pos hq, placedPort_last hn ht hk hq]
  rw [heldSlot, hp, Option.map_eq_none_iff, List.find?_eq_none]
  intro x hx
  by_cases h : q' = q
  · subst h
    have := List.find?_eq_none.mp (Option.map_eq_none_iff.mp hn)
    exact this x (List.mem_of_mem_filter hx)
  · have hl := heldSlot_lastSlot (k := k) hn ht hq
    rw [heldSlot_slotGranted hn, if_neg fun hc => h hc.1] at hl
    simpa using heldSlot_only (hh q') hl x hx

end

/-- What the placement at the last grant makes of the part. -/
theorem placeMirror_last (q : Port) (k : SlotIx) (e : Entry) (p : Part) :
    (placeMirror e (slotGranted q k e.tag p)).1 = { p with
      table := p.table.map (fun x => if x.tag = e.tag then x.placed (targetsInService e p) else x)
      regions := (reported e p).regions
      ports := (placeMirror e (slotGranted q k e.tag p)).1.ports
      lists := (placeMirror e (slotGranted q k e.tag p)).1.lists
      events := (recordsOf e p).foldl postTo p.events
      trace := p.trace ++ wakeOutput p q ++ (portsOf e.target).flatMap (placedOutput e (slotGranted q k e.tag p)) } := by
  rw [placeMirror_part]
  generalize (portsOf e.target).flatMap (placedOutput e (slotGranted q k e.tag p)) = os
  generalize (setPorts (placedPort e (slotGranted q k e.tag p)) (portsOf e.target) (slotGranted q k e.tag p)).ports = ports
  generalize (setLists (listAfter e (reported e (slotGranted q k e.tag p))) allPorts (slotGranted q k e.tag p)).lists = lists
  rw [slotGranted_eq]
  rfl

theorem isFullLine_iff (e : Entry) : isFullLine e = true ↔ ∃ d, e.payload = some (BitVec.allOnes 64, d) := by
  cases h : e.payload with
  | none => simp [isFullLine, h]
  | some md => simp [isFullLine, h, Prod.ext_iff]

theorem placed_tagsDistinct {p p' : Part} {tag : Tag} {c : PortSet}
    (h : p'.table = p.table.map (fun x => if x.tag = tag then x.placed c else x)) (hd : tagsDistinct p) : tagsDistinct p' := by
  rw [tagsDistinct, h, List.map_map]
  rwa [List.map_congr_left (g := fun x : Entry => x.tag) fun x _ => by dsimp; split <;> rfl]

/-- Settles O18: the grant completes the held set, the write is placed (R55), and the notice with what follows it leaves the
queues, the links and the ISSUED entry. -/
theorem grantPlacesMirrorWriteEverywhere : Obligations.GrantPlacesMirrorWriteEverywhere := by
  intro q k e s hs hd hk he hg htags hheld hw hm ht
  obtain ⟨hmem, -, -, hn⟩ := presented_spec he
  have hqt : hasPort e.target q = true := by rw [← ht, hasPort_addPort]; simp
  have hx := exec_grant (q := q) (k := k) hs
  rw [grantAct_dispatcher hd hk he hg, grantDispatcher_mirror hw hm, placeIfComplete_last hn ht htags hmem] at hx
  have hp1 := placeMirror_last q k e s.part
  have hms := placeMirror_mstate e (slotGranted q k e.tag s.part)
  have hdl := placeMirror_divList e (slotGranted q k e.tag s.part)
  have hpt := placeMirror_port e (slotGranted q k e.tag s.part)
  have hpp := fun q' (hq : hasPort e.target q' = true) => placedPort_last (q := q) (k := k) hn ht hk hq
  have hno := fun q' (hq : hasPort e.target q' = true) => heldSlot_placed (q := q) (k := k) hn ht hk hheld hq
  have hrec := placementRecords_eq e (slotGranted q k e.tag s.part)
  have hout : (portsOf e.target).flatMap (placedOutput e (slotGranted q k e.tag s.part)) =
      (portsOf e.target).flatMap (fun q' => sendOutput s.part q' (lastSlot s.part q k e.tag q') (entryOp e)
        (downAddr (s.part.region e.region) q' e.line)) :=
    List.flatMap_congr fun q' hq' => placedOutput_last hn ht ((mem_portsOf ..).mp hq')
  have hsame := placeMirror_same e (slotGranted q k e.tag s.part)
  have hworks : (placeMirror e (slotGranted q k e.tag s.part)).2 = [.notice e.line (isFullLine e)] := rfl
  rw [hworks] at hx
  generalize (placeMirror e (slotGranted q k e.tag s.part)).1 = p1 at *
  have hplaced : placedAs p1 e.tag e.target := by
    refine ⟨e.placed (targetsInService e s.part), ?_, rfl, rfl, rfl, rfl⟩
    rw [hp1]
    exact List.mem_map.mpr ⟨e, hmem, if_pos rfl⟩
  have hcalm := settle_calm (a := (p1, [.notice e.line (isFullLine e), .giveBack q])) (by simp [isCalmWork])
  obtain ⟨-, -, -, -, hnow, hhand, hloss, hmgmt, hmask, -, -, hports⟩ :=
    settle_same (p1, [.notice e.line (isFullLine e), .giveBack q])
  obtain ⟨-, -, -, -, hnow1, hhand1, hloss1, hmgmt1, hmask1, -, -, hports1⟩ := hsame
  have hlink : ∀ q', ((slotGranted q k e.tag s.part).port q').link =
      if q' = q then linkAfterGrant (s.part.port q).link else (s.part.port q').link := fun q' => by
    by_cases h : q' = q
    · subst h; simp [slotGranted_port, portGranted]
    · simp [h, slotGranted_port_ne]
  have hlinks := fun q' => ((hports q').1.trans (hports1 q').1).trans (hlink q')
  refine ⟨_, p1, isFullLine e, targetsInService e s.part, hx, rfl, isFullLine_iff e, fun q' => ?_, ?_, ?_, ?_,
    fun q' hq => ?_, fun q' hq => ?_, fun q' => ⟨hcalm.queue q', (hports q').1⟩,
    hcalm.placed _ _ (placed_tagsDistinct (p' := p1) (by rw [hp1]) htags) hplaced, ?_, fun q' hq => ?_, ?_, ?_, ?_, ?_, ?_⟩
  · rw [targetsInService, hasPort_portSetOf, Bool.and_eq_true, beq_iff_eq]
  · rw [slotGranted_eq] at hrec
    rw [show placementRecords e s.part p1 = recordsOf e s.part from hrec]
    rw [reported_regions, hout] at hp1
    exact hp1
  · rw [slotGranted_eq] at hms
    exact hms
  · simp only [withLine_eq, slotGranted_region] at hdl ⊢
    rw [slotGranted_eq] at hdl
    exact hdl
  · refine ⟨lastSlot s.part q k e.tag q', ?_, ?_, hno q' hq⟩
    · have hl := heldSlot_lastSlot (k := k) hn ht hq
      rw [heldSlot_slotGranted hn] at hl
      by_cases h : q' = q
      · rw [if_pos h, lastSlot, if_pos h]
      · rw [if_neg h]; rwa [if_neg fun hc => h hc.1] at hl
    · rw [hpt, if_pos hq, hpp q' hq]
  · have hne : q' ≠ q := fun h => by simp [h, hqt] at hq
    rw [hpt, if_neg (by simp [hq]), slotGranted_port_ne k e.tag _ hne]
  · exact (hlinks q).trans (if_pos rfl)
  · exact (hlinks q').trans (if_neg hq)
  · exact (hnow.trans hnow1).trans (slotGranted_now ..)
  · exact (hhand.trans hhand1).trans (by rw [slotGranted_eq]; rfl)
  · exact (hloss.trans hloss1).trans (by rw [slotGranted_eq]; rfl)
  · exact (hmgmt.trans hmgmt1).trans (by rw [slotGranted_eq]; rfl)
  · exact (hmask.trans hmask1).trans (by rw [slotGranted_eq]; rfl)

end Sys2Proof.Machine
end

section
/-! SUPPORT. The freeing of an entry and the first target choice, as the works of an event (R11, R17, R27, R44 to R46, R53). -/

namespace Sys2Proof.Machine

/-! ## Runs of works -/

/-- Works that do nothing at this part pass. -/
theorem works_idle {ts rest : List Task} {p p' : Part} {n : Nat} (h : ∀ t ∈ ts, workRank p t = 0 ∧ runTask t p = (p, []))
    (hr : Works rest p p' n) : Works (ts ++ rest) p p' (n + ts.length) := by
  induction ts with
  | nil => exact hr
  | cons t ts ih =>
    obtain ⟨h0, h1⟩ := h t (List.mem_cons_self ..)
    refine .cons h0 ?_
    rw [h1]
    exact ih fun u hu => h u (List.mem_cons_of_mem _ hu)

/-- Give-backs, one after the other (R13). -/
theorem works_giveBacks (l : List Port) (p : Part) :
    Works (l.map .giveBack) p (l.foldl (fun p q => (taskGiveBack q p).1) p) l.length := by
  induction l generalizing p with
  | nil => exact .nil p
  | cons q qs ih =>
    refine .cons rfl ?_
    rw [runTask_giveBack]
    exact ih _

theorem length_portsOf (s : PortSet) : (portsOf s).length ≤ 4 := List.length_filter_le _ _

/-- A turn that is the only work left is taken. -/
theorem works_single {t : Task} {p p' : Part} {n : Nat} (h : Works (runTask t p).2 (runTask t p).1 p' n) :
    Works [t] p p' (n + 1) :=
  .next (nextWork_one p t) (by rwa [List.append_nil])

/-! ## Freeing (R17, R27) -/

/-- The part without the entry, and with its region's count fallen by one. -/
def freed (e : Entry) (p : Part) : Part := lowerInFlight e.region (removeEntry e.tag p)

/-- The response of an entry that has not become ORPHANED. -/
def responseOf (e : Entry) (status : RespStatus) (data : Option LineData) : List Output :=
  if e.state = .orphaned then [] else [.response { tag := e.tag, status := status, data := data }]

theorem finished_eq (p : Part) (e : Entry) (status : RespStatus) (data : Option LineData) :
    p.finished e status data = (freed e p).puts (responseOf e status data) := by
  unfold responseOf Part.finished
  split
  · rw [puts_nil]; rfl
  · rfl

theorem freeEntry_eq (e : Entry) (p : Part) : freeEntry e p = (freed e p, [.drainCheck e.region, .leave e.line]) := rfl

theorem freed_puts (e : Entry) (p : Part) (os : List Output) : freed e (p.puts os) = (freed e p).puts os := rfl

theorem completeEntry_eq (e : Entry) (status : RespStatus) (p : Part) (h : e.state ≠ .orphaned) :
    completeEntry e status p = (p.finished e status (if e.kind == .read && status == .ok then e.readData else none),
      [.drainCheck e.region, .leave e.line]) := by
  simp only [completeEntry, freeEntry_eq, finished_eq, responseOf, if_neg h, out_eq_puts, freed_puts]

theorem inFlight_freed (e : Entry) (p : Part) : ((freed e p).region e.region).inFlight = (p.region e.region).inFlight - 1 := by
  simp [freed, lowerInFlight]

theorem state_freed (e : Entry) (p : Part) : ((freed e p).region e.region).state = (p.region e.region).state := by
  simp [freed, lowerInFlight]

/-- Where the freeing drains no region, its drain check does nothing. -/
theorem not_drained_of_drainsNothing {p : Part} {e : Entry} (h : drainsNothing p e) (status : RespStatus)
    (data : Option LineData) : drained (p.finished e status data) e.region = false := by
  have hd : drained (p.finished e status data) e.region = drained (freed e p) e.region := by rw [finished_eq]; rfl
  rw [hd, ← Bool.not_eq_true, drained_iff, state_freed, inFlight_freed]
  rintro ⟨h1, h2, h3⟩
  rcases h with h | h | h
  · exact h h1
  · omega
  · exact absurd (show windowOn (freed e p) e.region = true from h) (by simp [h3])

/-- Nobody can leave a line that no entry is left for. -/
theorem taskLeave_none {line : UpAddr} {p : Part} (h : ∀ x ∈ p.table, x.line ≠ line) : taskLeave line p = (p, []) := by
  have : p.table.find? (leavesLine p line) = none := by
    rw [List.find?_eq_none]
    intro x hx hc
    exact h x hx ((leavesLine_iff _ _ _).mp hc).1
  simp [taskLeave, this]

/-- The drain check of a freeing that drains nothing, and what comes after it. -/
theorem works_drainsNothing {p p' : Part} {e : Entry} {status : RespStatus} {data : Option LineData} {ts : List Task} {n : Nat}
    (hd : drainsNothing p e) (h : Works ts (p.finished e status data) p' n) :
    Works (.drainCheck e.region :: ts) (p.finished e status data) p' (n + 1) := by
  refine .cons rfl ?_
  rw [show runTask (.drainCheck e.region) (p.finished e status data) = (p.finished e status data, []) from
    taskDrainCheck_kept _ _ (not_drained_of_drainsNothing hd status data)]
  exact h

/-- Nothing follows the freeing of an entry that frees quietly. -/
theorem works_freesQuietly {p : Part} {e : Entry} (h : freesQuietly p e) (status : RespStatus) (data : Option LineData) :
    Works [.drainCheck e.region, .leave e.line] (p.finished e status data) (p.finished e status data) 2 := by
  obtain ⟨hd, hl⟩ := h
  refine works_drainsNothing hd (works_single ?_)
  rw [show runTask (.leave e.line) (p.finished e status data) = (p.finished e status data, []) from
    taskLeave_none fun x hx hxl => ?_]
  · exact .nil _
  · obtain ⟨hx, ht⟩ := List.mem_filter.mp hx
    exact absurd (hl x hx hxl) (by simpa using ht)

/-! ## First target choice -/

theorem findEntry_tag_ne {p : Part} {tag : Tag} (h : findEntry p tag = none) : ∀ e ∈ p.table, e.tag ≠ tag := by
  simpa [findEntry] using h

/-- No other entry has the entry's tag. -/
def ownsTag (p : Part) (e : Entry) : Prop := ∀ x ∈ p.table, x.tag = e.tag → x = e

theorem ownsTag_of_distinct {p : Part} {e : Entry} (hd : tagsDistinct p) (he : e ∈ p.table) : ownsTag p e :=
  fun _ hx ht => eq_of_tag hd hx he ht

theorem findEntry_of_ownsTag {p : Part} {e : Entry} (hd : ownsTag p e) (he : e ∈ p.table) : findEntry p e.tag = some e := by
  cases hf : findEntry p e.tag with
  | none => exact absurd rfl (findEntry_tag_ne hf e he)
  | some x => rw [hd x (findEntry_mem hf).1 (findEntry_mem hf).2]

/-- The wait for slots, with the give-backs it sets off (R11, R13). -/
theorem works_enterWaitingSlot {p : Part} {e : Entry} (targets : PortSet) (hd : ownsTag p e) :
    Works (enterWaitingSlot e targets p).2 (enterWaitingSlot e targets p).1 (slotsAwaited e targets p)
      (portsOf targets).length := by
  have ht : (enterWaitingSlot e targets p).1 =
      updateEntry e.tag (fun x => { x with state := .waitingSlot, target := targets,
                                            tried := if e.kind = .read then x.tried ||| targets else x.tried }) p := by
    simp only [enterWaitingSlot, updateEntry]
    congr 1
    refine List.map_congr_left fun x hx => ?_
    split
    · next h =>
      rw [hd x hx (by simpa using h)]
      by_cases hk : e.kind = .read <;> simp [hk]
    · rfl
  rw [slotsAwaited, ht]
  exact works_giveBacks _ _

section
variable {p p' : Part} {e : Entry} (hd : ownsTag p e) (he : e ∈ p.table) (hm : mayLeave p e = true)
include hd he hm

theorem chooses_of_mayLeave : p.table.find? (leavesLine p e.line) = some e := by
  have hl : leavesLine p e.line e = true := (leavesLine_iff _ _ _).mpr ⟨rfl, hm⟩
  cases hf : p.table.find? (leavesLine p e.line) with
  | none => exact absurd hl (List.find?_eq_none.mp hf e he)
  | some x =>
    obtain ⟨hxl, hxm⟩ := (leavesLine_iff _ _ _).mp (List.find?_some hf)
    have h1 := ((mayLeave_iff _ _).mp hm).2.1
    have h2 := ((mayLeave_iff _ _).mp hxm).2.1
    rw [earliest, hxl] at h2
    rw [hd x (List.mem_of_find?_eq_some hf) (Option.some.inj (h2.symm.trans h1))]

theorem works_leave {n : Nat} (h : Works (chooseFirst e p).2 (chooseFirst e p).1 p' n) : Works [.leave e.line] p p' (n + 1) := by
  refine works_single ?_
  rw [show runTask (.leave e.line) p = chooseFirst e p by simp [runTask, taskLeave, chooses_of_mayLeave hd he hm]]
  exact h

theorem works_leave_waits {p1 : Part} {targets : PortSet} (ht : p1.table = p.table)
    (h : chooseFirst e p = enterWaitingSlot e targets p1) :
    Works [.leave e.line] p (slotsAwaited e targets p1) ((portsOf targets).length + 1) := by
  refine works_leave hd he hm ?_
  rw [h]
  exact works_enterWaitingSlot targets (by rwa [ownsTag, ht])

theorem works_leave_portDown (hq : freesQuietly p e) (h : chooseFirst e p = completeEntry e .portDown p) :
    Works [.leave e.line] p (p.finished e .portDown none) 3 := by
  refine works_leave hd he hm ?_
  rw [h, completeEntry_eq _ _ _ (by simp [((mayLeave_iff _ _).mp hm).1])]
  simpa using works_freesQuietly hq .portDown none

theorem works_leave_write {targets : PortSet} (hk : e.kind = .write) (hmode : (p.region e.region).mode = .mirror)
    (h0 : targets ≠ 0#4)
    (ht : ∀ q, hasPort targets q = true ↔ mstate p e.region q = some .inService ∨ mstate p e.region q = some .rejoining)
    (hup : ∀ q, hasPort targets q = true → portDown p q = false) :
    Works [.leave e.line] p (slotsAwaited e targets p)
      ((portsOf targets).length + 1 + (memberPorts (p.region e.region)).length + 1) := by
  have hmir : isMirrorEntry p e = true := by simp [isMirrorEntry, hmode]
  have hf := findEntry_of_ownsTag hd he
  have hw : writeTargets p e.region = targets := portSet_ext fun q => by
    rw [writeTargets, hasPort_portSetOf, Bool.eq_iff_iff, ht]
    simp only [Bool.and_eq_true, Bool.or_eq_true, beq_iff_eq, Bool.not_eq_true']
    exact ⟨And.left, fun h => ⟨h, hup q ((ht q).mpr h)⟩⟩
  refine works_leave hd he hm ?_
  rw [show chooseFirst e p = (p, (memberPorts (p.region e.region)).map (.immediateFailure e.tag) ++ [.fixTargets e.tag]) by
    simp [chooseFirst, hmir, hk]]
  have hidle : ∀ t ∈ (memberPorts (p.region e.region)).map (Task.immediateFailure e.tag),
      workRank p t = 0 ∧ runTask t p = (p, []) := by
    intro t htm
    obtain ⟨q, -, rfl⟩ := List.mem_map.mp htm
    refine ⟨rfl, ?_⟩
    have : ((mstate p e.region q == some .inService || mstate p e.region q == some .rejoining) && portDown p q) = false := by
      by_contra hc
      simp only [Bool.not_eq_false, Bool.and_eq_true, Bool.or_eq_true, beq_iff_eq] at hc
      exact absurd (hup q ((ht q).mpr hc.1)) (by simp [hc.2])
    simp only [runTask, taskImmediateFailure, hf, this]
    rfl
  have := works_idle hidle (works_single (t := .fixTargets e.tag) (p' := slotsAwaited e targets p) (n := (portsOf targets).length) (by
    rw [show runTask (.fixTargets e.tag) p = enterWaitingSlot e targets p by simp [runTask, taskFixTargets, hf, hw, hm, h0]]
    exact works_enterWaitingSlot targets hd))
  rwa [List.length_map] at this

/-- What the turn of an entry that may leave its line leads to. -/
theorem firstChoiceMade_of (hrun : ∀ x n, n ≤ 16 → Works [.leave e.line] p x n → p' = x) : firstChoiceMade p e p' := by
  have hlen := length_portsOf
  refine ⟨fun m hmode hmem => ?_, fun hmode hk => ?_, fun targets hmode hk h0 ht hup => ?_⟩
  · have hmir : isMirrorEntry p e = false := by simp [isMirrorEntry, hmode]
    refine ⟨fun hup => ?_, fun hdn hq => ?_⟩
    · refine hrun _ _ ?_ (works_leave_waits hd he hm rfl (targets := onePort m.port) ?_)
      · have := hlen (onePort m.port); omega
      · simp [chooseFirst, hmir, chooseDirect, hmem, hup]
    · exact hrun _ _ (by omega) (works_leave_portDown hd he hm hq (by simp [chooseFirst, hmir, chooseDirect, hmem, hdn]))
  · have hmir : isMirrorEntry p e = true := by simp [isMirrorEntry, hmode]
    refine ⟨fun q p1 hc => ?_, fun hc hq => ?_⟩
    · refine hrun _ _ ?_ (works_leave_waits hd he hm (chooseRead_aside hc).table (targets := onePort q) ?_)
      · have := hlen (onePort q); omega
      · simp [chooseFirst, hmir, hk, hc]
    · exact hrun _ _ (by omega) (works_leave_portDown hd he hm hq (by simp [chooseFirst, hmir, hk, hc]))
  · refine hrun _ _ ?_ (works_leave_write hd he hm hk hmode h0 ht hup)
    have h1 := hlen targets
    have h2 : (memberPorts (p.region e.region)).length ≤ 4 := List.length_filter_le _ _
    omega

end

end Sys2Proof.Machine
end

section
/-! SUPPORT. The entry an admission creates and its first choice (R8, R9, R11, R43 to R53). -/

namespace Sys2Proof.Machine

/-! ## Give-backs leave all but held slots (R13) -/

theorem giveBacks_spec (l : List Port) (p : Part) :
    ∃ ports, l.foldl (fun p q => (taskGiveBack q p).1) p = { p with ports := ports } ∧
      ∀ q, ((l.foldl (fun p q => (taskGiveBack q p).1) p).port q).queue = (p.port q).queue := by
  induction l generalizing p with
  | nil => exact ⟨p.ports, rfl, fun _ => rfl⟩
  | cons x xs ih =>
    obtain ⟨ports, h1, h2⟩ := ih (taskGiveBack x p).1
    obtain ⟨-, H, hH, -⟩ := taskGiveBack_spec x p
    refine ⟨ports, ?_, fun q => (h2 q).trans ((taskGiveBack_calm x p).queue q)⟩
    rw [List.foldl_cons, h1, hH]
    rfl

theorem giveBacks_same (l : List Port) (p : Part) : sameOutside p (l.foldl (fun p q => (taskGiveBack q p).1) p) :=
  foldl_same _ (fun p q => by simpa [runTask] using runTask_same (.giveBack q) p) l p

/-- The wait for slots changes the entry, and held slots. -/
theorem slotsAwaited_spec (e : Entry) (targets : PortSet) (p : Part) :
    ∃ ports, slotsAwaited e targets p = { p with
        ports := ports
        table := p.table.map (fun x => if x.tag == e.tag then
          { x with state := .waitingSlot, target := targets, tried := if e.kind = .read then x.tried ||| targets else x.tried }
          else x) } ∧
      (∀ q, ((slotsAwaited e targets p).port q).queue = (p.port q).queue) ∧ sameOutside p (slotsAwaited e targets p) := by
  obtain ⟨ports, h1, h2⟩ := giveBacks_spec (portsOf targets) (updateEntry e.tag (fun x => { x with
    state := .waitingSlot, target := targets, tried := if e.kind = .read then x.tried ||| targets else x.tried }) p)
  exact ⟨ports, h1, h2, sameOutside_trans (updateEntry_same ..) (giveBacks_same ..)⟩

/-! ## The created entry (R8) -/

/-- The part with the new entry and its region's count risen. -/
def created (tag : Tag) (op : Op) (line : UpAddr) (r : RegionIx) (p : Part) : Part :=
  raiseInFlight r (p.setTable (p.table ++ [newEntry tag op line r]))

@[simp] theorem tag_newEntry (tag : Tag) (op : Op) (line : UpAddr) (r : RegionIx) : (newEntry tag op line r).tag = tag := rfl
@[simp] theorem line_newEntry (tag : Tag) (op : Op) (line : UpAddr) (r : RegionIx) : (newEntry tag op line r).line = line := rfl
@[simp] theorem region_newEntry (tag : Tag) (op : Op) (line : UpAddr) (r : RegionIx) :
    (newEntry tag op line r).region = r := rfl

theorem table_created (tag : Tag) (op : Op) (line : UpAddr) (r : RegionIx) (p : Part) :
    (created tag op line r p).table = p.table ++ [newEntry tag op line r] := rfl

theorem region_created (tag : Tag) (op : Op) (line : UpAddr) (r r' : RegionIx) (p : Part) :
    (created tag op line r p).region r' =
      if r' = r then { p.region r with inFlight := (p.region r).inFlight + 1 } else p.region r' := by
  rw [created, raiseInFlight, region_setRegion, region_setTable]
  rfl

theorem created_same (tag : Tag) (op : Op) (line : UpAddr) (r : RegionIx) (p : Part) : sameOutside p (created tag op line r p) :=
  sameOutside_trans (setTable_same ..) (setRegion_same ..)

theorem mstate_created (tag : Tag) (op : Op) (line : UpAddr) (r r' : RegionIx) (p : Part) (q : Port) :
    mstate (created tag op line r p) r' q = mstate p r' q := by
  rw [mstate, region_created]
  split
  · next h => rw [h]; rfl
  · rfl

section
variable {tag : Tag} {line : UpAddr} {r : RegionIx} {p : Part} (op : Op) (hf : ∀ x ∈ p.table, x.tag ≠ tag ∧ x.line ≠ line)

theorem newEntry_mem (p : Part) : newEntry tag op line r ∈ (created tag op line r p).table := by simp [table_created]

include hf

theorem newEntry_ownsTag : ownsTag (created tag op line r p) (newEntry tag op line r) := by
  intro x hx ht
  rcases List.mem_append.mp hx with hx | hx
  · exact absurd ht (hf x hx).1
  · exact List.mem_singleton.mp hx

/-- With its line free the new entry is the first for it. -/
theorem newEntry_mayLeave (hc : p.lineClaim ≠ some line) : mayLeave (created tag op line r p) (newEntry tag op line r) = true := by
  refine (mayLeave_iff _ _).mpr ⟨rfl, ?_, hc⟩
  have : p.table.find? (fun x => x.line == line) = none := by simpa using fun x hx => (hf x hx).2
  rw [earliest, table_created, List.find?_append, show (newEntry tag op line r).line = line from rfl, this]
  simp [newEntry]

/-- The entries the new one is added to keep their form when it takes another. -/
theorem table_newEntry_map (f : Entry → Entry) :
    (p.table ++ [newEntry tag op line r]).map (fun x => if x.tag == (newEntry tag op line r).tag then f x else x) =
      p.table ++ [f (newEntry tag op line r)] := by
  have : p.table.map (fun x => if x.tag == (newEntry tag op line r).tag then f x else x) = p.table :=
    (List.map_congr_left fun x hx => if_neg (by simpa using (hf x hx).1)).trans (List.map_id' _)
  rw [List.map_append, this]
  simp

/-- The new entry frees quietly, and its freeing leaves the part as it was before the admission. -/
theorem newEntry_freesQuietly (hr : (p.region r).state = .live) :
    freesQuietly (created tag op line r p) (newEntry tag op line r) := by
  refine ⟨.inl ?_, fun x hx hl => ?_⟩
  · rw [region_newEntry, region_created, if_pos rfl]
    simp [hr]
  · rcases List.mem_append.mp hx with hx | hx
    · exact absurd hl (hf x hx).2
    · rw [List.mem_singleton.mp hx]

theorem newEntry_freed : freed (newEntry tag op line r) (created tag op line r p) = p := by
  have ht : (p.table ++ [newEntry tag op line r]).filter (fun x => x.tag != tag) = p.table := by
    rw [List.filter_append, List.filter_eq_self.mpr fun x hx => by simpa using (hf x hx).1]
    simp [newEntry]
  have hp : freed (newEntry tag op line r) (created tag op line r p) =
      (lowerInFlight r (raiseInFlight r p)).setTable ((p.table ++ [newEntry tag op line r]).filter (fun x => x.tag != tag)) := rfl
  have hl : lowerInFlight r (raiseInFlight r p) = p := by
    rw [lowerInFlight, raiseInFlight, setRegion_setRegion, region_setRegion_self]
    exact setRegion_self p r
  rw [hp, ht, hl]
  rfl

end

/-! ## Admissions with a free line -/

/-- An admission whose line is free: the new entry makes its first choice. -/
theorem exec_admission_made {tag : Tag} {line : UpAddr} {r : RegionIx} {s : State} (op : Op) (hu : upReady s.part = true)
    (hf : ∀ x ∈ s.part.table, x.tag ≠ tag ∧ x.line ≠ line) (hc : s.part.lineClaim ≠ some line)
    (hl : lookupRegion s.part line = some r) (hr : (s.part.region r).state = .live) :
    ∃ p', leavesPart (.admission tag op line) s p' ∧
      firstChoiceMade (created tag op line r s.part) (newEntry tag op line r) p' := by
  have hx := exec_admission (tag := tag) (op := op) (line := line) hu
  rw [takeRequest_live op hu (fun x hx => (hf x hx).1) hl hr] at hx
  exact ⟨_, hx, firstChoiceMade_of (newEntry_ownsTag op hf) (newEntry_mem op _) (newEntry_mayLeave op hf hc)
    fun x n hn h => settle_of_works h (by omega)⟩

/-- The new entry waits for slots at these targets. -/
structure AdmittedTo (p p' : Part) (e : Entry) : Prop where
  table : p'.table = p.table ++ [e]
  others : ∀ r', r' ≠ e.region → p'.region r' = p.region r'
  trace : p'.trace = p.trace
  events : p'.events = p.events
  lists : p'.lists = p.lists
  queue : ∀ q, (p'.port q).queue = (p.port q).queue
  outside : sameOutside p p'

section
variable {tag : Tag} {line : UpAddr} {r : RegionIx} {p : Part} (op : Op) (hf : ∀ x ∈ p.table, x.tag ≠ tag ∧ x.line ≠ line)
include hf

/-- The wait for slots of the new entry, with its region as it then stands. -/
theorem slotsAwaited_newEntry (targets : PortSet) (x : Region) :
    AdmittedTo p (slotsAwaited (newEntry tag op line r) targets ((created tag op line r p).setRegion r x))
      { newEntry tag op line r with state := .waitingSlot, target := targets,
                                    tried := if op = .read then targets else 0#4 } ∧
    (slotsAwaited (newEntry tag op line r) targets ((created tag op line r p).setRegion r x)).region r = x := by
  obtain ⟨ports, h, hq, hs⟩ := slotsAwaited_spec (newEntry tag op line r) targets ((created tag op line r p).setRegion r x)
  have ht : (if (newEntry tag op line r).kind = .read then (newEntry tag op line r).tried ||| targets
      else (newEntry tag op line r).tried) = if op = .read then targets else 0#4 := by
    cases op <;> simp [newEntry]
  refine ⟨⟨?_, fun r' hr' => ?_, by rw [h]; rfl, by rw [h]; rfl, by rw [h]; rfl, hq, ?_⟩, ?_⟩
  · rw [h, ← ht]
    exact table_newEntry_map op hf _
  · rw [h]
    show ((created tag op line r p).setRegion r x).region r' = _
    rw [region_newEntry] at hr'
    rw [region_setRegion, if_neg hr', region_created, if_neg hr']
  · exact sameOutside_trans (created_same ..) (sameOutside_trans (setRegion_same ..) hs)
  · rw [h]
    exact region_setRegion_self ..

theorem newEntry_finished (status : RespStatus) :
    (created tag op line r p).finished (newEntry tag op line r) status none =
      { p with trace := p.trace ++ [.response { tag := tag, status := status, data := none }] } := by
  rw [finished_eq, newEntry_freed op hf]
  rfl

end

theorem created_self (tag : Tag) (op : Op) (line : UpAddr) (r : RegionIx) (p : Part) :
    created tag op line r p =
      (created tag op line r p).setRegion r { p.region r with inFlight := (p.region r).inFlight + 1 } := by
  rw [created, raiseInFlight, setRegion_setRegion]
  rfl

/-! ## A line that is held or claimed (R9) -/

theorem taskLeave_held {tag : Tag} {op : Op} {line : UpAddr} {r : RegionIx} {p : Part} (ht : ∀ e ∈ p.table, e.tag ≠ tag)
    (hl : lineHeld p) (h : (∃ e ∈ p.table, e.line = line ∧ e.state ≠ .waitingLine) ∨ p.lineClaim = some line) :
    taskLeave line (created tag op line r p) = (created tag op line r p, []) := by
  have : (created tag op line r p).table.find? (leavesLine (created tag op line r p) line) = none := by
    rw [List.find?_eq_none]
    intro x hx hc
    obtain ⟨hxl, hm⟩ := (leavesLine_iff _ _ _).mp hc
    obtain ⟨hxs, hxe, hxc⟩ := (mayLeave_iff _ _).mp hm
    rcases h with ⟨e, he, hel, hes⟩ | h
    · obtain ⟨hd, hh⟩ := hl
      have hfirst := hh e he hes
      rw [hel] at hfirst
      rw [earliest, hxl, table_created, List.find?_append] at hxe
      cases hf : p.table.find? (fun x => x.line == line) with
      | none => simp [hf] at hfirst
      | some y =>
        rw [hf] at hfirst hxe
        have hxt : x.tag = e.tag := Option.some.inj (hxe.symm.trans hfirst)
        rcases List.mem_append.mp hx with hx | hx
        · exact hes (eq_of_tag hd hx he hxt ▸ hxs)
        · rw [List.mem_singleton.mp hx] at hxt
          exact ht e he hxt.symm
    · exact hxc (hxl ▸ h)
  simp [taskLeave, this]

/-- Settles O5: behind a live entry or a line claim the new one waits; else its first choice decides. -/
theorem admissionWaitsOrIsDirect : Obligations.AdmissionWaitsOrIsDirect := by
  refine ⟨fun tag op line r s hu ht hl hr hh h => ?_, fun tag op line r m s hu hf hc hl hr hmode hm => ?_⟩
  · have hx := exec_admission (tag := tag) (op := op) (line := line) hu
    rw [takeRequest_live op hu ht hl hr] at hx
    rwa [show createEntry tag op line r s.part = created tag op line r s.part from
      settle_one _ _ _ (taskLeave_held ht hh h)] at hx
  · obtain ⟨p', hx, hmade, -⟩ := exec_admission_made op hu hf hc hl hr
    obtain ⟨hup, hdn⟩ := hmade m (by rw [region_newEntry, region_created, if_pos rfl]; exact hmode)
      (by rw [region_newEntry, region_created, if_pos rfl]; exact hm)
    refine ⟨fun hp => ?_, fun hp => ?_⟩
    · obtain ⟨ha, hreg⟩ := slotsAwaited_newEntry (r := r) op hf (onePort m.port)
        { s.part.region r with inFlight := (s.part.region r).inFlight + 1 }
      rw [← created_self, ← hup hp] at ha hreg
      exact ⟨_, hx, ha.table, hreg, ha.others, ha.trace, ha.events, ha.lists, ha.queue, ha.outside⟩
    · rwa [hdn hp (newEntry_freesQuietly op hf hr), newEntry_finished op hf] at hx

/-! ## MIRROR reads (R46 to R49) -/

theorem hasPort_zero (q : Port) : hasPort 0#4 q = false := by revert q; decide

theorem eligiblePorts_created (tag : Tag) (line : UpAddr) (r : RegionIx) (p : Part) :
    eligiblePorts (created tag .read line r p) (newEntry tag .read line r) =
      allPorts.filter (fun q => mstate p r q == some .inService && !portDown p q) := by
  refine List.filter_congr fun q _ => ?_
  rw [region_newEntry, mstate_created, show hasPort (newEntry tag .read line r).tried q = false from hasPort_zero q]
  simp only [Bool.not_false, Bool.and_true]
  rfl

/-- A read policy looks at the occupancies, which an admission leaves. -/
theorem policyChoice_created (tag : Tag) (line : UpAddr) (r : RegionIx) (p : Part) (l : List Port) :
    policyChoice (created tag .read line r p) ((created tag .read line r p).region r) l = policyChoice p (p.region r) l := by
  rw [region_created, if_pos rfl]
  rfl

theorem policyChoice_nil (p : Part) (x : Region) : policyChoice p x [] = none := by
  unfold policyChoice
  cases x.policy with
  | balance => rfl
  | preferred => cases x.preferred <;> rfl
  | alternate => simp

theorem chooseRead_created {tag : Tag} {line : UpAddr} {r : RegionIx} {p : Part} {q : Port}
    (h : policyChoice p (p.region r)
      (allPorts.filter (fun q => mstate p r q == some .inService && !portDown p q)) = some q) :
    chooseRead (created tag .read line r p) (newEntry tag .read line r) =
      some (q, (created tag .read line r p).setRegion r { p.region r with
        inFlight := (p.region r).inFlight + 1
        alternate := if (p.region r).policy = .alternate then some q else (p.region r).alternate }) := by
  unfold chooseRead
  dsimp only
  rw [eligiblePorts_created, region_newEntry, policyChoice_created, h]
  dsimp only
  rw [region_created, if_pos rfl]
  by_cases hp : (p.region r).policy = .alternate
  · simp [hp]
  · simp only [beq_iff_eq, hp, if_false]
    rw [← created_self]

/-- Settles O6: the policy's choice among the eligible copies is the new entry's first choice. -/
theorem admissionMirrorRead : Obligations.AdmissionMirrorRead := by
  intro tag line r s hu hf hc hl hr hmode
  obtain ⟨p', hx, -, hmade, -⟩ := exec_admission_made .read hu hf hc hl hr
  obtain ⟨hsome, hnone⟩ := hmade (by rw [region_newEntry, region_created, if_pos rfl]; exact hmode) rfl
  refine ⟨fun q hq => ?_, fun hdn => ?_⟩
  · obtain ⟨ha, hreg⟩ := slotsAwaited_newEntry (r := r) .read hf (onePort q) { s.part.region r with
        inFlight := (s.part.region r).inFlight + 1
        alternate := if (s.part.region r).policy = .alternate then some q else (s.part.region r).alternate }
    rw [← hsome q _ (chooseRead_created hq)] at ha hreg
    exact ⟨_, hx, ha.table, hreg, ha.others, ha.trace, ha.events, ha.lists, ha.queue, ha.outside⟩
  · have hn : chooseRead (created tag .read line r s.part) (newEntry tag .read line r) = none := by
      have : eligiblePorts (created tag .read line r s.part) (newEntry tag .read line r) = [] := by
        rw [eligiblePorts_created, List.filter_eq_nil_iff]
        intro q _ h
        simp only [Bool.and_eq_true, beq_iff_eq, Bool.not_eq_true'] at h
        exact absurd (hdn q h.1) (by simp [h.2])
      simp only [chooseRead, this, policyChoice_nil]
    rwa [hnone hn (newEntry_freesQuietly .read hf hr), newEntry_finished .read hf] at hx

/-! ## MIRROR writes (R53) -/

/-- Settles O7: with every copy's link up the first choice takes all IN_SERVICE and REJOINING copies. -/
theorem admissionMirrorWrite : Obligations.AdmissionMirrorWrite := by
  intro tag mask data line r s hu hf hc hl hr hmode hup ⟨q0, hq0⟩
  obtain ⟨p', hx, -, -, hmade⟩ := exec_admission_made (.write mask data) hu hf hc hl hr
  have ht : ∀ q, hasPort (portSetOf fun q => mstate s.part r q == some .inService || mstate s.part r q == some .rejoining) q =
      true ↔ mstate s.part r q = some .inService ∨ mstate s.part r q = some .rejoining := by simp [hasPort_portSetOf]
  generalize (portSetOf fun q => mstate s.part r q == some .inService || mstate s.part r q == some .rejoining) = targets at ht
  have hm := hmade targets (by rw [region_newEntry, region_created, if_pos rfl]; exact hmode) rfl
    (fun h => by have := (ht q0).mpr (.inl hq0); rw [h, hasPort_zero] at this; exact absurd this (by simp))
    (fun q => by rw [region_newEntry, mstate_created]; exact ht q) (fun q hq => hup q ((ht q).mp hq))
  obtain ⟨ha, hreg⟩ := slotsAwaited_newEntry (r := r) (.write mask data) hf targets
    { s.part.region r with inFlight := (s.part.region r).inFlight + 1 }
  rw [← created_self, ← hm] at ha hreg
  exact ⟨_, _, hx, ha.table, rfl, rfl, rfl, rfl, rfl, rfl, ht, rfl, rfl, rfl, rfl, hreg, ha.others, ha.trace, ha.events,
    ha.lists, ha.queue, ha.outside⟩

end Sys2Proof.Machine
end

section
/-! SUPPORT. What a report changes, and the works it sets off where it abandons no running job (R63 to R67). -/

namespace Sys2Proof.Machine

/-! ## Reports change memberships and post (R64 to R66) -/

/-- From `p` to `p'` regions and events alone change. -/
def RegionsOnly (p p' : Part) : Prop := p' = { p with regions := p'.regions, events := p'.events }

theorem RegionsOnly.refl (p : Part) : RegionsOnly p p := rfl

theorem RegionsOnly.trans {a b c : Part} (h : RegionsOnly a b) (h' : RegionsOnly b c) : RegionsOnly a c := by
  unfold RegionsOnly at h h' ⊢
  rw [h', h]

theorem RegionsOnly.foldl {α : Type} {f : Part → α → Part} (h : ∀ p x, RegionsOnly p (f p x)) :
    ∀ (l : List α) (p : Part), RegionsOnly p (l.foldl f p)
  | [], p => .refl p
  | x :: xs, p => (h p x).trans (foldl h xs (f p x))

section
variable {p p' : Part} (h : RegionsOnly p p')
include h

theorem RegionsOnly.table : p'.table = p.table := by rw [h]
theorem RegionsOnly.jobs : p'.jobs = p.jobs := by rw [h]
theorem RegionsOnly.window : p'.window = p.window := by rw [h]
theorem RegionsOnly.lineClaim : p'.lineClaim = p.lineClaim := by rw [h]
theorem RegionsOnly.lists : p'.lists = p.lists := by rw [h]
theorem RegionsOnly.divList (q : Port) : p'.divList q = p.divList q := by rw [h]; rfl
theorem RegionsOnly.handed : p'.handed = p.handed := by rw [h]

end

theorem ejectMember_only (r : RegionIx) (q : Port) (why : Reason) (p : Part) : RegionsOnly p (ejectMember r q why p) := rfl

theorem takeOutRejoining_only (q : Port) (why : Reason) (p : Part) : RegionsOnly p (takeOutRejoining q why p) := by
  refine .foldl (fun p r => ?_) _ p
  split
  · exact ejectMember_only ..
  · exact .refl p

theorem takeReport_only (r : RegionIx) (q : Port) (why : Reason) (line : Option UpAddr) (p : Part) :
    RegionsOnly p (takeReport r q why line p) := by
  unfold takeReport
  split
  · split
    · exact ejectMember_only ..
    · exact rfl
  · exact takeOutRejoining_only ..
  all_goals exact .refl p

/-- The jobs that a report leaves (R66). -/
theorem reportTaken_eq (r : RegionIx) (q : Port) (why : Reason) (line : Option UpAddr) (p : Part) :
    ∃ events, reportTaken r q why line p = { takeReport r q why line p with
      events := events
      jobs := if mstate p r q = some .rejoining then p.jobs.filter (fun j => !isCatchUp q j) else p.jobs } := by
  unfold reportTaken
  split
  · next h => exact ⟨_, by rw [if_pos h.1]; rfl⟩
  · next h =>
    refine ⟨(takeReport r q why line p).events, ?_⟩
    have hj : (takeReport r q why line p).jobs =
        if mstate p r q = some .rejoining then p.jobs.filter (fun j => !isCatchUp q j) else p.jobs := by
      rw [(takeReport_only ..).jobs]
      split
      · next hm =>
        refine (List.filter_eq_self.mpr fun j hj => ?_).symm
        have : p.jobs.any (isCatchUp q) = false := by simpa [hm] using h
        simpa using List.any_eq_false.mp this j hj
      · rfl
    rw [← hj]

theorem reportTaken_aside (r : RegionIx) (q : Port) (why : Reason) (line : Option UpAddr) (p : Part) :
    Aside p (reportTaken r q why line p) := by
  obtain ⟨events, h⟩ := reportTaken_eq r q why line p
  rw [h]
  exact (takeReport_aside r q why line p).trans (.of_regions rfl rfl rfl)

theorem reportTaken_window (r : RegionIx) (q : Port) (why : Reason) (line : Option UpAddr) (p : Part) :
    (reportTaken r q why line p).window = p.window := by
  obtain ⟨events, h⟩ := reportTaken_eq r q why line p
  rw [h]
  exact (takeReport_only ..).window

theorem reportTaken_lineClaim (r : RegionIx) (q : Port) (why : Reason) (line : Option UpAddr) (p : Part) :
    (reportTaken r q why line p).lineClaim = p.lineClaim := by
  obtain ⟨events, h⟩ := reportTaken_eq r q why line p
  rw [h]
  exact (takeReport_only ..).lineClaim

/-! ## Runs of bounded length -/

/-- The works come to an end at `p'`, in at most `n` works. -/
def RunsTo (n : Nat) (ts : List Task) (p p' : Part) : Prop := ∃ m ≤ n, Works ts p p' m

theorem RunsTo.mono {n m : Nat} {ts : List Task} {p p' : Part} (h : RunsTo n ts p p') (hnm : n ≤ m) : RunsTo m ts p p' := by
  obtain ⟨k, hk, hw⟩ := h
  exact ⟨k, hk.trans hnm, hw⟩

theorem RunsTo.cons {n : Nat} {t : Task} {ts : List Task} {p p' : Part} (h0 : workRank p t = 0)
    (h : RunsTo n ((runTask t p).2 ++ ts) (runTask t p).1 p') : RunsTo (n + 1) (t :: ts) p p' := by
  obtain ⟨k, hk, hw⟩ := h
  exact ⟨k + 1, by omega, .cons h0 hw⟩

theorem RunsTo.single {n : Nat} {t : Task} {p p' : Part} (h : RunsTo n (runTask t p).2 (runTask t p).1 p') :
    RunsTo (n + 1) [t] p p' := by
  obtain ⟨k, hk, hw⟩ := h
  exact ⟨k + 1, by omega, works_single hw⟩

theorem RunsTo.nil (p : Part) : RunsTo 0 [] p p := ⟨0, le_rfl, .nil p⟩

theorem settle_of_runsTo {n : Nat} {a : Act} {p' : Part} (h : RunsTo n a.2 a.1 p') (hn : n ≤ 4096) : settle a = p' := by
  obtain ⟨k, hk, hw⟩ := h
  exact settle_of_works hw (hk.trans hn)

/-! ## Reports that abandon no running job -/

/-- A head that has started, or a window, keeps the next job waiting (R119). -/
theorem taskHeadStart_held {p : Part} (h : headHeld p) : taskHeadStart p = (p, []) := by
  rcases hj : p.jobs with _ | ⟨j, js⟩
  · cases hw : p.window <;> simp [taskHeadStart, hj, hw]
  · cases hw : p.window with
    | some w => simp [taskHeadStart, hj, hw]
    | none =>
      have : j.started = true := by simpa [headHeld, hj, hw] using h
      simp [taskHeadStart, hj, hw, this]

theorem taskHeadStart_noJob {p : Part} (h : p.jobs = []) : taskHeadStart p = (p, []) := by
  cases hw : p.window <;> simp [taskHeadStart, h, hw]

/-- A head that stays when other jobs leave keeps what waits behind it waiting. -/
theorem headHeld_filter {p p' : Part} {f : Job → Bool} (hw : p'.window = p.window) (hj : p'.jobs = p.jobs.filter f)
    (hf : ∀ j ∈ p.jobs, j.started = true → f j = true) (h : headHeld p) : headHeld p' := by
  refine h.imp (fun h => ?_) (fun h => by rwa [hw])
  rw [hj]
  rcases hl : p.jobs with _ | ⟨j, js⟩
  · simp [hl] at h
  · have hs : j.started = true := by simpa [hl] using h
    rw [List.filter_cons, if_pos (hf j (hl ▸ List.mem_cons_self ..) hs)]
    simp [hs]

/-- A report where the port's job waits: the job is abandoned and nothing starts (R66). -/
theorem runsTo_report {p p' : Part} {r : RegionIx} {q : Port} (why : Reason) (line : Option UpAddr) {ts : List Task} {n : Nat}
    (hw : reportWaits p r q) (h : RunsTo n ts (reportTaken r q why line p) p') :
    RunsTo (n + 2) (.report r q why line :: ts) p p' := by
  by_cases hm : mstate p r q = some .rejoining
  · obtain ⟨hh, hs⟩ := hw hm
    have ht : runTask (.report r q why line) p =
        leaveCatchUp q (some (copyAbortedEvent q .target)) (takeReport r q why line p) := by simp [runTask, taskReport, hm]
    have hj := (takeReport_only r q why line p).jobs
    cases hf : p.jobs.find? (isCatchUp q) with
    | none =>
      have hany : ¬ p.jobs.any (isCatchUp q) = true := by
        simpa using fun j hj => List.find?_eq_none.mp hf j hj
      rw [reportTaken, if_neg fun hc => hany hc.2] at h
      refine (RunsTo.cons rfl ?_).mono (by omega : n + 1 ≤ n + 2)
      rw [ht, leaveCatchUp, hj, hf]
      exact h
    | some j =>
      have hjm := List.mem_of_find?_eq_some hf
      have hjc := List.find?_some hf
      have hany : p.jobs.any (isCatchUp q) = true := List.any_eq_true.mpr ⟨j, hjm, hjc⟩
      have hab : leaveCatchUp q (some (copyAbortedEvent q .target)) (takeReport r q why line p) =
          (reportTaken r q why line p, [.headStart]) := by
        simp only [leaveCatchUp, hj, hf, hs j hjm hjc, reportTaken, hm, hany, jobsWithout]
        rfl
      have hheld : headHeld (reportTaken r q why line p) := by
        obtain ⟨events, he⟩ := reportTaken_eq r q why line p
        refine headHeld_filter (f := fun j => !isCatchUp q j) (reportTaken_window ..) (by rw [he, if_pos hm]) (fun x hx hxs => ?_) hh
        by_contra hc
        exact absurd hxs (by simp [hs x hx (by simpa using hc)])
      refine .cons rfl ?_
      rw [ht, hab]
      refine .cons rfl ?_
      rw [show runTask .headStart (reportTaken r q why line p) = _ from taskHeadStart_held hheld]
      exact h
  · refine (RunsTo.cons rfl ?_).mono (by omega : n + 1 ≤ n + 2)
    rw [reportTaken_plain why line hm] at h
    simpa [runTask, taskReport, hm] using h

end Sys2Proof.Machine
end

section
/-! SUPPORT. The outcomes of host transactions (R16, R20, R45, R51, R57). -/

namespace Sys2Proof.Machine

/-! ## Taking the outcome -/

theorem exec_hostOutcome {q : Port} {h : Handed} {rest : List Handed} {tag : Tag} {s : State} (hs : s.part.porst = false)
    (ht : takeFirst (fun h => h.port == q && isHost h.origin) s.part.handed = some (h, rest)) (ho : h.origin = .host tag) :
    leavesPart (.hostOutcome q) s (settle (takeHostOutcome tag q h.result { s.part with handed := rest })) := by
  have := onPart_running (hostOutcome q) s hs
  rwa [show hostOutcome q s.part = settle (takeHostOutcome tag q h.result { s.part with handed := rest }) by
    simp [hostOutcome, ht, ho]] at this

/-- The same, with the works' end known. -/
theorem exec_hostOutcome_to {q : Port} {h : Handed} {rest : List Handed} {tag : Tag} {s : State} {p' : Part} {n : Nat}
    (hs : s.part.porst = false) (ht : takeFirst (fun h => h.port == q && isHost h.origin) s.part.handed = some (h, rest))
    (ho : h.origin = .host tag) (hn : n ≤ 4096)
    (hr : RunsTo n (takeHostOutcome tag q h.result { s.part with handed := rest }).2
      (takeHostOutcome tag q h.result { s.part with handed := rest }).1 p') : leavesPart (.hostOutcome q) s p' := by
  have := exec_hostOutcome hs ht ho
  rwa [settle_of_runsTo hr hn] at this

/-- An entry in a new form is found by its tag. -/
theorem findEntry_updateEntry {p : Part} {tag : Tag} {e : Entry} {f : Entry → Entry} (hf : ∀ x, x.tag = tag → (f x).tag = tag)
    (h : findEntry p tag = some e) : findEntry (updateEntry tag f p) tag = some (f e) := by
  have hc : ∀ x : Entry, ((if x.tag == tag then f x else x).tag == tag) = (x.tag == tag) := fun x => by
    by_cases hx : x.tag = tag
    · simp [hx, hf x hx]
    · simp [hx]
  have he := (findEntry_mem h).2
  rw [findEntry] at h
  rw [findEntry, table_updateEntry, List.find?_map,
    show ((fun x : Entry => x.tag == tag) ∘ fun x => if x.tag == tag then f x else x) = fun x => x.tag == tag from funext hc, h]
  simp [he]

/-! ## Finishing (R16, R17, R20) -/

/-- The finished part shows tag, region and state of the freed entry alone. -/
theorem finished_congr {p : Part} {e e' : Entry} (ht : e'.tag = e.tag) (hr : e'.region = e.region) (hs : e'.state = e.state)
    (status : RespStatus) (data : Option LineData) : p.finished e' status data = p.finished e status data := by
  rw [finished_eq, finished_eq, freed, freed, responseOf, responseOf, ht, hr, hs]

theorem updateEntry_others {tag : Tag} {f : Entry → Entry} (hf : ∀ x, x.tag = tag → (f x).tag = tag) (p : Part) :
    (updateEntry tag f p).table.filter (fun x => x.tag != tag) = p.table.filter (fun x => x.tag != tag) := by
  rw [table_updateEntry]
  induction p.table with
  | nil => rfl
  | cons x xs ih =>
    rw [List.map_cons, List.filter_cons, List.filter_cons, ih]
    by_cases hx : x.tag = tag
    · simp [hx, hf x hx]
    · simp [hx]

/-- The finished part does not show which form the freed entry had in the table. -/
theorem finished_updateEntry {p : Part} {e : Entry} {f : Entry → Entry} (hf : ∀ x, x.tag = e.tag → (f x).tag = e.tag)
    (status : RespStatus) (data : Option LineData) :
    (updateEntry e.tag f p).finished e status data = p.finished e status data := by
  rw [Part.finished, Part.finished, updateEntry_others hf]
  rfl

theorem finishEntry_eq (e : Entry) (status : RespStatus) (p : Part) : finishEntry e status p =
    (p.finished e status (if e.kind == .read && status == .ok then e.readData else none),
      [.drainCheck e.region, .leave e.line]) := by
  by_cases h : e.state = .orphaned
  · simp [finishEntry, h, freeEntry_eq, finished_eq, responseOf]
  · simp [finishEntry, h, completeEntry_eq]

/-- An entry with an acknowledgement of a port, and with the data of a READ (R16, R59). -/
def Entry.acked (e : Entry) (q : Port) (data : Option LineData) : Entry :=
  { e with ack := addPort e.ack q, readData := if e.kind == .read then data else e.readData }

theorem finishEntry_updated {p : Part} {e e' : Entry} (ht : e'.tag = e.tag) (hr : e'.region = e.region)
    (hl : e'.line = e.line) (hk : e'.kind = e.kind) (hs : e'.state = e.state) {f : Entry → Entry}
    (hf : ∀ x, x.tag = e.tag → (f x).tag = e.tag) (status : RespStatus) :
    finishEntry e' status (updateEntry e.tag f p) =
      (p.finished e status (if e.kind == .read && status == .ok then e'.readData else none),
        [.drainCheck e.region, .leave e.line]) := by
  rw [finishEntry_eq, finished_congr ht hr hs, finished_updateEntry hf, hr, hl, hk]

theorem finishWrite_found {p : Part} {tag : Tag} {e : Entry} (h : findEntry p tag = some e) : finishWrite tag p =
    if portSubset e.target (e.ack ||| e.fail) then finishEntry e (writeStatus e) p else (p, []) := by
  simp [finishWrite, h]

/-- The status that an OK outcome, or a failed one at a DIRECT region, decides at once. -/
theorem takeHostOutcome_final {e : Entry} {q : Port} {result : TxnResult} {p : Part} {status : RespStatus}
    (he : findEntry p e.tag = some e) (hs : e.state = .issued ∨ e.state = .orphaned)
    (h : finalStatus p e q result = some status) :
    takeHostOutcome e.tag q result p =
      (p.finished e status (if e.kind = .read ∧ status = .ok then resultData result else none),
        [.drainCheck e.region, .leave e.line]) := by
  have hso : (e.state == .issued || e.state == .orphaned) = true := by simpa using hs
  have hfail : ∀ why, finalStatus p e q result = (if (p.region e.region).mode = .mirror then none else some (failureStatus why)) →
      takeHostOutcome e.tag q result p = hostFailed e q why p → takeHostOutcome e.tag q result p =
        (p.finished e status none, [.drainCheck e.region, .leave e.line]) := fun why hst ht => by
    rw [h] at hst
    split at hst
    · simp at hst
    · next hm =>
      obtain rfl := Option.some.inj hst
      have hmir : isMirrorEntry (updateEntry e.tag (recordFail q why) p) e = false := by simpa [isMirrorEntry] using hm
      have hne : (failureStatus why == .ok) = false := by cases why <;> rfl
      rw [ht, hostFailed, hmir]
      simpa [hne] using finishEntry_updated (p := p) (e := e) (e' := recordFail q why e) (f := recordFail q why)
        rfl rfl rfl rfl rfl (fun x hx => hx) (failureStatus why)
  cases result with
  | ok d =>
    have ht : takeHostOutcome e.tag q (.ok d) p = hostOk e q d p := by simp [takeHostOutcome, he, hso]
    have hfin := fun st => finishEntry_updated (p := p) (e := e) (e' := e.acked q d) (f := fun _ => e.acked q d)
      rfl rfl rfl rfl rfl (fun _ _ => rfl) st
    have hcond : (e.kind == .write && isMirrorEntry (updateEntry e.tag (fun _ => e.acked q d) p) e) = true ↔
        e.kind = .write ∧ (p.region e.region).mode = .mirror := by simp [isMirrorEntry]
    rw [ht, show hostOk e q d p = if e.kind == .write && isMirrorEntry (updateEntry e.tag (fun _ => e.acked q d) p) e
        then finishWrite e.tag (updateEntry e.tag (fun _ => e.acked q d) p)
        else finishEntry (e.acked q d) .ok (updateEntry e.tag (fun _ => e.acked q d) p) from rfl]
    simp only [finalStatus] at h
    split at h
    · next hc =>
      split at h
      · next hsub =>
        have hack : e.acked q d = { e with ack := addPort e.ack q } := by simp [Entry.acked, hc.1]
        have hf := findEntry_updateEntry (tag := e.tag) (f := fun _ => e.acked q d) (fun _ _ => rfl) he
        rw [if_pos (hcond.mpr hc), finishWrite_found hf, if_pos (by rw [hack]; exact hsub), hfin,
          ← Option.some.inj h, hack]
        simp [hc.1]
      · simp at h
    · next hc =>
      obtain rfl := Option.some.inj h
      rw [if_neg fun hw => hc (hcond.mp hw), hfin]
      by_cases hk : e.kind = .read <;> simp [hk, Entry.acked, resultData]
  | error => simpa [resultData] using hfail .media rfl (by simp [takeHostOutcome, he, hso])
  | failed why => simpa [resultData] using hfail why rfl (by simp [takeHostOutcome, he, hso])

/-! ## Failures at a MIRROR region (R45, R51, R57) -/

section
variable {p p' : Part} {e : Entry} {q : Port} {result : TxnResult} {why : Reason} {n : Nat}
  (he : findEntry p e.tag = some e) (hs : e.state = .issued ∨ e.state = .orphaned)
  (hr : result = .error ∧ why = .media ∨ result = .failed why) (hm : (p.region e.region).mode = .mirror)
  (hw : reportWaits p e.region q)

/-- The part once the failure is recorded and reported (R63). -/
def failureTaken (e : Entry) (q : Port) (why : Reason) (p : Part) : Part :=
  reportTaken e.region q why (some e.line) (updateEntry e.tag (recordFail q why) p)

include he in
theorem findEntry_failureTaken : findEntry (failureTaken e q why p) e.tag = some (recordFail q why e) := by
  rw [failureTaken, findEntry_of_table (reportTaken_aside ..).table]
  exact findEntry_updateEntry (fun _ => id) he

include he hs hr hm

theorem takeHostOutcome_failed : takeHostOutcome e.tag q result p =
    (updateEntry e.tag (recordFail q why) p, [.report e.region q why (some e.line),
      match e.kind with
      | .read => .redirect e.tag q why
      | .write => .afterWriteFailure e.tag q]) := by
  have hso : (e.state == .issued || e.state == .orphaned) = true := by simpa using hs
  have hmir : isMirrorEntry (updateEntry e.tag (recordFail q why) p) e = true := by simpa [isMirrorEntry] using hm
  have ht : takeHostOutcome e.tag q result p = hostFailed e q why p := by
    rcases hr with ⟨rfl, rfl⟩ | rfl <;> simp [takeHostOutcome, he, hso]
  rw [ht, hostFailed, hmir]
  rfl

include hw

/-- A failed MIRROR read: the report, then the new choice (R51). -/
theorem runsTo_failedRead (hk : e.kind = .read)
    (h : RunsTo n (taskRedirect e.tag q why (failureTaken e q why p)).2 (taskRedirect e.tag q why (failureTaken e q why p)).1 p') :
    RunsTo (n + 3) (takeHostOutcome e.tag q result p).2 (takeHostOutcome e.tag q result p).1 p' := by
  rw [takeHostOutcome_failed he hs hr hm, hk]
  exact runsTo_report why (some e.line) hw (.single h)

/-- A failed MIRROR write: the report, then the insertion and, at the last outcome, the status (R57). -/
theorem runsTo_failedWrite (hk : e.kind = .write)
    (h : RunsTo n (taskAfterWriteFailure e.tag q (failureTaken e q why p)).2
      (taskAfterWriteFailure e.tag q (failureTaken e q why p)).1 p') :
    RunsTo (n + 3) (takeHostOutcome e.tag q result p).2 (takeHostOutcome e.tag q result p).1 p' := by
  rw [takeHostOutcome_failed he hs hr hm, hk]
  exact runsTo_report why (some e.line) hw (.single h)

end

end Sys2Proof.Machine
end

section
/-! SUPPORT. The four statements about host outcomes (O9, O10, O12, and the first parts of O11). -/

namespace Sys2Proof.Machine

/-! ## An outcome that decides the status at once (O9) -/

theorem runsTo_freesQuietly {p : Part} {e : Entry} (h : freesQuietly p e) (status : RespStatus) (data : Option LineData) :
    RunsTo 2 [.drainCheck e.region, .leave e.line] (p.finished e status data) (p.finished e status data) :=
  ⟨2, le_rfl, works_freesQuietly h status data⟩

theorem hasPort_and (s t : PortSet) (q : Port) : hasPort (s &&& t) q = (hasPort s q && hasPort t q) := by
  revert s t q; decide

theorem portSet_ne_zero {s : PortSet} : (s != 0#4) = true ↔ ∃ q, hasPort s q = true := by revert s; decide

/-- A counted port that was IN_SERVICE at placement has acknowledged. -/
theorem writeStatus_ok {e : Entry}
    (h : ∃ q, hasPort e.counted q = true ∧ hasPort e.ack q = true ∧ hasPort e.inServiceAtPlacement q = true) :
    writeStatus e = .ok := by
  obtain ⟨q, h1, h2, h3⟩ := h
  have : (e.counted &&& e.ack &&& e.inServiceAtPlacement != 0#4) = true :=
    portSet_ne_zero.mpr ⟨q, by simp [hasPort_and, h1, h2, h3]⟩
  simp [writeStatus, this]

/-- None has: the reasons of the counted ports decide. -/
theorem writeStatus_failed {e : Entry}
    (h : ∀ q, hasPort e.counted q = true → hasPort e.inServiceAtPlacement q = true → hasPort e.ack q = false) :
    writeStatus e = if e.reasons.any (fun x => hasPort e.counted x.1 && hasPort e.fail x.1 && x.2 == .media) then .media
      else .portDown := by
  have : ¬ (e.counted &&& e.ack &&& e.inServiceAtPlacement != 0#4) = true := by
    rw [portSet_ne_zero]
    rintro ⟨q, hq⟩
    simp only [hasPort_and, Bool.and_eq_true] at hq
    obtain ⟨⟨h1, h2⟩, h3⟩ := hq
    exact absurd h2 (by simp [h q h1 h3])
  rw [writeStatus, if_neg this]

theorem writeStatus_spec (e : Entry) :
    ((∃ q, hasPort e.counted q = true ∧ hasPort e.ack q = true ∧ hasPort e.inServiceAtPlacement q = true) →
      writeStatus e = .ok) ∧
    ((∀ q, hasPort e.counted q = true → hasPort e.inServiceAtPlacement q = true → hasPort e.ack q = false) →
      (∃ q, hasPort e.counted q = true ∧ hasPort e.fail q = true ∧ (q, Reason.media) ∈ e.reasons) →
      writeStatus e = .media) ∧
    ((∀ q, hasPort e.counted q = true → hasPort e.inServiceAtPlacement q = true → hasPort e.ack q = false) →
      (∀ q, hasPort e.counted q = true → hasPort e.fail q = true → (q, Reason.media) ∉ e.reasons) →
      writeStatus e = .portDown) := by
  refine ⟨writeStatus_ok, fun h ⟨q, h1, h2, h3⟩ => ?_, fun h hn => ?_⟩
  · rw [writeStatus_failed h, if_pos (List.any_eq_true.mpr ⟨_, h3, by simp [h1, h2]⟩)]
  · rw [writeStatus_failed h, if_neg]
    intro hc
    obtain ⟨⟨q, why⟩, hx, hq⟩ := List.any_eq_true.mp hc
    simp only [Bool.and_eq_true, beq_iff_eq] at hq
    obtain ⟨⟨h1, h2⟩, rfl⟩ := hq
    exact hn q h1 h2 hx

/-- Settles O9: the outcome decides the status, and nothing follows the freeing. -/
theorem hostOutcomeFinishes : Obligations.HostOutcomeFinishes := by
  refine ⟨fun q h rest tag e status s hs ht ho he hst hfin hq => ?_, writeStatus_spec⟩
  obtain rfl := (findEntry_mem he).2
  refine exec_hostOutcome_to hs ht ho (n := 2) (by omega) ?_
  rw [takeHostOutcome_final (p := { s.part with handed := rest }) he hst hfin]
  exact runsTo_freesQuietly (p := { s.part with handed := rest }) hq _ _

/-! ## What stands beside the entry -/

/-- From `p` to `p'` the other entries, the line claim and the window stand, and the state and the count of the entry's
region. -/
structure Beside (e : Entry) (p p' : Part) : Prop where
  others : p'.table.filter (fun x => x.tag != e.tag) = p.table.filter (fun x => x.tag != e.tag)
  lineClaim : p'.lineClaim = p.lineClaim
  window : p'.window = p.window
  state : (p'.region e.region).state = (p.region e.region).state
  inFlight : (p'.region e.region).inFlight = (p.region e.region).inFlight

theorem Beside.refl (e : Entry) (p : Part) : Beside e p p := ⟨rfl, rfl, rfl, rfl, rfl⟩

theorem Beside.trans {e : Entry} {a b c : Part} (h : Beside e a b) (h' : Beside e b c) : Beside e a c :=
  ⟨h'.others.trans h.others, h'.lineClaim.trans h.lineClaim, h'.window.trans h.window, h'.state.trans h.state,
    h'.inFlight.trans h.inFlight⟩

theorem Beside.of_aside {e : Entry} {p p' : Part} (h : Aside p p') (hl : p'.lineClaim = p.lineClaim)
    (hw : p'.window = p.window) : Beside e p p' :=
  ⟨by rw [h.table], hl, hw, h.state _, h.inFlight _⟩

theorem failureTaken_beside (e : Entry) (q : Port) (why : Reason) (p : Part) : Beside e p (failureTaken e q why p) :=
  Beside.trans ⟨updateEntry_others (f := recordFail q why) (fun _ => id) p, rfl, rfl, rfl, rfl⟩
    (.of_aside (reportTaken_aside ..) (reportTaken_lineClaim ..) (reportTaken_window ..))

theorem insertedIfOut_beside (e : Entry) (q : Port) (p : Part) : Beside e p (insertedIfOut e q p) := by
  unfold insertedIfOut
  split
  · rw [insertRun_eq]
    exact ⟨rfl, rfl, rfl, rfl, rfl⟩
  · exact .refl e p

section
variable {e : Entry} {p p' : Part} (h : Beside e p p')
include h

theorem Beside.windowOn (r : RegionIx) : windowOn p' r = windowOn p r := by simp only [Machine.windowOn, h.window]

theorem Beside.drainsNothing (hd : drainsNothing p e) : drainsNothing p' e := by
  refine hd.imp ?_ (.imp ?_ ?_)
  · rw [h.state]; exact id
  · rw [h.inFlight]; exact id
  · rw [h.windowOn]; exact id

/-- No other entry is for the line. -/
theorem Beside.alone (hl : ∀ x ∈ p.table, x.line = e.line → x.tag = e.tag) :
    ∀ x ∈ p'.table, x.line = e.line → x.tag = e.tag := by
  intro x hx hxl
  by_contra hc
  have : x ∈ p'.table.filter (fun x => x.tag != e.tag) := List.mem_filter.mpr ⟨hx, by simpa using hc⟩
  rw [h.others] at this
  exact hc (hl x (List.mem_of_mem_filter this) hxl)

theorem Beside.freesQuietly (hq : freesQuietly p e) : freesQuietly p' e := ⟨h.drainsNothing hq.1, h.alone hq.2⟩

theorem Beside.finished_table (status : RespStatus) (data : Option LineData) :
    (p'.finished e status data).table = p.table.filter (fun x => x.tag != e.tag) := h.others

end

/-! ## A failed MIRROR read (O10) -/

theorem chooseRead_recordFail (p : Part) (e : Entry) (q : Port) (why : Reason) :
    chooseRead p (recordFail q why e) = chooseRead p e := rfl

section
variable {p : Part} {e : Entry} {q : Port} {why : Reason} (he : findEntry p e.tag = some (recordFail q why e))
include he

theorem taskRedirect_orphaned (hs : e.state = .orphaned) (status : RespStatus) (data : Option LineData) :
    taskRedirect e.tag q why p = (p.finished e status data, [.drainCheck e.region, .leave e.line]) := by
  have : (recordFail q why e).state = .orphaned := hs
  simp [taskRedirect, he, this, freeEntry_eq, finished_eq, responseOf, hs]
  exact ⟨rfl, rfl, rfl⟩

theorem taskRedirect_none (hs : e.state = .issued) (hc : chooseRead p e = none) : taskRedirect e.tag q why p =
    (p.finished e (if why = .media then .media else .portDown) none, [.drainCheck e.region, .leave e.line]) := by
  have hst : (recordFail q why e).state = .issued := hs
  have hne : (failureStatus why == .ok) = false := by cases why <;> rfl
  have hf : failureStatus why = if why = .media then .media else .portDown := by cases why <;> rfl
  have : taskRedirect e.tag q why p = completeEntry (recordFail q why e) (failureStatus why) p := by
    simp [taskRedirect, he, hst, chooseRead_recordFail, hc]
  rw [this, completeEntry_eq _ _ _ (by simp [hst]), hne, ← hf]
  simp only [Bool.and_false, Bool.false_eq_true, if_false]
  rw [finished_congr (e := e) rfl rfl rfl]
  rfl

theorem taskRedirect_next (hs : e.state = .issued) {next : Port} {p' : Part} (hc : chooseRead p e = some (next, p')) :
    taskRedirect e.tag q why p = (redirected e q next p', [.giveBack next]) := by
  have hst : (recordFail q why e).state = .issued := hs
  simp [taskRedirect, he, hst, chooseRead_recordFail, hc, redirected]
  rfl

end

/-- Settles O10: the report, and then the read's new choice. -/
theorem failedReadOutcome : Obligations.FailedReadOutcome := by
  intro q h rest tag why e p1 s hs ht ho hr he hk hm hw hp1
  obtain rfl := (findEntry_mem he).2
  have hf : findEntry p1 e.tag = some (recordFail q why e) := by
    rw [hp1]; exact findEntry_failureTaken (p := { s.part with handed := rest }) he
  have hrun : ∀ (hst : e.state = .issued ∨ e.state = .orphaned) {p' : Part},
      RunsTo 2 (taskRedirect e.tag q why p1).2 (taskRedirect e.tag q why p1).1 p' → leavesPart (.hostOutcome q) s p' :=
    fun hst p' h => exec_hostOutcome_to hs ht ho (n := 5) (by omega)
      (runsTo_failedRead (p := { s.part with handed := rest }) he hst hr hm hw hk (by rwa [hp1] at h))
  have hq1 : freesQuietly s.part e → freesQuietly p1 e := by
    rw [hp1]
    exact (failureTaken_beside e q why { s.part with handed := rest }).freesQuietly
  refine ⟨fun hst next p' hc => ?_, fun hst hc hq => hrun (.inl hst) ?_, fun hst hq => hrun (.inr hst) ?_⟩
  · have hgive : leavesPart (.hostOutcome q) s (taskGiveBack next (redirected e q next p')).1 := by
      refine hrun (.inl hst) ?_
      rw [taskRedirect_next hf hst hc]
      refine (RunsTo.single (n := 0) ?_).mono (by omega)
      rw [runTask_giveBack]
      exact .nil _
    refine ⟨fun hfree => ?_, fun _ => hgive⟩
    rwa [taskGiveBack_free (show hasFreeSlot ((redirected e q next p').port next) = true from hfree)] at hgive
  · rw [taskRedirect_none hf hst hc]
    exact runsTo_freesQuietly (hq1 hq) _ _
  · rw [taskRedirect_orphaned hf hst .ok none]
    exact runsTo_freesQuietly (hq1 hq) _ _

/-! ## A failed MIRROR write (O11) -/

/-- The insertion looks at the copy, the region and the line. -/
theorem insertIfOut_recordFail (e : Entry) (q : Port) (why : Reason) (p : Part) :
    insertIfOut (recordFail q why e) p q = insertedIfOut e q p := by
  unfold insertIfOut insertedIfOut
  refine if_congr ?_ rfl rfl
  show (mstate p e.region q == some .faulted || mstate p e.region q == some .detached) = true ↔ _
  rw [Bool.or_eq_true, beq_iff_eq, beq_iff_eq]

theorem insertedIfOut_aside (e : Entry) (q : Port) (p : Part) : Aside p (insertedIfOut e q p) := by
  rw [← insertIfOut_recordFail e q .media]
  exact insertIfOut_aside _ _ _

theorem taskAfterWriteFailure_eq {p : Part} {e : Entry} {q : Port} {why : Reason}
    (he : findEntry p e.tag = some (recordFail q why e)) (hk : e.kind = .write) : taskAfterWriteFailure e.tag q p =
      if portSubset e.target (e.ack ||| addPort e.fail q) = true then
        ((insertedIfOut e q p).finished e (writeStatus (recordFail q why e)) none, [.drainCheck e.region, .leave e.line])
      else (insertedIfOut e q p, []) := by
  have hf : findEntry (insertedIfOut e q p) e.tag = some (recordFail q why e) := by
    rw [findEntry_of_table (insertedIfOut_aside ..).table, he]
  have : taskAfterWriteFailure e.tag q p = finishWrite e.tag (insertedIfOut e q p) := by
    simp only [taskAfterWriteFailure, he, insertIfOut_recordFail]
  have hread : ((recordFail q why e).kind == .read) = false := by rw [show (recordFail q why e).kind = .write from hk]; rfl
  rw [this, finishWrite_found hf, finishEntry_eq, hread, finished_congr (e := e) rfl rfl rfl]
  rfl

/-! ## Which outcomes finish an entry (O12) -/

theorem finishes_beside {e : Entry} {q : Port} {result : TxnResult} {p p1 : Part} {status : RespStatus} {data : Option LineData}
    (hfin : finishes e q result p p1 status data) : Beside e p p1 := by
  rcases hfin with ⟨-, rfl, -⟩ | ⟨why, p0, -, -, -, rfl, hcase⟩
  · exact .refl e p1
  · have hb := failureTaken_beside e q why p
    rcases hcase with ⟨-, rfl, -⟩ | ⟨-, rfl, -⟩
    · exact hb
    · exact hb.trans (insertedIfOut_beside ..)

/-- An outcome that finishes the entry leads to the part with the entry freed, and to what follows the freeing. -/
theorem runsTo_finishes {e : Entry} {q : Port} {result : TxnResult} {p p1 p' : Part} {status : RespStatus}
    {data : Option LineData} {n : Nat} (he : findEntry p e.tag = some e) (hs : e.state = .issued ∨ e.state = .orphaned)
    (hw : (∃ d, result = .ok d) ∨ reportWaits p e.region q) (hfin : finishes e q result p p1 status data)
    (h : RunsTo n [.drainCheck e.region, .leave e.line] (p1.finished e status data) p') :
    RunsTo (n + 3) (takeHostOutcome e.tag q result p).2 (takeHostOutcome e.tag q result p).1 p' := by
  rcases hfin with ⟨hst, rfl, rfl⟩ | ⟨why, p0, hr, hm, rfl, hp0, hcase⟩
  · rw [takeHostOutcome_final he hs hst]
    exact h.mono (by omega)
  · have hw : reportWaits p e.region q := hw.resolve_left fun ⟨d, hd⟩ => by rcases hr with ⟨hr, -⟩ | hr <;> simp [hd] at hr
    have hf : findEntry p0 e.tag = some (recordFail q why e) := by rw [hp0]; exact findEntry_failureTaken he
    rcases hcase with ⟨hk, rfl, hcase, rfl⟩ | ⟨hk, rfl, hsub, rfl⟩
    · refine runsTo_failedRead he hs hr hm hw hk ?_
      rw [failureTaken, ← hp0]
      rcases hs with hs | hs
      · rw [taskRedirect_none hf hs (hcase.resolve_left (by simp [hs]))]
        exact h
      · rw [taskRedirect_orphaned hf hs]
        exact h
    · refine runsTo_failedWrite he hs hr hm hw hk ?_
      rw [failureTaken, ← hp0, taskAfterWriteFailure_eq hf hk, if_pos hsub]
      exact h

/-- The last entry of a RETIRING region: the region is retired, and nothing starts (R37, R38). -/
theorem runsTo_drained {e : Entry} {p : Part} {status : RespStatus} {data : Option LineData}
    (hr : (p.region e.region).state = .retiring) (hi : (p.region e.region).inFlight = 1) (hwin : windowOn p e.region = false)
    (hl : ∀ x ∈ p.table, x.line = e.line → x.tag = e.tag) (hn : nothingStarts p) :
    RunsTo 3 [.drainCheck e.region, .leave e.line] (p.finished e status data)
      ((p.finished e status data).retired e.region) := by
  have hd : drained (p.finished e status data) e.region = true := by
    rw [show drained (p.finished e status data) e.region = drained (freed e p) e.region by rw [finished_eq]; rfl, drained_iff,
      state_freed, inFlight_freed, hi]
    exact ⟨hr, rfl, hwin⟩
  have hidle : taskHeadStart ((p.finished e status data).retired e.region) = ((p.finished e status data).retired e.region, []) := by
    rcases hn with hn | hn
    · exact taskHeadStart_held (.inr hn)
    · exact taskHeadStart_noJob (by simp [Part.retired, Part.finished, hn])
  refine .cons rfl ?_
  rw [show runTask (.drainCheck e.region) (p.finished e status data) = _ from taskDrainCheck_drained _ _ hd]
  refine .cons rfl ?_
  rw [show runTask .headStart ((p.finished e status data).retired e.region) = _ from hidle]
  refine .single ?_
  rw [show runTask (.leave e.line) ((p.finished e status data).retired e.region) = _ from taskLeave_none fun x hx hxl => ?_]
  · exact .nil _
  · obtain ⟨hx, ht⟩ := List.mem_filter.mp hx
    exact absurd (hl x hx hxl) (by simpa using ht)

/-- Settles O12: the drain check and the turn of the line's next entry, after the freeing. -/
theorem freeingDrainsAndHandsOn : Obligations.FreeingDrainsAndHandsOn := by
  intro q h rest tag e p1 status data s hs ht ho he hst hd hw hfin
  obtain rfl := (findEntry_mem he).2
  have hb := finishes_beside hfin
  have hrun := fun {n : Nat} {p' : Part} =>
    runsTo_finishes (p := { s.part with handed := rest }) (p' := p') (n := n) he hst hw hfin
  refine ⟨fun hr hi hwin hl hn => ?_, fun e2 hdn hf hwait hc => ?_⟩
  · exact exec_hostOutcome_to hs ht ho (n := 6) (by omega) (hrun (runsTo_drained (hb.state.trans hr) (hb.inFlight.trans hi)
      ((hb.windowOn _).trans hwin) (hb.alone hl) hn))
  · have hl : e2.line = e.line := by simpa using List.find?_some hf
    have htab := hb.finished_table status data
    have hmem : e2 ∈ (p1.finished e status data).table := htab ▸ List.mem_of_find?_eq_some hf
    have hd1 : tagsDistinct (p1.finished e status data) := by
      rw [tagsDistinct, htab]
      exact hd.sublist ((List.filter_sublist ..).map _)
    have hm : mayLeave (p1.finished e status data) e2 = true := by
      refine (mayLeave_iff _ _).mpr ⟨hwait, ?_, ?_⟩
      · rw [earliest, htab, hl]
        exact congrArg (Option.map (·.tag)) hf
      · rw [hl]
        exact fun h => hc (hb.lineClaim ▸ h)
    refine ⟨_, exec_hostOutcome hs ht ho, firstChoiceMade_of (ownsTag_of_distinct hd1 hmem) hmem hm fun x n hn hx => ?_⟩
    rw [hl] at hx
    exact settle_of_runsTo (n := n + 1 + 3) (hrun ⟨n + 1, le_rfl, works_drainsNothing (hb.drainsNothing hdn) hx⟩) (by omega)

end Sys2Proof.Machine
end

section
/-! SUPPORT. An insertion covers its range (R106 to R108). -/

namespace Sys2Proof.Machine

/-- A run holds the range `x`. -/
def holdsRange (y x : Run) : Prop := y.region = x.region ∧ y.first ≤ x.first ∧ x.stop ≤ y.stop

theorem holdsRange_refl (x : Run) : holdsRange x x := ⟨rfl, le_rfl, le_rfl⟩

theorem stop_runJoin (a b : Run) : (runJoin a b).stop = max a.stop b.stop := by
  simp only [runJoin, Run.stop]
  omega

theorem holdsRange_foldl_runJoin (x : Run) (l : List Run) : ∀ y, holdsRange y x → holdsRange (l.foldl runJoin y) x := by
  induction l with
  | nil => exact fun _ => id
  | cons r rs ih =>
    rintro y ⟨h1, h2, h3⟩
    refine ih _ ⟨h1, le_trans (min_le_left ..) h2, ?_⟩
    rw [stop_runJoin]
    exact le_trans h3 (le_max_left ..)

theorem mem_placeRun (x : Run) (l : List Run) : x ∈ placeRun x l := by
  induction l with
  | nil => exact List.mem_singleton.mpr rfl
  | cons r rs ih =>
    unfold placeRun
    split
    · exact List.mem_cons_self ..
    · exact List.mem_cons_of_mem _ ih

theorem insertOpen_holds (x : Run) (l : List Run) : ∃ y ∈ insertOpen x l, holdsRange y x := by
  unfold insertOpen
  split
  · next h =>
    obtain ⟨y, hy, hc⟩ := List.any_eq_true.mp h
    exact ⟨y, hy, by simpa [runCovers, holdsRange, and_assoc] using hc⟩
  · split
    · exact ⟨_, mem_placeRun .., holdsRange_foldl_runJoin x _ x (holdsRange_refl x)⟩
    · exact ⟨x, mem_placeRun .., holdsRange_refl x⟩

theorem insertedRuns_holds (x : Run) (l : List Run) : ∃ y ∈ insertedRuns x l, holdsRange y x := by
  unfold insertedRuns
  split
  · exact insertOpen_holds x l
  · split
    · exact insertOpen_holds x _
    · exact insertOpen_holds x l

end Sys2Proof.Machine
end

section
/-! SUPPORT. A failed MIRROR write at a copy that is being rebuilt (R57, R66, R113, R120). -/

namespace Sys2Proof.Machine

/-! ## Every copy of the port leaves the rebuild (R66) -/

theorem mstate_ejectMember {r : RegionIx} {q : Port} {st : MState} (why : Reason) {p : Part} (h : mstate p r q = some st)
    (r' : RegionIx) (q' : Port) :
    mstate (ejectMember r q why p) r' q' = if r' = r ∧ q' = q then some .faulted else mstate p r' q' := by
  rw [ejectMember, mstate_post, mstate_setMState]
  refine if_congr Iff.rfl ?_ rfl
  dsimp only [mstate] at h
  split at h
  · next hu =>
    obtain ⟨m, hm, -⟩ := Option.bind_eq_some_iff.mp h
    rw [if_pos hu, hm]
    rfl
  · simp at h

theorem mstate_takeOutRejoining (q : Port) (why : Reason) (p : Part) (r' : RegionIx) (q' : Port) :
    mstate (takeOutRejoining q why p) r' q' =
      if q' = q ∧ mstate p r' q = some .rejoining then some .faulted else mstate p r' q' := by
  have key : ∀ (l : List RegionIx) (p : Part),
      mstate (l.foldl (fun p r => if mstate p r q == some .rejoining then ejectMember r q why p else p) p) r' q' =
        if q' = q ∧ r' ∈ l ∧ mstate p r' q = some .rejoining then some .faulted else mstate p r' q' := fun l => by
    induction l with
    | nil => simp
    | cons r rs ih =>
      intro p
      rw [List.foldl_cons, ih]
      by_cases hr : mstate p r q = some .rejoining
      · simp only [hr, beq_self_eq_true, if_true, mstate_ejectMember why hr]
        by_cases hq : q' = q
        · by_cases hrr : r' = r
          · subst hrr; simp [hq, hr]
          · simp [hq, hrr]
        · simp [hq]
      · have hb : (mstate p r q == some .rejoining) = false := by simpa using hr
        simp only [hb, Bool.false_eq_true, if_false, List.mem_cons]
        by_cases hrr : r' = r
        · subst hrr; simp [hr]
        · simp [hrr]
  rw [takeOutRejoining, key]
  exact if_congr (by simp [mem_allRegions]) rfl rfl

/-! ## The end of a running job (R120) -/

/-- From `p` to `p'` the table, the regions and the lists stand. -/
structure Stores (p p' : Part) : Prop where
  table : p'.table = p.table
  regions : p'.regions = p.regions
  lists : p'.lists = p.lists

theorem Stores.refl (p : Part) : Stores p p := ⟨rfl, rfl, rfl⟩

theorem Stores.trans {a b c : Part} (h : Stores a b) (h' : Stores b c) : Stores a c :=
  ⟨h'.table.trans h.table, h'.regions.trans h.regions, h'.lists.trans h.lists⟩

theorem Stores.foldl {α : Type} {f : Part → α → Part} (h : ∀ p x, Stores p (f p x)) :
    ∀ (l : List α) (p : Part), Stores p (l.foldl f p)
  | [], p => .refl p
  | x :: xs, p => (h p x).trans (foldl h xs (f p x))

theorem Stores.region {p p' : Part} (h : Stores p p') (r : RegionIx) : p'.region r = p.region r := by
  simp only [Part.region, h.regions]

theorem Stores.mstate {p p' : Part} (h : Stores p p') (r : RegionIx) (q : Port) : mstate p' r q = mstate p r q := by
  unfold Machine.mstate
  rw [h.region r]

theorem Stores.divList {p p' : Part} (h : Stores p p') (q : Port) : p'.divList q = p.divList q := by
  simp only [Part.divList, h.lists]

theorem withdrawClaimAt_stores (q : Port) (p : Part) : Stores p (withdrawClaimAt q p) := by
  unfold withdrawClaimAt
  split
  · split
    · exact ⟨rfl, rfl, rfl⟩
    · exact .refl p
  · exact .refl p

theorem withdrawClaims_stores (p : Part) : Stores p (withdrawClaims p) :=
  .foldl (fun p q => withdrawClaimAt_stores q p) allPorts p

theorem releaseLineClaim_stores (p : Part) : Stores p (releaseLineClaim p).1 := by
  unfold releaseLineClaim
  split <;> exact ⟨rfl, rfl, rfl⟩

theorem postEnd_stores (ev : Option EventBody) (p : Part) : Stores p (postEnd ev p) := by
  cases ev <;> exact ⟨rfl, rfl, rfl⟩

theorem endRunning_stores (rest : List Job) (ev : Option EventBody) (p : Part) : Stores p (endRunning rest ev p).1 :=
  (withdrawClaims_stores p).trans ((releaseLineClaim_stores _).trans ((postEnd_stores ev _).trans ⟨rfl, rfl, rfl⟩))

theorem withdrawClaimAt_lineClaim (q : Port) (p : Part) : (withdrawClaimAt q p).lineClaim = p.lineClaim := by
  unfold withdrawClaimAt
  split
  · split <;> rfl
  · rfl

theorem withdrawClaims_lineClaim (p : Part) : (withdrawClaims p).lineClaim = p.lineClaim := by
  have key : ∀ (l : List Port) (p : Part), (l.foldl (fun p q => withdrawClaimAt q p) p).lineClaim = p.lineClaim := fun l => by
    induction l with
    | nil => exact fun _ => rfl
    | cons q qs ih => exact fun p => (ih _).trans (withdrawClaimAt_lineClaim q p)
  exact key allPorts p

theorem endRunning_jobs (rest : List Job) (ev : Option EventBody) (p : Part) : (endRunning rest ev p).1.jobs = rest := rfl

/-- A line claim that ends with the job gives its line's entry a turn (R10). -/
theorem endRunning_works (rest : List Job) (ev : Option EventBody) (p : Part) :
    (endRunning rest ev p).2 = (p.lineClaim.map Task.leave).toList := by
  rw [← withdrawClaims_lineClaim p]
  show (releaseLineClaim (withdrawClaims p)).2 = _
  unfold releaseLineClaim
  cases (withdrawClaims p).lineClaim <;> rfl

/-! ## The part after the report -/

/-- The part after the report of a failure at a REJOINING copy of a port, from the part `p` before it. -/
structure RebuildEnded (q : Port) (p p' : Part) : Prop where
  table : p'.table = p.table
  gone : ∀ r, mstate p' r q ≠ some .rejoining
  faulted : ∀ r, mstate p r q = some .rejoining → (p.region r).state = .live → mstate p' r q = some .faulted
  live : ∀ r, (p.region r).state = .live → (p'.region r).state = .live ∧ (p'.region r).base = (p.region r).base

theorem RebuildEnded.stores {q : Port} {p p' p'' : Part} (h : RebuildEnded q p p') (hs : Stores p' p'') :
    RebuildEnded q p p'' where
  table := hs.table.trans h.table
  gone r := by rw [hs.mstate]; exact h.gone r
  faulted r h1 h2 := by rw [hs.mstate]; exact h.faulted r h1 h2
  live r hr := by rw [hs.region]; exact h.live r hr

theorem mstate_retired (r r' : RegionIx) (q : Port) (p : Part) :
    mstate (p.retired r) r' q = if r' = r then none else mstate p r' q := mstate_cleared r r' q p

theorem region_retired_ne {r r' : RegionIx} (p : Part) (h : r' ≠ r) : (p.retired r).region r' = p.region r' :=
  region_setRegion_ne p r r' Region.cleared h

/-- A drain check leaves LIVE regions as they are (R37). -/
theorem RebuildEnded.drainCheck {q : Port} {p p' : Part} (h : RebuildEnded q p p') (r0 : RegionIx) :
    RebuildEnded q p (taskDrainCheck r0 p').1 := by
  by_cases hd : drained p' r0 = true
  · rw [taskDrainCheck_drained _ _ hd]
    have hr0 := ((drained_iff ..).mp hd).1
    have hne : ∀ r, (p.region r).state = .live → r ≠ r0 := fun r hr hc => by
      have := (h.live r hr).1
      rw [hc, hr0] at this
      simp at this
    refine ⟨h.table, fun r => ?_, fun r h1 h2 => ?_, fun r hr => ?_⟩
    · rw [mstate_retired]
      split
      · simp
      · exact h.gone r
    · rw [mstate_retired, if_neg (hne r h2)]
      exact h.faulted r h1 h2
    · rw [region_retired_ne _ (hne r hr)]
      exact h.live r hr
  · rw [taskDrainCheck_kept _ _ (by simpa using hd)]
    exact h

theorem rebuildEnded_takeOut (q : Port) (why : Reason) (p : Part) : RebuildEnded q p (takeOutRejoining q why p) where
  table := (takeOutRejoining_aside q why p).table
  gone r := by
    rw [mstate_takeOutRejoining]
    split
    · simp
    · next h => exact fun hc => h ⟨rfl, hc⟩
  faulted r h _ := by rw [mstate_takeOutRejoining, if_pos ⟨rfl, h⟩]
  live r h := by
    have ha := takeOutRejoining_aside q why p
    rw [ha.state, ha.base]
    exact ⟨h, rfl⟩

/-! ## The works of the report and what stands behind them -/

/-- A work that does nothing passes. -/
theorem RunsTo.idle {n : Nat} {t : Task} {ts : List Task} {p p' : Part} (h0 : workRank p t = 0) (h : runTask t p = (p, []))
    (hr : RunsTo n ts p p') : RunsTo (n + 1) (t :: ts) p p' := by
  refine .cons h0 ?_
  rw [h]
  exact hr

theorem nextWork_cons_ne_none (p : Part) (t : Task) (ts : List Task) : nextWork p (t :: ts) ≠ none := by
  unfold nextWork
  split
  · simp
  · split
    · simp
    · split <;> simp

/-- Works that all do nothing pass in any order. -/
theorem works_allIdle {p : Part} : ∀ (n : Nat) (ts : List Task), ts.length = n →
    (∀ t ∈ ts, runTask t p = (p, [])) → Works ts p p n
  | 0, ts, hl, _ => by rw [List.length_eq_zero_iff.mp hl]; exact .nil p
  | n + 1, ts, hl, h => by
    obtain ⟨t0, ts0, rfl⟩ : ∃ t0 ts0, ts = t0 :: ts0 := List.exists_cons_of_length_eq_add_one hl
    obtain ⟨⟨t, rest⟩, hn⟩ := Option.ne_none_iff_exists'.mp (nextWork_cons_ne_none p t0 ts0)
    obtain ⟨pre, post, h1, h2, -, -⟩ := nextWork_spec p _ t rest hn
    have hi := h t (by rw [h1]; simp)
    refine .next hn ?_
    rw [hi]
    refine works_allIdle n _ ?_ fun u hu => h u ?_
    · have := congrArg List.length h1
      simp only [List.length_append, List.length_cons] at this hl
      simp [h2]
      omega
    · rw [List.nil_append, h2] at hu
      rw [h1]
      simp only [List.mem_append, List.mem_cons] at hu ⊢
      tauto

/-- With no job left a drain check starts nothing. -/
theorem runsTo_drainCheck_noJob {n : Nat} {ts : List Task} {p p' : Part} (r : RegionIx) (hj : p.jobs = [])
    (h : RunsTo n ts (taskDrainCheck r p).1 p') : RunsTo (n + 2) (.drainCheck r :: ts) p p' := by
  by_cases hd : drained p r = true
  · refine .cons rfl ?_
    have hr : runTask (.drainCheck r) p = (p.retired r, [.headStart]) := taskDrainCheck_drained _ _ hd
    rw [hr]
    rw [taskDrainCheck_drained _ _ hd] at h
    exact .idle rfl (taskHeadStart_noJob (by simp [Part.retired, hj])) h
  · have hr : runTask (.drainCheck r) p = (p, []) := taskDrainCheck_kept _ _ (by simpa using hd)
    rw [taskDrainCheck_kept _ _ (by simpa using hd)] at h
    exact (RunsTo.idle rfl hr h).mono (by omega)

theorem jobs_drainCheck_noJob {p : Part} (r : RegionIx) (hj : p.jobs = []) : (taskDrainCheck r p).1.jobs = [] := by
  rw [taskDrainCheck_fst, drainChecked]
  split
  · simp [Part.retired, hj]
  · exact hj

/-- A report at a REJOINING copy whose port's job is the last one, or waits: the rebuild ends, and a line claim that ends
with it gives its line a turn (R66, R120). -/
theorem runsTo_report_rejoining {p : Part} {r : RegionIx} {q : Port} (why : Reason) (line : Option UpAddr)
    (hm : mstate p r q = some .rejoining)
    (hj : p.jobs.filter (fun j => !isCatchUp q j) = [] ∨ headHeld p ∧ ∀ j ∈ p.jobs, isCatchUp q j = true → j.started = false) :
    ∃ p1 claim, RebuildEnded q p p1 ∧ (claim = none ∨ claim = p.lineClaim) ∧ ∀ n ts p',
      RunsTo n ((claim.map Task.leave).toList ++ ts) p1 p' → RunsTo (n + 4) (.report r q why line :: ts) p p' := by
  have hend := rebuildEnded_takeOut q why p
  have honly := takeOutRejoining_only q why p
  have hrep : takeReport r q why line p = takeOutRejoining q why p := by simp [takeReport, hm]
  have ht : runTask (.report r q why line) p =
      leaveCatchUp q (some (copyAbortedEvent q .target)) (takeOutRejoining q why p) := by simp [runTask, taskReport, hm, hrep]
  clear hrep
  generalize takeOutRejoining q why p = A at hend honly ht
  cases hf : p.jobs.find? (isCatchUp q) with
  | none =>
    refine ⟨_, none, hend, .inl rfl, fun n ts p' h => (RunsTo.cons rfl ?_).mono (by omega : n + 1 ≤ n + 4)⟩
    rw [ht, leaveCatchUp, honly.jobs, hf]
    exact h
  | some j =>
    have hjm := List.mem_of_find?_eq_some hf
    have hjc := List.find?_some hf
    by_cases hs : j.started = true
    · have hnone : jobsWithout q A = [] := by
        rw [jobsWithout, honly.jobs]
        exact hj.resolve_right fun hc => by simp [hc.2 j hjm hjc] at hs
      have hl : leaveCatchUp q (some (copyAbortedEvent q .target)) A =
          leaveRunning [] (some (copyAbortedEvent q .target)) A := by
        rw [leaveCatchUp, honly.jobs, hf]
        simp [hs, hnone]
      have hw := endRunning_works [] (some (copyAbortedEvent q .target)) A
      have hst := endRunning_stores [] (some (copyAbortedEvent q .target)) A
      have hjobs := endRunning_jobs [] (some (copyAbortedEvent q .target)) A
      have hlr : leaveRunning [] (some (copyAbortedEvent q .target)) A =
          ((endRunning [] (some (copyAbortedEvent q .target)) A).1,
            (p.window.map (fun w => Task.drainCheck w.region)).toList ++ (.headStart :: (p.lineClaim.map Task.leave).toList)) := by
        rw [← honly.window, ← honly.lineClaim, ← hw]
        rfl
      generalize (endRunning [] (some (copyAbortedEvent q .target)) A).1 = p1 at hst hjobs hlr
      have hend1 := hend.stores hst
      cases hwin : p.window with
      | none =>
        refine ⟨p1, p.lineClaim, hend1, .inr rfl, fun n ts p' h => (RunsTo.cons rfl ?_).mono (by omega : n + 2 ≤ n + 4)⟩
        rw [ht, hl, hlr, hwin]
        exact .idle rfl (taskHeadStart_noJob hjobs) h
      | some w =>
        refine ⟨_, p.lineClaim, hend1.drainCheck w.region, .inr rfl, fun n ts p' h => .cons rfl ?_⟩
        rw [ht, hl, hlr, hwin]
        exact runsTo_drainCheck_noJob w.region hjobs (.idle rfl (taskHeadStart_noJob (jobs_drainCheck_noJob _ hjobs)) h)
    · have hl : leaveCatchUp q (some (copyAbortedEvent q .target)) A =
          ({ post (copyAbortedEvent q .target) A with jobs := p.jobs.filter (fun j => !isCatchUp q j) },
            [.headStart]) := by
        rw [leaveCatchUp, honly.jobs, hf]
        simp [hs, jobsWithout, honly.jobs, postEnd]
      refine ⟨_, none, hend.stores (p'' := { post (copyAbortedEvent q .target) A with
        jobs := p.jobs.filter (fun j => !isCatchUp q j) }) ⟨rfl, rfl, rfl⟩, .inl rfl,
        fun n ts p' h => (RunsTo.cons rfl ?_).mono (by omega : n + 2 ≤ n + 4)⟩
      rw [ht, hl]
      refine .idle rfl ?_ h
      rcases hj with hj | ⟨hh, hns⟩
      · exact taskHeadStart_noJob hj
      · refine taskHeadStart_held (headHeld_filter (p := p) (f := fun j => !isCatchUp q j) honly.window rfl (fun x hx hxs => ?_) hh)
        by_contra hc
        exact absurd hxs (by simp [hns x hx (by simpa using hc)])

end Sys2Proof.Machine
end

section
/-! SUPPORT. The statement about failed writes (O11). -/

namespace Sys2Proof.Machine

theorem extentOf_congr {x y : Region} (h : x.base = y.base) (a : UpAddr) : extentOf x a = extentOf y a := by
  simp only [extentOf, lineOffset, h]

/-- Nobody waits in WAITING_LINE for the line. -/
theorem taskLeave_noneWaits {line : UpAddr} {p : Part} (h : ∀ x ∈ p.table, x.line = line → x.state ≠ .waitingLine) :
    taskLeave line p = (p, []) := by
  have : p.table.find? (leavesLine p line) = none := by
    rw [List.find?_eq_none]
    intro x hx hc
    obtain ⟨hl, hm⟩ := (leavesLine_iff _ _ _).mp hc
    exact h x hx hl ((mayLeave_iff _ _).mp hm).1
  simp [taskLeave, this]

theorem mstate_finished (p : Part) (e : Entry) (status : RespStatus) (data : Option LineData) (r : RegionIx) (q : Port) :
    mstate (p.finished e status data) r q = mstate p r q := by
  rw [finished_eq, mstate_puts]
  have hr : (freed e p).region r = if r = e.region then { p.region e.region with inFlight := (p.region e.region).inFlight - 1 }
      else p.region r := region_setRegion ..
  dsimp only [mstate]
  rw [hr]
  split
  · next h => rw [h]; rfl
  · rfl

theorem insertedIfOut_only (e : Entry) (q : Port) (p : Part) :
    ∃ lists events, insertedIfOut e q p = { p with lists := lists, events := events } := by
  unfold insertedIfOut
  split
  · rw [insertRun_eq]
    exact ⟨_, _, rfl⟩
  · exact ⟨_, _, rfl⟩

theorem mstate_insertedIfOut (e : Entry) (q : Port) (p : Part) (r : RegionIx) (q' : Port) :
    mstate (insertedIfOut e q p) r q' = mstate p r q' := by
  obtain ⟨lists, events, h⟩ := insertedIfOut_only e q p
  rw [h]
  rfl

/-- The extent of the line is in the list of a copy found FAULTED (R57). -/
theorem insertedIfOut_holds {e : Entry} {q : Port} {p : Part} (h : mstate p e.region q = some .faulted) :
    ∃ y ∈ (insertedIfOut e q p).divList q,
      holdsRange y { region := e.region, first := extentOf (p.region e.region) e.line, count := 1 } := by
  rw [insertedIfOut, if_pos (.inl h), insertRun_divList]
  exact insertedRuns_holds ..

theorem runTask_afterWriteFailure (tag : Tag) (q : Port) (p : Part) :
    runTask (.afterWriteFailure tag q) p = taskAfterWriteFailure tag q p := rfl

theorem workRank_leave_ne (p : Part) (line : UpAddr) : workRank p (.leave line) ≠ 0 := by
  show 1 + _ ≠ 0
  omega

/-- A turn lets a work behind it that is none go first. -/
theorem nextWork_behind {t u : Task} {p : Part} (ht : workRank p t ≠ 0) (hu : workRank p u = 0) :
    nextWork p [t, u] = some (u, [t]) := by
  simp [nextWork, ht, hu]

/-- A work after which all that is left does nothing. -/
theorem runsTo_thenIdle {t : Task} {ts us rest : List Task} {p p' : Part} {n : Nat} (hn : nextWork p ts = some (t, rest))
    (ht : runTask t p = (p', us)) (h : ∀ u ∈ us ++ rest, runTask u p' = (p', [])) (hl : us.length + rest.length ≤ n) :
    RunsTo (n + 1) ts p p' := by
  refine ⟨(us ++ rest).length + 1, by simp [hl], .next hn ?_⟩
  rw [ht]
  exact works_allIdle _ _ rfl h

/-- The part after the failed write, and what stands on the list then. -/
theorem afterWriteFailure_rebuilt {p : Part} {e : Entry} {q : Port} {why : Reason} {line : Option UpAddr}
    (hf : findEntry p e.tag = some (recordFail q why e)) (hk : e.kind = .write) (hm : mstate p e.region q = some .faulted)
    (hlive : (p.region e.region).state = .live) (hl : ∀ x ∈ p.table, x.line = e.line → x.tag = e.tag)
    (hc : ∀ a, line = some a → ∀ x ∈ p.table, x.line = a → x.state ≠ .waitingLine) :
    ∃ p', RunsTo 4 ((line.map Task.leave).toList ++ [.afterWriteFailure e.tag q]) p p' ∧
      (∀ r q', mstate p' r q' = mstate p r q') ∧ ∃ y ∈ p'.divList q,
        holdsRange y { region := e.region, first := extentOf (p.region e.region) e.line, count := 1 } := by
  have hcov := insertedIfOut_holds hm
  have hms := mstate_insertedIfOut e q p
  have hnext : nextWork p ((line.map Task.leave).toList ++ [.afterWriteFailure e.tag q]) =
      some (.afterWriteFailure e.tag q, (line.map Task.leave).toList) := by
    cases line with
    | none => exact nextWork_one _ _
    | some a => exact nextWork_behind (workRank_leave_ne p a) rfl
  have hasd := insertedIfOut_aside e q p
  have hlen : (line.map Task.leave).toList.length ≤ 1 := by cases line <;> simp
  by_cases hs : portSubset e.target (e.ack ||| addPort e.fail q) = true
  · have ht : runTask (.afterWriteFailure e.tag q) p = ((insertedIfOut e q p).finished e (writeStatus (recordFail q why e)) none,
        [.drainCheck e.region, .leave e.line]) := by
      rw [runTask_afterWriteFailure, taskAfterWriteFailure_eq hf hk, if_pos hs]
    have hidle : ∀ t ∈ [Task.drainCheck e.region, .leave e.line] ++ (line.map Task.leave).toList,
        runTask t ((insertedIfOut e q p).finished e (writeStatus (recordFail q why e)) none) =
          ((insertedIfOut e q p).finished e (writeStatus (recordFail q why e)) none, []) := by
      intro t htm
      have hmem : ∀ x ∈ ((insertedIfOut e q p).finished e (writeStatus (recordFail q why e)) none).table,
          x ∈ p.table ∧ x.tag ≠ e.tag := fun x hx => by
        obtain ⟨hx, hxt⟩ := List.mem_filter.mp hx
        exact ⟨hasd.table ▸ hx, by simpa using hxt⟩
      simp only [List.mem_append, List.mem_cons, List.not_mem_nil, or_false, Option.mem_toList, Option.map_eq_some_iff] at htm
      rcases htm with (rfl | rfl) | ⟨a, ha, rfl⟩
      · refine taskDrainCheck_kept _ _ ?_
        rw [finished_eq, ← Bool.not_eq_true]
        intro hd
        have := ((drained_iff ..).mp hd).1
        rw [region_puts, state_freed, hasd.state, hlive] at this
        simp at this
      · exact taskLeave_none fun x hx hxl => (hmem x hx).2 (hl x (hmem x hx).1 hxl)
      · exact taskLeave_noneWaits fun x hx hxl => hc a ha x (hmem x hx).1 hxl
    exact ⟨_, runsTo_thenIdle hnext ht hidle (by simp only [List.length_cons, List.length_nil]; omega),
      fun r q' => (mstate_finished ..).trans (hms r q'), hcov⟩
  · have ht : runTask (.afterWriteFailure e.tag q) p = (insertedIfOut e q p, []) := by
      rw [runTask_afterWriteFailure, taskAfterWriteFailure_eq hf hk, if_neg hs]
    have hidle : ∀ t ∈ [] ++ (line.map Task.leave).toList, runTask t (insertedIfOut e q p) = (insertedIfOut e q p, []) := by
      intro t htm
      simp only [List.nil_append, Option.mem_toList, Option.map_eq_some_iff] at htm
      obtain ⟨a, ha, rfl⟩ := htm
      exact taskLeave_noneWaits fun x hx hxl => hc a ha x (hasd.table ▸ hx) hxl
    exact ⟨_, runsTo_thenIdle hnext ht hidle (by simp only [List.length_nil]; omega), hms, hcov⟩

/-- A failed write at a REJOINING copy whose port's job is the last one, or waits: the rebuild ends, and the line's extent is
then in the list (R57, R66, R113). -/
theorem runsTo_failedWrite_rejoining {p : Part} {e : Entry} {q : Port} {result : TxnResult} {why : Reason}
    (he : findEntry p e.tag = some e) (hst : e.state = .issued ∨ e.state = .orphaned)
    (hr : result = .error ∧ why = .media ∨ result = .failed why) (hm : (p.region e.region).mode = .mirror) (hk : e.kind = .write)
    (hre : mstate p e.region q = some .rejoining) (hlive : (p.region e.region).state = .live)
    (hl : ∀ x ∈ p.table, x.line = e.line → x.tag = e.tag) (hc : claimHoldsNone p)
    (hj : p.jobs.filter (fun j => !isCatchUp q j) = [] ∨
      headHeld p ∧ ∀ j ∈ p.jobs, isCatchUp q j = true → j.started = false) :
    ∃ p', RunsTo 8 (takeHostOutcome e.tag q result p).2 (takeHostOutcome e.tag q result p).1 p' ∧
      (∀ r, mstate p r q = some .rejoining → (p.region r).state = .live → mstate p' r q = some .faulted) ∧
      (∀ r, mstate p' r q ≠ some .rejoining) ∧
      ∃ y ∈ p'.divList q, holdsRange y { region := e.region, first := extentOf (p.region e.region) e.line, count := 1 } := by
  have hf : findEntry (updateEntry e.tag (recordFail q why) p) e.tag = some (recordFail q why e) :=
    findEntry_updateEntry (fun _ => id) he
  have hentry : ∀ x ∈ (updateEntry e.tag (recordFail q why) p).table,
      ∃ y ∈ p.table, y.tag = x.tag ∧ y.line = x.line ∧ y.state = x.state := by
    intro x hx
    obtain ⟨y, hy, rfl⟩ := List.mem_map.mp hx
    refine ⟨y, hy, ?_⟩
    split <;> exact ⟨rfl, rfl, rfl⟩
  have hreg : ∀ r, (updateEntry e.tag (recordFail q why) p).region r = p.region r := fun _ => rfl
  have hmst : ∀ r, mstate (updateEntry e.tag (recordFail q why) p) r q = mstate p r q := fun _ => rfl
  have hcl : (updateEntry e.tag (recordFail q why) p).lineClaim = p.lineClaim := rfl
  obtain ⟨p1, claim, hend, hclaim, hrun⟩ := runsTo_report_rejoining (p := updateEntry e.tag (recordFail q why) p) why
    (some e.line) hre hj
  rw [takeHostOutcome_failed (q := q) he hst hr hm, hk]
  generalize updateEntry e.tag (recordFail q why) p = p0 at *
  obtain ⟨hlive1, hbase1⟩ := hend.live e.region (by rw [hreg]; exact hlive)
  have hone : ∀ x ∈ p1.table, x.line = e.line → x.tag = e.tag := fun x hx hxl => by
    obtain ⟨y, hy, h1, h2, -⟩ := hentry x (hend.table ▸ hx)
    exact h1 ▸ hl y hy (h2.trans hxl)
  have hnone : ∀ a, claim = some a → ∀ x ∈ p1.table, x.line = a → x.state ≠ .waitingLine := fun a ha x hx hxl hxs => by
    obtain ⟨y, hy, -, h2, h3⟩ := hentry x (hend.table ▸ hx)
    refine hc y hy (h3.trans hxs) ?_
    rw [h2, hxl, ← ha, ← hcl]
    exact (hclaim.resolve_left (by simp [ha])).symm
  obtain ⟨p2, hrun2, hms2, hcov⟩ := afterWriteFailure_rebuilt (line := claim) (q := q) (why := why)
    (by rw [findEntry_of_table hend.table, hf]) hk (hend.faulted _ ((hmst _).trans hre) (by rw [hreg]; exact hlive)) hlive1 hone hnone
  rw [extentOf_congr (hbase1.trans (congrArg Region.base (hreg e.region)))] at hcov
  refine ⟨p2, hrun 4 _ _ hrun2, fun r h1 h2 => ?_, fun r => ?_, hcov⟩
  · rw [hms2]
    exact hend.faulted r ((hmst r).trans h1) (by rw [hreg]; exact h2)
  · rw [hms2]
    exact hend.gone r

/-- Settles O11: the report, then the insertion and the status; at a REJOINING copy the rebuild ends before the insertion. -/
theorem failedWriteOutcome : Obligations.FailedWriteOutcome := by
  intro q h rest tag why e p1 p2 s hs ht ho hr he hst hk hm hp1 hp2
  obtain rfl := (findEntry_mem he).2
  have hins : p2 = insertedIfOut e q p1 := by
    have hb : (p1.region e.region).base = (s.part.region e.region).base := by
      rw [hp1, (reportTaken_aside ..).base]
      rfl
    rw [hp2, ← extentOf_congr hb]
    rfl
  refine ⟨fun hw => ?_, fun hre hlive hl _ hc hj => ?_⟩
  · have hf : findEntry p1 e.tag = some (recordFail q why e) := by
      rw [hp1]; exact findEntry_failureTaken (p := { s.part with handed := rest }) he
    have hb : Beside e s.part p2 := by
      have hb0 : Beside e s.part { s.part with handed := rest } := ⟨rfl, rfl, rfl, rfl, rfl⟩
      rw [hins, hp1]
      exact hb0.trans ((failureTaken_beside e q why { s.part with handed := rest }).trans (insertedIfOut_beside e q _))
    have hrun : ∀ {p' : Part}, RunsTo 2 (taskAfterWriteFailure e.tag q p1).2 (taskAfterWriteFailure e.tag q p1).1 p' →
        leavesPart (.hostOutcome q) s p' := fun h => exec_hostOutcome_to hs ht ho (n := 5) (by omega)
      (runsTo_failedWrite (p := { s.part with handed := rest }) he hst hr hm hw hk (by rwa [hp1] at h))
    rw [taskAfterWriteFailure_eq hf hk, ← hins] at hrun
    refine ⟨fun hsub => hrun ?_, fun hsub hq => hrun ?_⟩
    · rw [if_neg (by simp [hsub])]
      exact (RunsTo.nil p2).mono (by omega)
    · rw [if_pos hsub]
      exact runsTo_freesQuietly (hb.freesQuietly hq) _ _
  · obtain ⟨p', hrun, hfault, hgone, hcov⟩ := runsTo_failedWrite_rejoining (p := { s.part with handed := rest }) he hst hr hm hk
      hre hlive hl hc hj
    have hout := exec_hostOutcome hs ht ho
    have hset := settle_of_runsTo hrun (by omega)
    have hsame := settle_same (takeHostOutcome e.tag q h.result { s.part with handed := rest })
    rw [hset] at hout hsame
    rw [takeHostOutcome_failed (p := { s.part with handed := rest }) (q := q) he hst hr hm] at hsame
    obtain ⟨y, hy, hyr, hyf, hys⟩ := hcov
    exact ⟨_, hout, sameOutside_trans (updateEntry_same ..) hsame, hfault, hgone, y, hy, hyr, hyf, hys⟩

end Sys2Proof.Machine
end

section
/-! SUPPORT. HRST_N asserted: the freeing of what waits, the drain checks, and HOST_RESET (R18, R37). -/

namespace Sys2Proof.Machine

/-! ## The waiting entries are freed (R18 step 2) -/

/-- From `p` to `p'` slots go back and counts fall: jobs, window, region states, queues and what is outside stand. -/
structure SlotsBack (p p' : Part) : Prop where
  jobs : p'.jobs = p.jobs
  window : p'.window = p.window
  state : ∀ r, (p'.region r).state = (p.region r).state
  queue : ∀ q, (p'.port q).queue = (p.port q).queue
  outside : sameOutside p p'

theorem SlotsBack.refl (p : Part) : SlotsBack p p := ⟨rfl, rfl, fun _ => rfl, fun _ => rfl, sameOutside_refl p⟩

theorem SlotsBack.trans {a b c : Part} (h : SlotsBack a b) (h' : SlotsBack b c) : SlotsBack a c :=
  ⟨h'.jobs.trans h.jobs, h'.window.trans h.window, fun r => (h'.state r).trans (h.state r),
    fun q => (h'.queue q).trans (h.queue q), sameOutside_trans h.outside h'.outside⟩

theorem SlotsBack.foldl {α : Type} {f : Part → α → Part} (h : ∀ p x, SlotsBack p (f p x)) :
    ∀ (l : List α) (p : Part), SlotsBack p (l.foldl f p)
  | [], p => .refl p
  | x :: xs, p => (h p x).trans (foldl h xs (f p x))

theorem releaseHeldAt_slotsBack (tag : Tag) (p : Part) (q : Port) : SlotsBack p (releaseHeldAt tag p q) := by
  unfold releaseHeldAt
  dsimp only
  split
  · refine ⟨rfl, rfl, fun _ => rfl, fun q' => ?_, setPort_same _ _ _ rfl rfl rfl rfl rfl rfl⟩
    rw [port_setPort]
    split
    · next h => rw [h]; rfl
    · rfl
  · exact .refl p

theorem releaseHeld_slotsBack (tag : Tag) (p : Part) : SlotsBack p (releaseHeld tag p) :=
  SlotsBack.foldl (releaseHeldAt_slotsBack tag) _ p

theorem lowerInFlight_slotsBack (r : RegionIx) (p : Part) : SlotsBack p (lowerInFlight r p) := by
  refine ⟨rfl, rfl, fun r' => ?_, fun _ => rfl, setRegion_same ..⟩
  rw [lowerInFlight, region_setRegion]
  split
  · next h => rw [h]
  · rfl

theorem removeEntry_slotsBack (tag : Tag) (p : Part) : SlotsBack p (removeEntry tag p) :=
  ⟨rfl, rfl, fun _ => rfl, fun _ => rfl, setTable_same ..⟩

theorem dropWaiting_slotsBack (p : Part) (e : Entry) : SlotsBack p (dropWaiting p e) :=
  (releaseHeld_slotsBack e.tag p).trans ((removeEntry_slotsBack e.tag _).trans (lowerInFlight_slotsBack e.region _))

theorem table_foldl_dropWaiting (l : List Entry) (p : Part) :
    (l.foldl dropWaiting p).table = p.table.filter (fun x => !(l.map (·.tag)).contains x.tag) := by
  induction l generalizing p with
  | nil => simp
  | cons e es ih =>
    rw [List.foldl_cons, ih, table_dropWaiting, List.filter_filter]
    refine List.filter_congr fun x _ => ?_
    simp only [List.map_cons, List.contains_cons, Bool.not_or]
    rw [Bool.and_comm]
    rfl

/-- What is left is what was placed. -/
theorem table_dropUnplaced {p : Part} (hd : tagsDistinct p) :
    ((p.table.filter unplaced).foldl dropWaiting p).table = p.table.filter (fun e => !unplaced e) := by
  rw [table_foldl_dropWaiting]
  refine List.filter_congr fun x hx => ?_
  congr 1
  rw [Bool.eq_iff_iff, List.contains_iff_mem, List.mem_map]
  constructor
  · rintro ⟨y, hy, ht⟩
    obtain ⟨hy, hu⟩ := List.mem_filter.mp hy
    rwa [← eq_of_tag hd hy hx ht]
  · exact fun hu => ⟨x, List.mem_filter.mpr ⟨hx, hu⟩, rfl⟩

/-- The part when the drain checks of a host reset begin (R18 steps 2 and 3). -/
def resetBegun (p : Part) : Part :=
  ((p.table.filter unplaced).foldl dropWaiting p).setTable ((p.table.filter (fun e => !unplaced e)).map orphan)

/-- The works of a host reset: the drain checks of the freed entries' regions, then HOST_RESET (log 25). -/
def resetWorks (p : Part) : List Task :=
  (lastPlaces ((p.table.filter unplaced).map (·.region))).map .drainCheck ++ [.posting { kind := .hostReset }]

theorem hostReset_eq {p : Part} (hd : tagsDistinct p) : hostReset p = settle (resetBegun p, resetWorks p) := by
  rw [resetBegun, ← table_dropUnplaced hd]
  rfl

theorem resetBegun_slotsBack (p : Part) : SlotsBack p (resetBegun p) :=
  (SlotsBack.foldl dropWaiting_slotsBack _ p).trans ⟨rfl, rfl, fun _ => rfl, fun _ => rfl, setTable_same ..⟩

theorem state_orphan (e : Entry) : (orphan e).state = if e.state = .issued then .orphaned else e.state := by
  unfold orphan
  by_cases h : e.state = .issued <;> simp [h]

theorem resetBegun_noneWaits (p : Part) : ∀ x ∈ (resetBegun p).table, x.state ≠ .waitingLine := by
  intro x hx
  obtain ⟨y, hy, rfl⟩ := List.mem_map.mp hx
  have hu := (List.mem_filter.mp hy).2
  rw [state_orphan]
  split
  · simp
  · exact fun hc => by simp [unplaced, hc] at hu

/-! ## With nobody waiting for a line the works touch neither table nor queues -/

theorem settle_noneWaits {a : Act} (hw : ∀ x ∈ a.1.table, x.state ≠ .waitingLine) (ht : ∀ t ∈ a.2, isEngineWork t = true) :
    (settle a).table = a.1.table ∧ ∀ q, ((settle a).port q).queue = (a.1.port q).queue := by
  refine settle_inv_of (I := fun p => p.table = a.1.table ∧ ∀ q, (p.port q).queue = (a.1.port q).queue)
    (T := fun t => isEngineWork t = true ∨ ∃ l, t = .leave l) (fun t p ht ⟨htab, hq⟩ => ?_) (fun t h => .inl (ht t h))
    ⟨rfl, fun _ => rfl⟩
  rcases ht with ht | ⟨l, rfl⟩
  · obtain ⟨hp, hworks⟩ := runTask_engine ht p
    exact ⟨⟨hp.table.trans htab, fun q => (hp.queue q).trans (hq q)⟩, hworks⟩
  · rw [show runTask (.leave l) p = (p, []) from taskLeave_noneWaits fun x hx _ => hw x (htab ▸ hx)]
    exact ⟨⟨htab, hq⟩, by simp⟩

/-! ## The drain checks (R37, R38) -/

theorem mem_lastPlaces {r : RegionIx} {l : List RegionIx} : r ∈ lastPlaces l ↔ r ∈ l := by
  induction l with
  | nil => simp [lastPlaces]
  | cons x xs ih =>
    unfold lastPlaces
    split
    · next h =>
      rw [ih, List.mem_cons]
      exact ⟨.inr, fun hx => hx.elim (fun e => e ▸ List.contains_iff_mem.mp h) id⟩
    · rw [List.mem_cons, List.mem_cons, ih]

theorem nodup_lastPlaces (l : List RegionIx) : (lastPlaces l).Nodup := by
  induction l with
  | nil => exact .nil
  | cons x xs ih =>
    unfold lastPlaces
    split
    · exact ih
    · next h => exact List.nodup_cons.mpr ⟨fun hx => h (List.contains_iff_mem.mpr (mem_lastPlaces.mp hx)), ih⟩

theorem length_lastPlaces (l : List RegionIx) : (lastPlaces l).length ≤ 16 := by
  simpa using (nodup_lastPlaces l).length_le_card

theorem nothingStarts_retired {p : Part} (r : RegionIx) (h : nothingStarts p) : nothingStarts (p.retired r) :=
  h.imp id fun h => by simp [Part.retired, h]

theorem taskHeadStart_nothing {p : Part} (h : nothingStarts p) : taskHeadStart p = (p, []) :=
  h.elim (fun h => taskHeadStart_held (.inr h)) taskHeadStart_noJob

theorem drained_retired {p : Part} {r r' : RegionIx} (h : r' ≠ r) : drained (p.retired r) r' = drained p r' := by
  simp only [drained, region_retired_ne p h]
  rfl

/-- Drain checks of distinct regions retire those that are drained, and nothing starts. -/
theorem runsTo_drainChecks {l : List RegionIx} (hl : l.Nodup) {p p' : Part} {ts : List Task} {n : Nat} (hn : nothingStarts p)
    (h : RunsTo n ts ((l.filter (drained p)).foldl Part.retired p) p') :
    RunsTo (n + 2 * l.length) (l.map .drainCheck ++ ts) p p' := by
  induction l generalizing p with
  | nil => exact h
  | cons r rs ih =>
    obtain ⟨hr, hrs⟩ := List.nodup_cons.mp hl
    rw [List.map_cons, List.cons_append, List.length_cons]
    by_cases hd : drained p r = true
    · rw [List.filter_cons, if_pos hd, List.foldl_cons,
        List.filter_congr (q := drained (p.retired r)) fun x hx => (drained_retired (ne_of_mem_of_not_mem hx hr)).symm] at h
      have hrun : RunsTo (n + 2 * rs.length + 1 + 1) (.drainCheck r :: (rs.map .drainCheck ++ ts)) p p' := by
        refine .cons rfl ?_
        rw [show runTask (.drainCheck r) p = (p.retired r, [.headStart]) from taskDrainCheck_drained _ _ hd]
        exact .idle rfl (taskHeadStart_nothing (nothingStarts_retired r hn)) (ih hrs (nothingStarts_retired r hn) h)
      exact hrun.mono (by omega)
    · rw [List.filter_cons, if_neg hd] at h
      exact (RunsTo.idle rfl (show runTask (.drainCheck r) p = (p, []) from taskDrainCheck_kept _ _ (by simpa using hd))
        (ih hrs hn h)).mono (by omega)

/-- No drain check retires a region. -/
theorem runsTo_drainChecks_none {l : List RegionIx} {p p' : Part} {ts : List Task} {n : Nat} (hk : ∀ r ∈ l, drained p r = false)
    (h : RunsTo n ts p p') : RunsTo (n + l.length) (l.map .drainCheck ++ ts) p p' := by
  obtain ⟨m, hm, hw⟩ := h
  refine ⟨m + (l.map Task.drainCheck).length, by simp [hm], works_idle (fun t ht => ?_) hw⟩
  obtain ⟨r, hr, rfl⟩ := List.mem_map.mp ht
  exact ⟨rfl, taskDrainCheck_kept _ _ (hk r hr)⟩

theorem runsTo_posting (b : EventBody) (p : Part) : RunsTo 1 [.posting b] p (post b p) :=
  .single (.nil _)

/-- A region is drained once all its entries that were not placed are freed. -/
theorem drained_resetBegun {p : Part} (hd : tagsDistinct p) (hi : inFlightExact p) (r : RegionIx) : drained (resetBegun p) r =
    ((p.region r).state == .retiring && p.table.all (fun e => e.region != r || unplaced e) && !windowOn p r) := by
  have hs := resetBegun_slotsBack p
  obtain ⟨-, hcount⟩ := (dropUnplaced_keeps p).table ⟨hd, hi⟩
  have hin : ((resetBegun p).region r).inFlight = (p.table.filter (fun e => !unplaced e)).countP (fun e => e.region == r) := by
    rw [← table_dropUnplaced hd]
    exact (hcount r).1
  have hzero : (((resetBegun p).region r).inFlight == 0) = p.table.all (fun e => e.region != r || unplaced e) := by
    rw [hin, Bool.eq_iff_iff, beq_iff_eq, List.countP_eq_zero, List.all_eq_true]
    simp only [List.mem_filter, Bool.or_eq_true, bne_iff_ne, beq_iff_eq, Bool.not_eq_true']
    refine ⟨fun h e he => ?_, fun h e ⟨he, hu⟩ hr => ?_⟩
    · by_cases hu : unplaced e = true
      · exact .inr hu
      · exact .inl (h e ⟨he, by simpa using hu⟩)
    · exact (h e he).elim (fun hne => hne hr) fun hc => by simp [hu] at hc
  rw [drained, hzero, hs.state]
  simp only [windowOn, hs.window]

/-- What a host reset leaves: the placed entries, ISSUED ones ORPHANED, and the queues (R18). -/
theorem hostReset_leaves {p : Part} (hd : tagsDistinct p) : sameOutside p (hostReset p) ∧
    (hostReset p).table = (p.table.filter (fun e => !unplaced e)).map orphan ∧
    ∀ q, ((hostReset p).port q).queue = (p.port q).queue := by
  have hb := resetBegun_slotsBack p
  obtain ⟨htab, hq⟩ := settle_noneWaits (a := (resetBegun p, resetWorks p)) (resetBegun_noneWaits p) fun t ht => by
    simp only [resetWorks, List.mem_append, List.mem_map, List.mem_singleton] at ht
    rcases ht with ⟨r, -, rfl⟩ | rfl <;> rfl
  rw [hostReset_eq hd]
  exact ⟨sameOutside_trans hb.outside (settle_same _), htab, fun q => (hq q).trans (hb.queue q)⟩

/-- No freed entry's region is RETIRING: nothing drains. -/
theorem hostReset_drainsNone {p : Part} (hd : tagsDistinct p)
    (h : ∀ e ∈ p.table, unplaced e = true → (p.region e.region).state ≠ .retiring) :
    hostReset p = post { kind := .hostReset } (resetBegun p) := by
  have hlen := length_lastPlaces ((p.table.filter unplaced).map (·.region))
  rw [hostReset_eq hd]
  refine settle_of_runsTo (a := (resetBegun p, resetWorks p)) (runsTo_drainChecks_none (fun r hr => ?_) (runsTo_posting _ _))
    (by omega)
  obtain ⟨e, he, rfl⟩ := List.mem_map.mp (mem_lastPlaces.mp hr)
  obtain ⟨he, hu⟩ := List.mem_filter.mp he
  rw [← Bool.not_eq_true, drained_iff, (resetBegun_slotsBack p).state]
  exact fun hc => h e he hu hc.1

/-- With nothing to start, the regions that drain are retired in the order of their last freed entries (log 25). -/
theorem hostReset_drains {p : Part} (hd : tagsDistinct p) (hi : inFlightExact p) (hn : nothingStarts p) :
    hostReset p = post { kind := .hostReset } ((drainedByReset p).foldl Part.retired (resetBegun p)) := by
  have hlen := length_lastPlaces ((p.table.filter unplaced).map (·.region))
  have hb := resetBegun_slotsBack p
  have hn' : nothingStarts (resetBegun p) := hn.imp (fun h => by rwa [hb.window]) (fun h => hb.jobs.trans h)
  rw [hostReset_eq hd, drainedByReset, ← List.filter_congr fun r _ => drained_resetBegun hd hi r]
  exact settle_of_runsTo (a := (resetBegun p, resetWorks p))
    (runsTo_drainChecks (nodup_lastPlaces _) hn' (runsTo_posting _ _)) (by omega)

/-- Settles O14: what waits is freed, the regions it leaves empty are drained, HOST_RESET comes last. -/
theorem hostReset_spec : Obligations.HostReset := by
  refine ⟨fun s hp hh hd => ?_, fun s h => ?_, fun s hp hh => ?_⟩
  · have hexec : leavesPart .hrstNAssert s (hostReset { s.part with hrst := true }) := by
      rw [← show assertHrst s.part = hostReset { s.part with hrst := true } by simp [assertHrst, hp, hh]]
      rfl
    refine ⟨?_, fun hnr => ?_, fun hi hn => ?_⟩
    · obtain ⟨hsame, htab, hq⟩ := hostReset_leaves (p := { s.part with hrst := true }) hd
      have ⟨_, hrst, _, _, _, _, _, _, _, _, _, hlink⟩ := hsame
      refine ⟨_, hexec, hrst, ?_, hsame, htab, fun q => ⟨hq q, (hlink q).1⟩⟩
      rw [← Bool.not_eq_true, upReady_iff]
      rintro ⟨-, h, -⟩
      exact absurd (hrst.symm.trans h) (by simp)
    · rwa [hostReset_drainsNone (p := { s.part with hrst := true }) hd hnr] at hexec
    · rwa [hostReset_drains (p := { s.part with hrst := true }) hd hi hn] at hexec
  · have : assertHrst s.part = s.part := by simp [assertHrst, h]
    exact congrArg (fun p => Host.Outcome.next { s with part := p }) this
  · have : assertHrst s.part = { s.part with hrst := true } := by simp [assertHrst, hp, hh]
    exact congrArg (fun p => Host.Outcome.next { s with part := p }) this

end Sys2Proof.Machine
end

section
/-! SUPPORT. Write notices and the line claim (R10, R131, R132, R134). -/

namespace Sys2Proof.Machine

/-! ## Notices -/

theorem taskNotice_noWindow {p : Part} (line : UpAddr) (full : Bool) (h : p.window = none) : taskNotice line full p = (p, []) := by
  simp [taskNotice, h]

theorem taskNotice_elsewhere {line : UpAddr} {w : Window} {p : Part} (full : Bool) (h : p.window = some w)
    (hn : w.addr ≠ line ∨ w.phase ≠ .reading ∨ w.job ≠ .compare ∧ w.cancelled = true) : taskNotice line full p = (p, []) := by
  rw [taskNotice, h]
  dsimp only
  split
  · next hc =>
    simp only [Bool.and_eq_true, beq_iff_eq] at hc
    obtain ⟨hj, hcan⟩ := (hn.resolve_left (absurd hc.1)).resolve_left (absurd hc.2)
    cases hwj : w.job with
    | compare => exact absurd hwj hj
    | catchUp t => simp [noticeReading, hcan]
  · rfl

/-- A notice for the line that a catch-up window reads. -/
theorem taskNotice_catchUp {t : Port} {w : Window} {p : Part} (full : Bool) (h : p.window = some w) (hp : w.phase = .reading)
    (hj : w.job = .catchUp t) : taskNotice w.addr full p = noticeReading t full w p := by
  simp [taskNotice, h, hp, hj]

/-- A notice for the line that a compare window reads. -/
theorem taskNotice_compare {w : Window} {p : Part} (full : Bool) (h : p.window = some w) (hp : w.phase = .reading)
    (hj : w.job = .compare) : taskNotice w.addr full p =
      ((overtaken w p).2.setWindow (some { (overtaken w p).1 with reread := true }), []) := by
  simp [taskNotice, h, hp, hj]

/-- The notice that makes the overtake count 8 places the line claim. -/
theorem overtaken_eq (w : Window) (p : Part) : overtaken w p =
    ({ w with overtake := min (w.overtake + 1) 8 },
      { p with lineClaim := if w.overtake = 7 then some w.addr else p.lineClaim }) := by
  have hc : (w.overtake + 1 == Config.overtakeLimit) = true ↔ w.overtake = 7 := by simp [Config.overtakeLimit]
  unfold overtaken
  rw [Prod.mk.injEq]
  refine ⟨rfl, ?_⟩
  by_cases h : w.overtake = 7
  · rw [if_pos (hc.mpr h), if_pos h]
  · rw [if_neg (fun h' => h (hc.mp h')), if_neg h]

section
variable {t : Port} {w : Window} {p : Part} (h : p.window = some w)
include h

theorem copyClaimAt_eq : copyClaimAt p t = w.claims.find? (fun c => c.port == t) := by simp [copyClaimAt, h]

theorem claims_any : w.claims.any (fun c => c.port == t) = (copyClaimAt p t).isSome := by
  rw [copyClaimAt_eq h, Bool.eq_iff_iff, List.any_eq_true, List.find?_isSome]

/-- A withdrawal at a port resets its pass-over count where a claim stood there (R96, R122). -/
theorem withdrawClaimAt_passOver : ((withdrawClaimAt t p).port t).passOver =
    if (copyClaimAt p t).isSome = true then 0 else (p.port t).passOver := by
  rw [withdrawClaimAt, h]
  dsimp only
  rw [claims_any h]
  split
  · simp [clearPassOver]
  · rfl

end

theorem dropClaim_none (t : Port) (w : Window) : (dropClaim t w).claims.find? (fun c => c.port == t) = none := by
  simp [dropClaim]

section
variable {t : Port} {w : Window} {p : Part} (h : p.window = some w) (hp : w.phase = .reading) (hj : w.job = .catchUp t)
  (hc : w.cancelled = false)
include h hp hj hc

/-- A notice for a catch-up line whose source is still being read (R131). -/
theorem taskNotice_awaited (full : Bool) (hd : w.data = []) : taskNotice w.addr full p =
    if full then (p.setWindow (some { w with cancelled := true }), [])
    else ((overtaken w p).2.setWindow (some { (overtaken w p).1 with reread := true }), []) := by
  rw [taskNotice_catchUp full h hp hj, noticeReading, if_neg (by simp [hc]), if_pos (by simp [hd])]

/-- A notice for a catch-up line whose data is held (R131). -/
theorem taskNotice_held (full : Bool) (hd : w.data ≠ []) : taskNotice w.addr full p =
    if full then ((withdrawClaimAt t p).setWindow (some (dropClaim t { w with data := [] })), [.lineDone t])
    else restartLine t (dropClaim t (overtaken w p).1) (withdrawClaimAt t (overtaken w p).2) := by
  rw [taskNotice_catchUp full h hp hj, noticeReading, if_neg (by simp [hc]), if_neg (by simp [hd])]

end

/-! ## A line done, with the line claim on its line (R10, R128) -/

/-- What a choice of a read copy makes of the part does not depend on what is handed over, on the line claim and on the
window. -/
theorem chooseRead_of {p p' : Part} {e : Entry} {next : Port} (handed : List Handed) (claim : Option UpAddr)
    (window : Option Window) (h : chooseRead p e = some (next, p')) :
    chooseRead { p with handed := handed, lineClaim := claim, window := window } e =
      some (next, { p' with handed := handed, lineClaim := claim, window := window }) := by
  have hp : ∀ x l, policyChoice { p with handed := handed, lineClaim := claim, window := window } x l = policyChoice p x l :=
    fun _ _ => rfl
  have he : eligiblePorts { p with handed := handed, lineClaim := claim, window := window } e = eligiblePorts p e := rfl
  have hr : ({ p with handed := handed, lineClaim := claim, window := window } : Part).region e.region = p.region e.region := rfl
  unfold chooseRead at h ⊢
  dsimp only at h ⊢
  rw [hp, he, hr]
  cases hc : policyChoice p (p.region e.region) (eligiblePorts p e) with
  | none => simp [hc] at h
  | some q =>
    rw [hc] at h
    obtain ⟨rfl, rfl⟩ := Prod.mk.inj (Option.some.inj h)
    dsimp only
    split <;> rfl

theorem usableSources_eq (p : Part) (t : Port) (r : RegionIx) :
    usableSources p t r = (readablePorts p r).filter (fun s => s != t) := by
  rw [usableSources, readablePorts, List.filter_filter]
  refine List.filter_congr fun q _ => ?_
  cases mstate p r q == some .inService <;> cases (q != t) <;> simp_all

theorem exec_copyOutcome {q : Port} {h : Handed} {rest : List Handed} {part : CopyPart} {s : State} (hs : s.part.porst = false)
    (ht : takeFirst (fun h => h.port == q && isCopy h.origin) s.part.handed = some (h, rest)) (ho : h.origin = .copy part) :
    leavesPart (.copyOutcome q) s (settle (takeCopyOutcome part q h.result { s.part with handed := rest })) := by
  have := onPart_running (copyOutcome q) s hs
  rwa [show copyOutcome q s.part = settle (takeCopyOutcome part q h.result { s.part with handed := rest }) by
    simp [copyOutcome, ht, ho]] at this

/-- The window when a line starts, before a source is chosen (R121). -/
def lineBegun (job : WindowJob) (p : Part) (r : RegionIx) (e k : Nat) : Window where
  job := job
  region := r
  extent := e
  lineNo := k
  addr := lineAddr (p.region r) e k
  source := 0#4
  phase := .claiming
  overtake := 0
  cancelled := false
  reread := false
  data := []
  claims := []

/-- The start of another line of the region: the overtake count returns to 0, and no drain check follows (R121). -/
theorem startLine_sameRegion {job : WindowJob} {w : Window} {k : Nat} {p : Part} (hw : p.window = some w) (hk : w.lineNo ≠ k) :
    startLine job w.region w.extent k p = (p.setWindow (some (lineBegun job p w.region w.extent k)), []) := by
  have hb : (w.lineNo == k) = false := by simpa using hk
  simp [startLine, hw, hb, lineBegun]

/-- A source for the line just begun (R126). -/
theorem taskChooseSource_begun {t src : Port} {r : RegionIx} {e k : Nat} {p : Part}
    (hw : p.window = some (lineBegun (.catchUp t) p r e k)) (hs : balance p (usableSources p t r) = some src) :
    taskChooseSource t p = (p.setWindow (some (lineWindow p t src r e k 0)), []) := by
  rw [usableSources_eq] at hs
  simp only [taskChooseSource, hw]
  rw [show (lineBegun (.catchUp t) p r e k).region = r from rfl, hs]
  rfl

/-- A work that is no turn, with its outcome known. -/
theorem RunsTo.step {n : Nat} {t : Task} {ts us : List Task} {p p1 p' : Part} (h0 : workRank p t = 0)
    (hr : runTask t p = (p1, us)) (h : RunsTo n (us ++ ts) p1 p') : RunsTo (n + 1) (t :: ts) p p' := by
  refine .cons h0 ?_
  rw [hr]
  exact h

/-- The next line of the extent, read at the source that the balance rule picks; then the turn of the line's entry, when the
line claim ends with the line (R10, R126, R128). -/
theorem runsTo_lineDone {t src : Port} {w : Window} {p p' : Part} {n : Nat} (hw : p.window = some w) (hj : w.job = .catchUp t)
    (hp : w.phase ≠ .closing) (hk : w.lineNo + 1 < 1024) (hlive : (p.region w.region).state = .live)
    (hsrc : balance p (usableSources p t w.region) = some src) (hc : p.lineClaim = some w.addr)
    (h : RunsTo n [.leave w.addr] { p with
      lineClaim := none, window := some (lineWindow p t src w.region w.extent (w.lineNo + 1) 0) } p') :
    RunsTo (n + 2) [.lineDone t] p p' := by
  have hcw : isCatchUpWindow t w = true := by simp [isCatchUpWindow, hj, hp]
  have hl : w.lineNo + 1 < Config.linesPerExtent := hk
  have hlv : ((p.region w.region).state == .live) = true := by simp [hlive]
  have hst := startLine_sameRegion (job := .catchUp t) (p := { p with lineClaim := none }) (k := w.lineNo + 1) hw (by omega)
  have hrun : runTask (.lineDone t) p = ({ p with
      lineClaim := none
      window := some (lineBegun (.catchUp t) p w.region w.extent (w.lineNo + 1)) }, [.chooseSource t, .leave w.addr]) := by
    have hn : nextCatchUpLine t w { p with lineClaim := none } =
        ((startLine (.catchUp t) w.region w.extent (w.lineNo + 1) { p with lineClaim := none }).1,
          (startLine (.catchUp t) w.region w.extent (w.lineNo + 1) { p with lineClaim := none }).2 ++ [.chooseSource t]) := by
      rw [nextCatchUpLine, if_pos hl]
      exact if_pos hlv
    have hr : releaseLineClaim p = ({ p with lineClaim := none }, [.leave w.addr]) := by rw [releaseLineClaim, hc]
    show taskLineDone t p = _
    rw [taskLineDone, hw]
    dsimp only
    rw [if_pos hcw, hr]
    dsimp only
    rw [hn, hst]
    rfl
  have hchoose := taskChooseSource_begun (t := t) (src := src) (r := w.region) (e := w.extent) (k := w.lineNo + 1)
    (p := { p with lineClaim := none, window := some (lineBegun (.catchUp t) p w.region w.extent (w.lineNo + 1)) }) rfl hsrc
  exact .step rfl hrun (.step rfl hchoose h)

theorem portsOf_onePort (q : Port) : portsOf (onePort q) = [q] := by revert q; decide

/-- The wait for a slot at one port that has a free one. -/
theorem slotsAwaited_free {e : Entry} {q : Port} {p : Part} (h : hasFreeSlot (p.port q) = true) :
    slotsAwaited e (onePort q) p = updateEntry e.tag (fun x => { x with
      state := .waitingSlot, target := onePort q, tried := if e.kind = .read then x.tried ||| onePort q else x.tried }) p := by
  rw [slotsAwaited, portsOf_onePort]
  exact congrArg Prod.fst (taskGiveBack_free (p := updateEntry e.tag _ p) h)

/-- The waiting entry of the line that was claimed: a MIRROR read that finds a copy with a free slot. -/
theorem runsTo_leave_read {p p' : Part} {e : Entry} {next : Port} (hd : tagsDistinct p) (hk : e.kind = .read)
    (hm : (p.region e.region).mode = .mirror) (he : p.table.find? (fun x => x.line == e.line) = some e)
    (hs : e.state = .waitingLine) (hc : p.lineClaim ≠ some e.line) (hch : chooseRead p e = some (next, p'))
    (hfree : hasFreeSlot (p.port next) = true) :
    RunsTo 16 [.leave e.line] p (updateEntry e.tag (fun x => { x with
      state := .waitingSlot, target := onePort next, tried := addPort x.tried next }) p') := by
  have hmem := List.mem_of_find?_eq_some he
  have hfirst : earliest p e := congrArg (Option.map (fun x : Entry => x.tag)) he
  have hasd := chooseRead_aside hch
  have hrun := works_leave_waits (ownsTag_of_distinct hd hmem) hmem ((mayLeave_iff _ _).mpr ⟨hs, hfirst, hc⟩) hasd.table
    (targets := onePort next) (by simp [chooseFirst, isMirrorEntry, hm, hk, hch])
  rw [slotsAwaited_free (by rw [hasd.port]; exact hfree)] at hrun
  simp only [hk, if_true] at hrun
  exact ⟨_, by have := length_portsOf (onePort next); omega, hrun⟩

/-- Settles O27: a notice by the phase it finds; the release at a line's end, after which the line's entry has its turn. -/
theorem lineClaimAndNotices : Obligations.LineClaimAndNotices := by
  refine ⟨fun line full p h => taskNotice_noWindow line full h, fun line full w p raised hw hr => ⟨taskNotice_elsewhere full hw,
    fun ha hp hj => ?_, fun t ha hp hj hc => ?_⟩, ?_⟩
  · subst ha hr
    rw [taskNotice_compare full hw hp hj, overtaken_eq]
    rfl
  · subst ha hr
    refine ⟨fun hd hf => ?_, fun hd hf => ?_, fun hd hf => ?_, fun hd hf => ?_⟩
    · rw [taskNotice_awaited hw hp hj hc full hd, if_pos hf]
      rfl
    · rw [taskNotice_awaited hw hp hj hc full hd, if_neg (by simp [hf]), overtaken_eq]
      rfl
    · rw [taskNotice_held hw hp hj hc full hd, if_pos hf]
      exact ⟨_, rfl, dropClaim_none t _, withdrawClaimAt_passOver hw, rfl, withdrawClaimAt_lineClaim t p⟩
    · rw [taskNotice_held hw hp hj hc full hd, if_neg (by simp [hf]), overtaken_eq]
      exact ⟨_, rfl, dropClaim_none t _, withdrawClaimAt_passOver (p := { p with lineClaim := _ }) hw, rfl,
        withdrawClaimAt_lineClaim t _⟩
  · intro t src next h rest w d e p' s hs ht ho hres hw hj hp hk hlive hsrc hclaim hfirst hwait hread hmir hd hch hfree
    have hl : e.line = w.addr := by simpa using List.find?_some hfirst
    have htake : takeCopyOutcome .targetWrite t h.result { s.part with handed := rest } =
        ({ s.part with handed := rest }, [.lineDone t]) := by
      have hcl : (w.phase == .closing) = false := by simpa using hp
      simp [hres, takeCopyOutcome, copyOk, hw, hcl, hj]
    have hread := runsTo_leave_read (p := { s.part with
        handed := rest, lineClaim := none, window := some (lineWindow s.part t src w.region w.extent (w.lineNo + 1) 0) })
      hd hread hmir (by rw [hl]; exact hfirst) hwait (by simp) (chooseRead_of rest none _ hch) hfree
    rw [hl] at hread
    have hx := exec_copyOutcome hs ht ho
    rw [htake, settle_of_runsTo (runsTo_lineDone (p := { s.part with handed := rest }) hw hj hp hk hlive hsrc hclaim hread) (by omega)]
      at hx
    exact hx

end Sys2Proof.Machine
end

section
/-! SUPPORT. DETACH with two waiting jobs for one port: the end of the first takes the second with it (R120). -/

namespace Sys2Proof.Machine

/-- The window of a catch-up job for port 0. -/
def twinWindow : Window where
  job := .catchUp 0
  region := 0
  extent := 0
  lineNo := 0
  addr := 0
  source := 0#4
  phase := .claiming
  overtake := 0
  cancelled := false
  reread := false
  data := []
  claims := []

/-- The waiting jobs: two catch-up jobs for port 1. -/
def twinWaiting : List Job := [{ kind := .catchUp 1, started := false }, { kind := .catchUp 1, started := false }]

/-- The part after power-on, with a running catch-up job for port 0 and the two waiting ones behind it. -/
def twinJobs : State where
  part := { State.reset.part with jobs := { kind := .catchUp 0, started := true } :: twinWaiting, window := some twinWindow }
  pending := State.reset.pending

theorem next_post (b : EventBody) (p : Part) : (post b p).events.next = p.events.next + 1#16 := by
  show (postTo p.events b).next = _
  unfold postTo
  split <;> rfl

theorem takeCompletion_idle {q : Port} {p : Part} (h : ∀ r, mstate p r q ≠ some .rejoining) : takeCompletion q p = p := by
  have key : ∀ l : List RegionIx, l.foldl (completeAt q) p = p := fun l => by
    induction l with
    | nil => rfl
    | cons r rs ih => rwa [List.foldl_cons, completeAt, if_neg (by simpa using h r)]
  exact key allRegions

/-- A job that finds nothing to copy starts, and is done (R119, R130). -/
theorem catchUpsStarted_done {q : Port} {p : Part} (qs : List Port) (hl : p.divList q = [])
    (h : ∀ r, mstate p r q ≠ some .rejoining) : catchUpsStarted (q :: qs) p =
      catchUpsStarted qs (post (copyDoneEvent q) (post (copyStartedEvent q) p)) := by
  have hs : selectRun (post (copyStartedEvent q) p) q = none := by
    show (p.divList q).find? _ = none
    rw [hl]
    rfl
  rw [catchUpsStarted, hs, takeCompletion_idle (p := post (copyStartedEvent q) p) h]

/-- Two jobs that find nothing to copy post four records. -/
theorem next_catchUpsStarted_twins {q : Port} {p : Part} (hl : p.divList q = []) (h : ∀ r, mstate p r q ≠ some .rejoining) :
    (catchUpsStarted [q, q] p).events.next = p.events.next + 4#16 := by
  rw [catchUpsStarted_done [q] hl h, catchUpsStarted_done (p := post _ (post _ p)) [] hl h, catchUpsStarted]
  simp only [next_post, BitVec.add_assoc]
  rfl

theorem twinJobs_mstate (r : RegionIx) (q : Port) : mstate twinJobs.part r q = none := by
  revert r q
  decide

/-- The event of the one job that starts: the job for the same port behind it leaves with it. -/
theorem twinJobs_detached : (cmdDetach 0#8 0#8 twinJobs.part).1.events.next = 2#16 := by decide +kernel

/-- Refutes O45 at `twinJobs`: of two waiting catch-up jobs for one port the first finds nothing to copy and takes the second
with it when it leaves, so the DETACH that ends the running job posts two records. `catchUpsStarted` posts four; after a
retirement, which would withdraw both jobs, REGION_RETIRED is the only one. -/
theorem not_detachAndRejoin : ¬ Obligations.DetachAndRejoin := by
  unfold Obligations.DetachAndRejoin
  intro h
  have htakes : takesCommand twinJobs 0#8 := ⟨rfl, by decide, by decide⟩
  obtain ⟨-, h⟩ := h 0#8 0#8 0#8 twinJobs htakes
  obtain ⟨-, h, -⟩ := h 0 rfl rfl
  obtain ⟨p', hrep, -, -, -, -, hlast⟩ := h fun r hr => absurd hr (by rw [twinJobs_mstate]; simp)
  obtain ⟨p1, p2, hm, hp1, hp2, hp'⟩ := hlast { kind := .catchUp 0, started := true } twinWindow [1, 1] rfl rfl rfl
    (by decide) (by decide) (by decide)
  have hnext : p'.events.next = 2#16 := by
    have hx : leavesPart (.detach 0#8 0#8 0#8) twinJobs _ := onFrame_runs 0#8 0x30#8 (cmdDetach 0#8 0#8) twinJobs htakes
    have hev := twinJobs_detached
    generalize cmdDetach 0#8 0#8 twinJobs.part = outcome at hx hev
    obtain ⟨hpart, -⟩ := State.mk.inj (Host.Outcome.next.inj (hrep.symm.trans hx))
    exact (congrArg (fun p : Part => p.events.next) hpart).trans hev
  have hr1 : ∀ r, mstate p1 r 1 ≠ some .rejoining := fun r => by simp [hm, twinJobs_mstate]
  have hj : p1.jobs = twinWaiting := by rw [hp1]; rfl
  have hd : p1.divList 1 = [] := by
    rw [hp1]
    exact (by decide : (withdrawClaims twinJobs.part).divList 1 = [])
  have hn : p1.events.next = 0#16 := by
    rw [hp1]
    exact (by decide : (withdrawClaims twinJobs.part).events.next = 0#16)
  rw [hp', hp2, drainChecked] at hnext
  split at hnext
  · have hnone : (p1.retired twinWindow.region).jobs = [] := by
      simp [Part.retired, hj, twinWaiting, hr1]
    rw [hnone] at hnext
    have : (postTo p1.events { kind := .regionRetired, region := some twinWindow.region }).next = 2#16 := hnext
    rw [show (postTo p1.events _).next = _ from next_post _ p1, hn] at this
    exact absurd this (by decide)
  · rw [hj] at hnext
    have : (catchUpsStarted [1, 1] { p1 with jobs := [] }).events.next = 2#16 := hnext
    rw [next_catchUpsStarted_twins (p := { p1 with jobs := [] }) hd hr1] at this
    exact absurd (this.symm.trans (congrArg (· + 4#16) hn)) (by decide)

end Sys2Proof.Machine
end

section
/-! SUPPORT. Every work of an event leaves the ranges and windows of the regions in use, and puts no region into use. -/

namespace Sys2Proof.Machine

/-! ## Footprints -/

/-- What a region occupies: its base and size upstream, and the port and base of each member downstream. -/
def Region.footprint (x : Region) : Nat × Nat × List (Port × Nat) := (x.base, x.size, x.members.map (fun m => (m.port, m.base)))

theorem footprint_of_outline {x y : Region} (h : x.outline = y.outline) : x.footprint = y.footprint := by
  have hb : x.base = y.base := (congrArg Region.base h :)
  have hs : x.size = y.size := (congrArg Region.size h :)
  have hm := congrArg (fun z : Region => z.members.map (fun m => (m.port, m.base))) h
  simp only [Region.outline, List.map_map] at hm
  exact Prod.ext hb (Prod.ext hs hm)

/-- From `p` to `p'` no region comes into use, and those that stay in use occupy what they did. -/
def Narrows (p p' : Part) : Prop :=
  ∀ r, inUse (p'.region r) = true → inUse (p.region r) = true ∧ (p'.region r).footprint = (p.region r).footprint

namespace Narrows

theorem refl (p : Part) : Narrows p p := fun _ h => ⟨h, rfl⟩

theorem trans {a b c : Part} (h : Narrows a b) (h' : Narrows b c) : Narrows a c := fun r hr => by
  obtain ⟨hb, hf⟩ := h' r hr
  obtain ⟨ha, hg⟩ := h r hb
  exact ⟨ha, hf.trans hg⟩

theorem foldl {α : Type} {f : Part → α → Part} (h : ∀ p x, Narrows p (f p x)) :
    ∀ (l : List α) (p : Part), Narrows p (l.foldl f p)
  | [], p => refl p
  | x :: xs, p => (h p x).trans (foldl h xs (f p x))

/-- The regions are the same. -/
theorem of_regions {p p' : Part} (h : p'.regions = p.regions) : Narrows p p' := fun r hr => by
  have : p'.region r = p.region r := by simp [Part.region, h]
  rw [this] at hr ⊢
  exact ⟨hr, rfl⟩

/-- One region is replaced by one that is not in use, or that was in use and occupies what it did. -/
theorem setRegion {p : Part} {r : RegionIx} {x : Region}
    (h : inUse x = true → inUse (p.region r) = true ∧ x.footprint = (p.region r).footprint) :
    Narrows p (p.setRegion r x) := fun r' hr => by
  rw [region_setRegion] at hr ⊢
  split
  · next e => subst e; exact h (by simpa using hr)
  · next e => exact ⟨by simpa [e] using hr, rfl⟩

end Narrows

theorem Aside.narrows {p p' : Part} (h : Aside p p') : Narrows p p' := fun r hr =>
  ⟨h.inUse r ▸ hr, footprint_of_outline (h.outline r)⟩

/-! ## Entries and slots -/

theorem setPort_narrows (p : Part) (q : Port) (x : PortState) : Narrows p (p.setPort q x) := .of_regions rfl

theorem setTable_narrows (p : Part) (t : List Entry) : Narrows p (p.setTable t) := .of_regions rfl

theorem updateEntry_narrows (tag : Tag) (f : Entry → Entry) (p : Part) : Narrows p (updateEntry tag f p) := .of_regions rfl

theorem lowerInFlight_narrows (r : RegionIx) (p : Part) : Narrows p (lowerInFlight r p) := .setRegion fun h => ⟨h, rfl⟩

theorem raiseInFlight_narrows (r : RegionIx) (p : Part) : Narrows p (raiseInFlight r p) := .setRegion fun h => ⟨h, rfl⟩

theorem placeTxn_narrows (q : Port) (k : SlotIx) (o : Origin) (op : Op) (a : DownAddr) (p : Part) :
    Narrows p (placeTxn q k o op a p) := .of_regions (by rw [placeTxn_eq]; rfl)

theorem releaseHeld_narrows (tag : Tag) (p : Part) : Narrows p (releaseHeld tag p) :=
  .foldl (fun p q => by unfold releaseHeldAt; dsimp only; split <;> exact .of_regions rfl) _ p

theorem taskGiveBack_narrows (q : Port) (p : Part) : Narrows p (taskGiveBack q p).1 := by
  unfold taskGiveBack
  split
  · exact .refl p
  · split <;> exact .of_regions rfl

theorem withdrawClaimAt_narrows (q : Port) (p : Part) : Narrows p (withdrawClaimAt q p) :=
  .of_regions (withdrawClaimAt_stores q p).regions

theorem freeEntry_narrows (e : Entry) (p : Part) : Narrows p (freeEntry e p).1 :=
  (setTable_narrows p _).trans (lowerInFlight_narrows _ _)

theorem completeEntry_narrows (e : Entry) (st : RespStatus) (p : Part) : Narrows p (completeEntry e st p).1 :=
  (out_aside p _).narrows.trans (freeEntry_narrows _ _)

theorem finishEntry_narrows (e : Entry) (st : RespStatus) (p : Part) : Narrows p (finishEntry e st p).1 := by
  unfold finishEntry
  split
  · exact freeEntry_narrows _ _
  · exact completeEntry_narrows _ _ _

theorem finishWrite_narrows (tag : Tag) (p : Part) : Narrows p (finishWrite tag p).1 := by
  unfold finishWrite
  split
  · exact .refl p
  · split
    · exact finishEntry_narrows _ _ _
    · exact .refl p

theorem enterWaitingSlot_narrows (e : Entry) (t : PortSet) (p : Part) : Narrows p (enterWaitingSlot e t p).1 :=
  updateEntry_narrows _ _ p

/-! ## Target choices -/

theorem chooseDirect_narrows (e : Entry) (p : Part) : Narrows p (chooseDirect e p).1 := by
  unfold chooseDirect
  split
  · split
    · exact completeEntry_narrows _ _ _
    · exact enterWaitingSlot_narrows _ _ _
  · exact completeEntry_narrows _ _ _

theorem chooseFirst_narrows (e : Entry) (p : Part) : Narrows p (chooseFirst e p).1 := by
  unfold chooseFirst
  split
  · exact chooseDirect_narrows e p
  · split
    · split
      · next h => exact (chooseRead_aside h).narrows.trans (enterWaitingSlot_narrows _ _ _)
      · exact completeEntry_narrows _ _ _
    · exact .refl p

theorem taskLeave_narrows (line : UpAddr) (p : Part) : Narrows p (taskLeave line p).1 := by
  unfold taskLeave
  split
  · exact .refl p
  · exact chooseFirst_narrows _ p

theorem taskImmediateFailure_narrows (tag : Tag) (q : Port) (p : Part) : Narrows p (taskImmediateFailure tag q p).1 := by
  unfold taskImmediateFailure
  split
  · exact .refl p
  · dsimp only
    split
    · exact updateEntry_narrows _ _ p
    · exact .refl p

theorem taskFixTargets_narrows (tag : Tag) (p : Part) : Narrows p (taskFixTargets tag p).1 := by
  unfold taskFixTargets
  split
  · exact .refl p
  · dsimp only
    split
    · exact .refl p
    · split
      · exact completeEntry_narrows _ _ _
      · exact enterWaitingSlot_narrows _ _ _

theorem placeMirror_narrows (e : Entry) (p : Part) : Narrows p (placeMirror e p).1 := by
  have h1 : ∀ p q, Narrows p (placeAt e p q) := fun p q => by
    unfold placeAt
    split
    · exact placeTxn_narrows _ _ _ _ _ p
    · exact .refl p
  exact (Narrows.foldl h1 _ p).trans ((updateEntry_narrows _ _ _).trans
    ((Narrows.foldl (fun p q => (placementReport_aside e p q).narrows) _ _).trans
      ((Narrows.foldl (fun p q => (insertIfOut_aside e p q).narrows) _ _).trans (updateEntry_narrows _ _ _))))

theorem placeIfComplete_narrows (tag : Tag) (p : Part) : Narrows p (placeIfComplete tag p).1 := by
  unfold placeIfComplete
  split
  · exact .refl p
  · split
    · exact placeMirror_narrows _ p
    · exact .refl p

/-! ## Link loss and outcomes -/

theorem endWait_narrows (e : Entry) (q : Port) (p : Part) : Narrows p (endWait e q p).1 := by
  unfold endWait
  split
  · exact (updateEntry_narrows _ _ p).trans (completeEntry_narrows _ _ _)
  · split <;> exact updateEntry_narrows _ _ p

theorem taskServeLost_narrows (p : Part) : Narrows p (taskServeLost p).1 := by
  unfold taskServeLost
  split
  · exact .refl p
  · split
    · exact endWait_narrows _ _ p
    · exact .refl p

theorem taskAfterShrink_narrows (tag : Tag) (p : Part) : Narrows p (taskAfterShrink tag p).1 := by
  unfold taskAfterShrink
  split
  · exact .refl p
  · split
    · exact .refl p
    · split
      · exact completeEntry_narrows _ _ p
      · exact placeIfComplete_narrows _ p

theorem taskRedirect_narrows (tag : Tag) (q : Port) (why : Reason) (p : Part) : Narrows p (taskRedirect tag q why p).1 := by
  unfold taskRedirect
  split
  · exact .refl p
  · split
    · exact freeEntry_narrows _ p
    · split
      · exact .refl p
      · split
        · next h => exact (chooseRead_aside h).narrows.trans (.of_regions rfl)
        · exact completeEntry_narrows _ _ p

theorem taskAfterWriteFailure_narrows (tag : Tag) (q : Port) (p : Part) : Narrows p (taskAfterWriteFailure tag q p).1 := by
  unfold taskAfterWriteFailure
  split
  · exact .refl p
  · exact (insertIfOut_aside _ p q).narrows.trans (finishWrite_narrows _ _)

theorem hostOk_narrows (e : Entry) (q : Port) (data : Option LineData) (p : Part) : Narrows p (hostOk e q data p).1 := by
  unfold hostOk
  dsimp only
  generalize ({ e with ack := addPort e.ack q, readData := if e.kind == .read then data else e.readData } : Entry) = e'
  split
  · exact (updateEntry_narrows _ _ p).trans (finishWrite_narrows _ _)
  · exact (updateEntry_narrows _ _ p).trans (finishEntry_narrows _ _ _)

theorem hostFailed_narrows (e : Entry) (q : Port) (why : Reason) (p : Part) : Narrows p (hostFailed e q why p).1 := by
  unfold hostFailed
  dsimp only
  split
  · exact (updateEntry_narrows _ _ p).trans (finishEntry_narrows _ _ _)
  · exact updateEntry_narrows _ _ p

theorem takeHostOutcome_narrows (tag : Tag) (q : Port) (result : TxnResult) (p : Part) :
    Narrows p (takeHostOutcome tag q result p).1 := by
  unfold takeHostOutcome
  split
  · exact .refl p
  · split
    · split
      · exact hostOk_narrows _ _ _ p
      all_goals exact hostFailed_narrows _ _ _ p
    · exact .refl p

/-! ## Copy engine -/

theorem endRunning_narrows (rest : List Job) (ev : Option EventBody) (p : Part) : Narrows p (endRunning rest ev p).1 :=
  .of_regions (endRunning_stores rest ev p).regions

theorem leaveRunning_narrows (rest : List Job) (ev : Option EventBody) (p : Part) : Narrows p (leaveRunning rest ev p).1 :=
  endRunning_narrows rest ev p

theorem leaveCatchUp_narrows (q : Port) (ev : Option EventBody) (p : Part) : Narrows p (leaveCatchUp q ev p).1 := by
  unfold leaveCatchUp
  split
  · exact .refl p
  · split
    · exact leaveRunning_narrows _ _ _
    · exact (postEnd_aside ev p).narrows.trans (.of_regions rfl)

theorem taskReport_narrows (r : RegionIx) (q : Port) (why : Reason) (line : Option UpAddr) (p : Part) :
    Narrows p (taskReport r q why line p).1 := by
  unfold taskReport
  split
  · exact (takeReport_aside _ _ _ _ p).narrows.trans (leaveCatchUp_narrows _ _ _)
  · exact (takeReport_aside _ _ _ _ p).narrows

theorem linkLossWorks_narrows (q : Port) (why : Reason) (p : Part) : Narrows p (linkLossWorks q why p).1 := by
  have h := (takeLinkLoss_aside q why p).narrows
  unfold linkLossWorks
  split
  · exact h.trans (leaveCatchUp_narrows _ _ _)
  · dsimp only
    exact h

theorem taskHeadStart_narrows (p : Part) : Narrows p (taskHeadStart p).1 := by
  unfold taskHeadStart
  split
  · split
    · exact .refl p
    · dsimp only
      split <;> exact .of_regions rfl
  all_goals exact .refl p

theorem abandonSource_narrows (q : Port) (p : Part) : Narrows p (abandonSource q p).1 :=
  (takeOutRejoining_aside _ _ p).narrows.trans (leaveRunning_narrows _ _ _)

theorem taskChooseSource_narrows (q : Port) (p : Part) : Narrows p (taskChooseSource q p).1 := by
  unfold taskChooseSource
  split
  · exact .refl p
  · split
    · exact abandonSource_narrows q p
    · exact .of_regions rfl

theorem taskSelection_narrows (q : Port) (p : Part) : Narrows p (taskSelection q p).1 := by
  unfold taskSelection
  split
  · exact (startLine_aside _ _ _ _ p).narrows
  · exact (takeCompletion_aside q p).narrows.trans (leaveRunning_narrows _ _ _)

theorem taskCompareStart_narrows (p : Part) : Narrows p (taskCompareStart p).1 := by
  unfold taskCompareStart
  split
  · exact .refl p
  · dsimp only
    split
    · exact leaveRunning_narrows _ _ p
    · exact .of_regions rfl

theorem recordLine_narrows (d : PortSet) (w : Window) (p : Part) : Narrows p (recordLine d w p).1 := by
  unfold recordLine
  split
  · exact .refl p
  · dsimp only
    have h := fun r a c => (postMismatch_aside d r a p).narrows.trans (.of_regions (p' := setRunningCompare c _) rfl)
    split
    · exact h _ _ _
    · exact (h _ _ _).trans (leaveRunning_narrows _ _ _)

theorem compareLine_narrows (w : Window) (p : Part) : Narrows p (compareLine w p).1 := by
  unfold compareLine
  dsimp only
  split
  · exact .refl p
  · exact (releaseLineClaim_aside p).narrows.trans (recordLine_narrows _ _ _)

theorem compareProgress_narrows (p : Part) : Narrows p (compareProgress p).1 := by
  unfold compareProgress
  split
  · exact .refl p
  · split
    · split
      · exact .refl p
      · exact compareLine_narrows _ p
    · exact .refl p

theorem taskAfterSourceFailure_narrows (t s : Port) (p : Part) : Narrows p (taskAfterSourceFailure t s p).1 := by
  unfold taskAfterSourceFailure
  split
  · exact .refl p
  · split
    · split
      · exact .refl p
      · split
        · exact abandonSource_narrows _ p
        · exact .of_regions rfl
    · exact .refl p

theorem copyOk_narrows (part : CopyPart) (q : Port) (d : LineData) (p : Part) : Narrows p (copyOk part q d p).1 := by
  unfold copyOk
  split
  · exact .refl p
  · split
    · exact .refl p
    · split
      · exact (sourceData_aside _ _ _ _ p).narrows
      · exact .refl p
      · exact (setWindow_aside p _).narrows.trans (compareProgress_narrows _)
      all_goals exact .refl p

theorem takeCopyOutcome_narrows (part : CopyPart) (q : Port) (result : TxnResult) (p : Part) :
    Narrows p (takeCopyOutcome part q result p).1 := by
  unfold takeCopyOutcome
  split
  · exact copyOk_narrows _ _ _ p
  all_goals exact .refl p

theorem taskClaimLost_narrows (q : Port) (p : Part) : Narrows p (taskClaimLost q p).1 := by
  unfold taskClaimLost
  split
  · exact .refl p
  · exact withdrawClaimAt_narrows q p

theorem noticeReading_narrows (t : Port) (full : Bool) (w : Window) (p : Part) : Narrows p (noticeReading t full w p).1 := by
  unfold noticeReading
  split
  · exact .refl p
  · split
    · split
      · exact .of_regions rfl
      · exact (overtaken_aside w p).narrows.trans (.of_regions rfl)
    · split
      · exact (withdrawClaimAt_narrows t p).trans (.of_regions rfl)
      · exact (overtaken_aside w p).narrows.trans ((withdrawClaimAt_narrows t _).trans (.of_regions rfl))

theorem taskNotice_narrows (line : UpAddr) (full : Bool) (p : Part) : Narrows p (taskNotice line full p).1 := by
  unfold taskNotice
  split
  · exact .refl p
  · split
    · split
      · exact noticeReading_narrows _ _ _ p
      · exact (overtaken_aside _ p).narrows.trans (.of_regions rfl)
    · exact .refl p

theorem taskDrainCheck_narrows (r : RegionIx) (p : Part) : Narrows p (taskDrainCheck r p).1 := by
  by_cases h : drained p r = true
  · rw [taskDrainCheck_drained r p h]
    exact .trans (.setRegion (r := r) (x := Region.cleared) (fun hu => by simp [inUse, Region.cleared] at hu)) (.of_regions rfl)
  · rw [taskDrainCheck_kept r p (by simpa using h)]
    exact .refl p

/-! ## Events -/

/-- No work of an event widens what the regions in use occupy. -/
theorem runTask_narrows (t : Task) (p : Part) : Narrows p (runTask t p).1 := by
  cases t with
  | leave line => exact taskLeave_narrows line p
  | immediateFailure tag q => exact taskImmediateFailure_narrows tag q p
  | fixTargets tag => exact taskFixTargets_narrows tag p
  | giveBack q => exact taskGiveBack_narrows q p
  | serveLost => exact taskServeLost_narrows p
  | redirect tag q why => exact taskRedirect_narrows tag q why p
  | afterShrink tag => exact taskAfterShrink_narrows tag p
  | afterWriteFailure tag q => exact taskAfterWriteFailure_narrows tag q p
  | report r q why line => exact taskReport_narrows r q why line p
  | drainCheck r => exact taskDrainCheck_narrows r p
  | headStart => exact taskHeadStart_narrows p
  | selection q => exact taskSelection_narrows q p
  | chooseSource q => exact taskChooseSource_narrows q p
  | lineDone q => exact (taskLineDone_aside q p).narrows
  | afterSourceFailure t s => exact taskAfterSourceFailure_narrows t s p
  | compareStart => exact taskCompareStart_narrows p
  | afterCompareFailure => exact compareProgress_narrows p
  | closeCheck => exact (taskCloseCheck_aside p).narrows
  | claimLost q => exact taskClaimLost_narrows q p
  | copyFailed part q why => exact (taskCopyFailed_aside part q why p).narrows
  | notice line full => exact taskNotice_narrows line full p
  | posting b => exact .of_regions rfl

theorem settle_narrows (a : Act) : Narrows a.1 (settle a) :=
  runAgenda_keeps Narrows.refl (fun _ _ _ => Narrows.trans) runTask_narrows _ _ _

theorem Narrows.settle {p : Part} {a : Act} (h : Narrows p a.1) : Narrows p (settle a) := h.trans (settle_narrows a)

end Sys2Proof.Machine
end

section
/-! SUPPORT. The five checks of a commit as statements about the staged entry and the regions in use (R30, R31). -/

namespace Sys2Proof.Machine

theorem rangesOverlap_false {a m b n : Nat} : rangesOverlap a m b n = false ↔ rangesApart a m b n := by
  simp only [rangesOverlap, Bool.and_eq_false_iff, decide_eq_false_iff_not, rangesApart]
  omega

theorem distinctPorts_iff (l : List Member) : distinctPorts l = true ↔ (l.map (·.port)).Nodup := by
  induction l with
  | nil => simp [distinctPorts]
  | cons m ms ih => simp [distinctPorts, ih]

theorem preferredIsMember_iff (x : Region) : preferredIsMember x = true ↔
    (x.mode = .mirror → x.policy = .preferred → ∃ m ∈ x.members, x.preferred = some m.port) := by
  unfold preferredIsMember
  cases hp : x.preferred with
  | none => cases x.mode <;> cases x.policy <;> simp
  | some q => cases x.mode <;> cases x.policy <;> simp [@eq_comm _ q]

theorem countSuitsMode_iff (x : Region) : countSuitsMode x = true ↔
    (x.mode = .direct → x.members.length = 1) ∧ (x.mode = .mirror → x.members.length = 2 ∨ x.members.length = 3) := by
  cases h : x.mode <;> simp [countSuitsMode, h]

/-- Check 2: the staged fields agree (R30). -/
theorem commitFits_iff (x : Region) : commitFits x = true ↔ commitFieldsFit x := by
  simp only [commitFits, Bool.and_eq_true, decide_eq_true_eq, List.all_eq_true, countSuitsMode_iff, distinctPorts_iff,
    preferredIsMember_iff, and_assoc]
  rfl

/-- Check 3: no upstream overlap (R31). -/
theorem upstreamOverlap_false (p : Part) (x : Region) : upstreamOverlap p x = false ↔ upstreamClear p x := by
  simp only [upstreamOverlap, List.any_eq_false, mem_allRegions, forall_const, Bool.and_eq_true, not_and,
    Bool.not_eq_true, rangesOverlap_false, upstreamClear]

/-- Check 4: no downstream overlap on a port (R31). -/
theorem downstreamOverlap_false (p : Part) (x : Region) : downstreamOverlap p x = false ↔ downstreamClear p x := by
  simp only [downstreamOverlap, windowsOverlap, List.any_eq_false, List.any_eq_true, mem_allRegions, forall_const,
    Bool.and_eq_true, beq_iff_eq, not_and, not_exists, Bool.not_eq_true, rangesOverlap_false, downstreamClear]

/-- Check 5: with COPY the primary is a member's port (R30). -/
theorem primaryRefused_iff (x : Region) (init : Init) (primary : Byte) :
    (init == .copy && !primaryIsMember x primary) = true ↔ ¬ primaryFits x init primary := by
  simp [primaryIsMember, primaryFits]

/-- The five checks in order, by what each asks (R30). -/
theorem commitRefusal_eq (p : Part) (r : RegionIx) (init : Init) (primary : Byte) [Decidable (commitFieldsFit (p.region r))]
    [Decidable (upstreamClear p (p.region r))] [Decidable (downstreamClear p (p.region r))]
    [Decidable (primaryFits (p.region r) init primary)] :
    commitRefusal p r init primary =
      if (p.region r).state ≠ .staged then some .badState
      else if ¬ commitFieldsFit (p.region r) then some .badValue
      else if ¬ upstreamClear p (p.region r) then some .overlap
      else if ¬ downstreamClear p (p.region r) then some .overlap
      else if ¬ primaryFits (p.region r) init primary then some .badValue
      else none := by
  have h1 : ((p.region r).state != .staged) = true ↔ (p.region r).state ≠ .staged := by simp
  have h2 : (!commitFits (p.region r)) = true ↔ ¬ commitFieldsFit (p.region r) := by simp [← commitFits_iff]
  have h3 : upstreamOverlap p (p.region r) = true ↔ ¬ upstreamClear p (p.region r) := by simp [← upstreamOverlap_false]
  have h4 : downstreamOverlap p (p.region r) = true ↔ ¬ downstreamClear p (p.region r) := by
    simp [← downstreamOverlap_false]
  simp only [commitRefusal, h1, h2, h3, h4, primaryRefused_iff]

/-- A commit passes when its five checks do (R30). -/
theorem commitRefusal_none (p : Part) (r : RegionIx) (init : Init) (primary : Byte) :
    commitRefusal p r init primary = none ↔ commitPasses p (p.region r) init primary := by
  classical
  have hite : ∀ (c : Prop) [Decidable c] (st : Status) (o : Option Status),
      (if c then some st else o) = none ↔ ¬ c ∧ o = none := fun c _ st o => by split <;> simp_all
  simp only [commitRefusal_eq, hite, not_not, and_true, commitPasses]

end Sys2Proof.Machine
end

section
/-! SUPPORT. Every command keeps the regions in use apart, and so does a step (R31). -/

namespace Sys2Proof.Machine

/-! ## Apartness speaks of footprints -/

theorem windowsApart_iff (x y : Region) : windowsApart x y = true ↔
    ∀ m ∈ x.members, ∀ n ∈ y.members, m.port = n.port → rangesApart m.base x.size n.base y.size := by
  simp [windowsApart, ← imp_iff_not_or]

theorem windowsApart_footprint (x y : Region) : windowsApart x y =
    x.footprint.2.2.all (fun m => y.footprint.2.2.all (fun n =>
      m.1 != n.1 || decide (rangesApart m.2 x.footprint.2.1 n.2 y.footprint.2.1))) := by
  simp only [windowsApart, Region.footprint, List.all_map]
  rfl

theorem memberPorts_footprint (x : Region) : x.members.map (·.port) = x.footprint.2.2.map (·.1) := by
  simp [Region.footprint]

theorem base_of_footprint {x y : Region} (h : x.footprint = y.footprint) : x.base = y.base := (congrArg Prod.fst h :)

theorem size_of_footprint {x y : Region} (h : x.footprint = y.footprint) : x.size = y.size :=
  (congrArg (fun f => f.2.1) h :)

/-- Two regions have no granule in common, upstream or downstream on a port (R31). -/
def Region.apartFrom (x y : Region) : Prop := rangesApart x.base x.size y.base y.size ∧ windowsApart x y = true

theorem Region.apartFrom_symm {x y : Region} (h : x.apartFrom y) : y.apartFrom x := by
  obtain ⟨hup, hdown⟩ := h
  rw [windowsApart_iff] at hdown
  exact ⟨hup.symm, (windowsApart_iff y x).mpr fun m hm n hn e => (hdown n hn m hm e.symm).symm⟩

theorem apartFrom_congr {x y x' y' : Region} (h : x'.footprint = x.footprint) (h' : y'.footprint = y.footprint) :
    x'.apartFrom y' ↔ x.apartFrom y := by
  simp only [Region.apartFrom, base_of_footprint h, size_of_footprint h, base_of_footprint h', size_of_footprint h',
    windowsApart_footprint, h, h']

theorem regionsApart_iff (p : Part) : regionsApart p ↔
    (∀ r, inUse (p.region r) = true → ((p.region r).members.map (·.port)).Nodup) ∧
    ∀ r r', r ≠ r' → inUse (p.region r) = true → inUse (p.region r') = true → (p.region r).apartFrom (p.region r') := by
  refine ⟨fun ⟨hports, hup, hdown⟩ => ⟨hports, fun r r' hne hr hr' => ⟨hup r r' hne hr hr', hdown r r' hne hr hr'⟩⟩,
    fun ⟨hports, h⟩ => ⟨hports, fun r r' hne hr hr' => (h r r' hne hr hr').1, fun r r' hne hr hr' => (h r r' hne hr hr').2⟩⟩

theorem regionsApart_of_narrows {p p' : Part} (h : Narrows p p') (hp : regionsApart p) : regionsApart p' := by
  rw [regionsApart_iff] at hp ⊢
  obtain ⟨hports, hpair⟩ := hp
  refine ⟨fun r hr => ?_, fun r r' hne hr hr' => ?_⟩
  · obtain ⟨hu, hf⟩ := h r hr
    rw [memberPorts_footprint, hf, ← memberPorts_footprint]
    exact hports r hu
  · obtain ⟨hu, hf⟩ := h r hr
    obtain ⟨hu', hf'⟩ := h r' hr'
    exact (apartFrom_congr hf hf').mpr (hpair r r' hne hu hu')

/-- A region comes into use whose member ports are distinct and that overlaps no region in use (R31). -/
theorem regionsApart_setRegion {p : Part} {r : RegionIx} {x : Region} (hp : regionsApart p)
    (hports : (x.members.map (·.port)).Nodup) (hx : ∀ r', inUse (p.region r') = true → x.apartFrom (p.region r')) :
    regionsApart (p.setRegion r x) := by
  rw [regionsApart_iff] at hp ⊢
  obtain ⟨hports0, hpair⟩ := hp
  refine ⟨fun r1 h1 => ?_, fun r1 r2 hne h1 h2 => ?_⟩
  · rw [region_setRegion] at h1 ⊢
    split
    · exact hports
    · next e => exact hports0 r1 (by simpa [e] using h1)
  · by_cases e1 : r1 = r
    · have e2 : r2 ≠ r := fun e2 => hne (e1.trans e2.symm)
      subst e1
      rw [region_setRegion_ne _ _ _ _ e2] at h2 ⊢
      simpa using hx r2 h2
    · by_cases e2 : r2 = r
      · subst e2
        rw [region_setRegion_ne _ _ _ _ e1] at h1 ⊢
        simpa using Region.apartFrom_symm (hx r1 h1)
      · rw [region_setRegion_ne _ _ _ _ e1] at h1 ⊢
        rw [region_setRegion_ne _ _ _ _ e2] at h2 ⊢
        exact hpair r1 r2 hne h1 h2

/-! ## Links and grants -/

theorem dropLink_narrows (q : Port) (dest : Link) (why : Reason) (p : Part) : Narrows p (dropLink q dest why p) := .of_regions rfl

theorem loseLink_narrows (q : Port) (dest : Link) (why : Reason) (bs : List EventBody) (p : Part) :
    Narrows p (loseLink q dest why bs p) :=
  Narrows.settle ((dropLink_narrows q dest why p).trans (postAll_aside bs _).narrows)

theorem enterActive_narrows (q : Port) (p : Part) : Narrows p (enterActive q p) := .of_regions (by rw [enterActive_eq]; rfl)

theorem deviceReady_narrows (q : Port) (p : Part) : Narrows p (deviceReady q p) := by
  unfold deviceReady
  split
  · exact (enterActive_narrows q p).trans (post_aside _ _).narrows
  · exact enterActive_narrows q p
  all_goals exact .refl p

theorem trainingExpiry_narrows (q : Port) (p : Part) : Narrows p (trainingExpiry q p) := by
  unfold trainingExpiry
  split
  · exact (reachTime_aside _ p).narrows.trans (loseLink_narrows _ _ _ _ _)
  · exact .refl p

theorem silenceExpiry_narrows (q : Port) (p : Part) : Narrows p (silenceExpiry q p) := by
  unfold silenceExpiry
  dsimp only
  split <;> exact .of_regions rfl

theorem wakeExpiry_narrows (q : Port) (p : Part) : Narrows p (wakeExpiry q p) := by
  unfold wakeExpiry
  split
  · exact (reachTime_aside _ p).narrows.trans (loseLink_narrows _ _ _ _ _)
  · exact .refl p

theorem linkError_narrows (q : Port) (p : Part) : Narrows p (linkError q p) := by
  unfold linkError
  split
  · exact loseLink_narrows _ _ _ _ p
  · exact loseLink_narrows _ _ _ _ p
  · exact loseLink_narrows _ _ _ _ p
  all_goals exact .refl p

theorem responseExpiry_narrows (q : Port) (p : Part) : Narrows p (responseExpiry q p) := by
  unfold responseExpiry
  split
  · exact (reachTime_aside _ p).narrows.trans (loseLink_narrows _ _ _ _ _)
  · exact .refl p

theorem deviceResponse_narrows (q : Port) (k : SlotIx) (resp : DevResponse) (p : Part) :
    Narrows p (deviceResponse q k resp p) := by
  unfold deviceResponse
  dsimp only
  split
  · exact .refl p
  · split
    · exact .refl p
    · split
      · exact .of_regions rfl
      · exact loseLink_narrows _ _ _ _ p

theorem startWake_narrows (q : Port) (p : Part) : Narrows p (startWake q p) := by
  unfold startWake
  dsimp only
  split <;> exact .of_regions rfl

theorem grantDispatcher_narrows (q : Port) (k : SlotIx) (e : Entry) (p : Part) : Narrows p (grantDispatcher q k e p).1 := by
  have hh : Narrows p (holdSlot q k e.tag (copyClaimAt p q).isSome (startWake q p)) :=
    (startWake_narrows q p).trans (setPort_narrows _ _ _)
  unfold grantDispatcher
  dsimp only
  split
  · exact hh.trans (placeIfComplete_narrows _ _)
  · exact hh.trans ((placeTxn_narrows _ _ _ _ _ _).trans (updateEntry_narrows _ _ _))

theorem grantAct_narrows (q : Port) (k : SlotIx) (p : Part) : Narrows p (grantAct q k p).1 := by
  unfold grantAct
  split
  · exact .refl p
  · split
    · split
      · exact (startWake_narrows q p).trans ((setPort_narrows _ q _).trans
          ((placeTxn_narrows _ _ _ _ _ _).trans (setWindow_aside _ _).narrows))
      · exact .refl p
    · split
      · exact grantDispatcher_narrows _ _ _ p
      · exact .refl p

/-! ## Host channel and owners -/

theorem takeRequest_narrows (tag : Tag) (op : Op) (line : UpAddr) (p : Part) : Narrows p (takeRequest tag op line p) := by
  unfold takeRequest
  split
  · exact .refl p
  · split
    · exact .of_regions rfl
    · split
      · split
        · exact Narrows.settle ((setTable_narrows p _).trans (raiseInFlight_narrows _ _))
        · exact .of_regions rfl
      · exact .of_regions rfl

theorem assertHrst_narrows (p : Part) : Narrows p (assertHrst p) := by
  have hdrop : ∀ p e, Narrows p (dropWaiting p e) := fun p e =>
    (releaseHeld_narrows _ p).trans ((setTable_narrows _ _).trans (lowerInFlight_narrows _ _))
  unfold assertHrst
  split
  · exact .refl p
  · split
    · exact .of_regions rfl
    · refine .trans (.of_regions (p' := { p with hrst := true }) rfl) ?_
      exact Narrows.settle ((Narrows.foldl hdrop _ _).trans (setTable_narrows _ _))

theorem hostOutcome_narrows (q : Port) (p : Part) : Narrows p (hostOutcome q p) := by
  unfold hostOutcome
  split
  · split
    · exact Narrows.settle ((handed_aside p _).narrows.trans (takeHostOutcome_narrows _ _ _ _))
    · exact .refl p
  · exact .refl p

theorem copyOutcome_narrows (q : Port) (p : Part) : Narrows p (copyOutcome q p) := by
  unfold copyOutcome
  split
  · split
    · exact Narrows.settle ((handed_aside p _).narrows.trans (takeCopyOutcome_narrows _ _ _ _))
    · exact .refl p
  · exact .refl p

theorem linkLossClaim_narrows (q : Port) (p : Part) : Narrows p (linkLossClaim q p) := by
  unfold linkLossClaim
  split
  · exact Narrows.settle ((lossClaims_aside p _).narrows.trans (linkLossWorks_narrows _ _ _))
  · exact .refl p

/-! ## Management commands -/

/-- What is done to a part keeps its regions in use apart. -/
def KeepsApart (f : Part → Part) : Prop := ∀ p, regionsApart p → regionsApart (f p)

theorem KeepsApart.of_narrows {f : Part → Part} (h : ∀ p, Narrows p (f p)) : KeepsApart f := fun p =>
  regionsApart_of_narrows (h p)

/-- The command keeps the regions in use apart. -/
def Command.KeepsApart (run : Command) : Prop := ∀ p, regionsApart p → regionsApart (run p).1

theorem Command.KeepsApart.of_narrows {run : Command} (h : ∀ p, Narrows p (run p).1) : run.KeepsApart := fun p =>
  regionsApart_of_narrows (h p)

/-- A command that only answers. -/
theorem Command.KeepsApart.of_fst {run : Command} (h : ∀ p, (run p).1 = p) : run.KeepsApart := fun p hp => by rwa [h p]

theorem cmdRegionStage_narrows (x : StageRecord) (p : Part) : Narrows p (cmdRegionStage x p).1 := by
  unfold cmdRegionStage
  split
  · exact .refl p
  · split
    · exact .refl p
    · split
      · exact .refl p
      · split
        · next y hy =>
          refine .setRegion fun hu => ?_
          unfold stagedRegion at hy
          split at hy
          · split at hy
            · rw [← Option.some.inj hy] at hu; simp [inUse] at hu
            · simp at hy
          · simp at hy
        · exact .refl p

theorem footprint_committed (p : Part) (x : Region) (init : Init) (primary : Byte) :
    (committed p x init primary).footprint = x.footprint := by
  simp [committed, Region.footprint]

theorem commitRegion_apart {r : RegionIx} {init : Init} {primary : Byte} {p : Part} (hp : regionsApart p)
    (h : commitPasses p (p.region r) init primary) : regionsApart (commitRegion r init primary p) := by
  obtain ⟨-, ⟨-, -, -, -, hports, -⟩, hup, hdown, -⟩ := h
  have hmade : regionsApart (p.setRegion r (committed p (p.region r) init primary)) := by
    have hf := footprint_committed p (p.region r) init primary
    refine regionsApart_setRegion hp ?_ fun r' hu => ?_
    · rw [memberPorts_footprint, hf, ← memberPorts_footprint]; exact hports
    · exact (apartFrom_congr hf rfl).mpr ⟨hup r' hu, (windowsApart_iff _ _).mpr (hdown r' hu)⟩
  have hins := fun l => Aside.foldl (f := fun p q => insertRegion r q p) (fun p q => insertRun_aside q _ p) l
  have hreq := fun l => Aside.foldl (f := fun p q => requestCatchUp q p) (fun p q => requestCatchUp_aside q p) l
  exact regionsApart_of_narrows (Narrows.settle ((hins _ _).trans ((post_aside _ _).trans (hreq _ _))).narrows) hmade

theorem cmdRegionCommit_apart (region init primary reserved : Byte) :
    Command.KeepsApart (cmdRegionCommit region init primary reserved) := fun p hp => by
  unfold cmdRegionCommit
  split
  · exact hp
  · split
    · split
      · exact hp
      · next hc => exact commitRegion_apart hp ((commitRefusal_none _ _ _ _).mp hc)
    · exact hp

theorem endComparesOf_narrows (r : RegionIx) (p : Part) : Narrows p (endComparesOf r p).1 := by
  unfold endComparesOf
  split
  · split
    · exact endRunning_narrows _ _ _
    · exact .refl _
  · exact .refl _

theorem retireRegion_narrows {r : RegionIx} {p : Part} (h : (p.region r).state = .live) : Narrows p (retireRegion r p) := by
  have hr : Narrows p (p.setRegion r { p.region r with state := .retiring }) := .setRegion fun _ => ⟨by simp [inUse, h], rfl⟩
  exact Narrows.settle (hr.trans ((endComparesOf_narrows r _).trans (endQueuedCompares_aside r _).narrows))

theorem cmdRegionRetire_narrows (region reserved : Byte) (p : Part) : Narrows p (cmdRegionRetire region reserved p).1 := by
  unfold cmdRegionRetire
  split
  · exact .refl p
  · split
    · exact .refl p
    · split
      · exact .refl p
      · next h => exact retireRegion_narrows (by simpa using h)

theorem cmdRegionRead_fst (region reserved : Byte) (p : Part) : (cmdRegionRead region reserved p).1 = p := by
  unfold cmdRegionRead
  split
  · rfl
  · split <;> rfl

theorem cmdPortEnable_narrows (port reserved : Byte) (p : Part) : Narrows p (cmdPortEnable port reserved p).1 := by
  unfold cmdPortEnable
  split
  · exact .refl p
  · split
    · exact .of_regions rfl
    · exact .refl p

theorem cmdPortDisable_narrows (port reserved : Byte) (p : Part) : Narrows p (cmdPortDisable port reserved p).1 := by
  unfold cmdPortDisable
  split
  · exact .refl p
  · split
    · exact .refl p
    · split
      · exact .refl p
      · show Narrows p (disablePort _ p)
        unfold disablePort
        split
        · exact .refl p
        · exact (out_aside p _).narrows.trans (loseLink_narrows _ _ _ _ _)

theorem cmdPortSetup_narrows (port timeout silence weight : Byte) (p : Part) :
    Narrows p (cmdPortSetup port timeout silence weight p).1 := by
  unfold cmdPortSetup
  split
  · exact .refl p
  · split
    · exact .of_regions rfl
    · exact .refl p

theorem detachPort_narrows (q : Port) (p : Part) : Narrows p (detachPort q p) := by
  have h := (Aside.foldl (detachAt_aside q) allRegions p).narrows
  exact Narrows.settle (h.trans (leaveCatchUp_narrows q none _))

theorem cmdDetach_narrows (port reserved : Byte) (p : Part) : Narrows p (cmdDetach port reserved p).1 := by
  unfold cmdDetach
  split
  · exact .refl p
  · split
    · exact .refl p
    · rw [done_fst]
      exact detachPort_narrows _ p

theorem rejoinAt_narrows (q : Port) (p : Part) (r : RegionIx) : Narrows p (rejoinAt q p r) := by
  unfold rejoinAt
  split
  · exact (setMState_aside _ _ _ p).narrows.trans (setTable_narrows _ _)
  · exact .refl p

theorem rejoinPort_narrows (q : Port) (p : Part) : Narrows p (rejoinPort q p) := by
  have h := Narrows.foldl (rejoinAt_narrows q) allRegions p
  refine Narrows.settle ?_
  dsimp only
  exact h.trans (requestCatchUp_aside q _).narrows

theorem cmdRejoin_narrows (port reserved : Byte) (p : Part) : Narrows p (cmdRejoin port reserved p).1 := by
  unfold cmdRejoin
  split
  · exact .refl p
  · split
    · rw [done_fst]
      exact rejoinPort_narrows _ p
    · exact .refl p

theorem cmdCompare_narrows (region : Byte) (first count : BitVec 24) (p : Part) : Narrows p (cmdCompare region first count p).1 := by
  unfold cmdCompare
  split
  · exact .refl p
  · split
    · exact .refl p
    · split
      · exact .refl p
      · exact Narrows.settle (jobs_aside p _).narrows

theorem cmdJobCancel_narrows (position : Byte) (p : Part) : Narrows p (cmdJobCancel position p).1 := by
  unfold cmdJobCancel
  split
  · exact .refl p
  · split
    · exact .refl p
    · show Narrows p (cancelJob _ _ _ p)
      unfold cancelJob
      split
      · exact Narrows.settle (leaveRunning_narrows _ _ p)
      · exact Narrows.settle ((post_aside _ p).trans (jobs_aside _ _)).narrows

theorem cmdPortRead_fst (port : Byte) (p : Part) : (cmdPortRead port p).1 = p := by
  unfold cmdPortRead
  split <;> rfl

theorem cmdDivergenceRead_fst (port start : Byte) (p : Part) : (cmdDivergenceRead port start p).1 = p := by
  unfold cmdDivergenceRead
  split <;> rfl

theorem cmdEventFetch_narrows (n : Byte) (p : Part) : Narrows p (cmdEventFetch n p).1 := by
  unfold cmdEventFetch
  split <;> exact .of_regions rfl

theorem cmdFaultClear_narrows (flags : BitVec 16) (p : Part) : Narrows p (cmdFaultClear flags p).1 := by
  unfold cmdFaultClear
  split <;> exact .of_regions rfl

theorem cmdFaultMask_narrows (flags : BitVec 16) (p : Part) : Narrows p (cmdFaultMask flags p).1 := by
  unfold cmdFaultMask
  split <;> exact .of_regions rfl

theorem ownerCommand_apart (code : Byte) (d : List Byte) : Command.KeepsApart (ownerCommand code d) := by
  unfold ownerCommand
  split
  · exact .of_fst fun _ => rfl
  · exact .of_fst fun _ => rfl
  · exact .of_narrows fun p => (mgmt_aside p _).narrows
  · exact .of_narrows (cmdRegionStage_narrows _)
  · exact cmdRegionCommit_apart _ _ _ _
  · exact .of_narrows (cmdRegionRetire_narrows _ _)
  · exact .of_fst (cmdRegionRead_fst _ _)
  · exact .of_narrows (cmdPortEnable_narrows _ _)
  · exact .of_narrows (cmdPortDisable_narrows _ _)
  · exact .of_narrows (cmdPortSetup_narrows _ _ _ _)
  · exact .of_fst (cmdPortRead_fst _)
  · exact .of_narrows (cmdDetach_narrows _ _)
  · exact .of_narrows (cmdRejoin_narrows _ _)
  · exact .of_fst (cmdDivergenceRead_fst _ _)
  · exact .of_narrows (cmdCompare_narrows _ _ _)
  · exact .of_fst fun _ => rfl
  · exact .of_narrows (cmdJobCancel_narrows _)
  · exact .of_narrows (cmdEventFetch_narrows _)
  · exact .of_narrows (cmdFaultClear_narrows _)
  · exact .of_narrows (cmdFaultMask_narrows _)
  · exact .of_fst fun _ => rfl

theorem testedCommand_apart (code declared : Byte) (d : List Byte) :
    Command.KeepsApart (testedCommand code declared d) := by
  unfold testedCommand
  split
  · exact .of_fst fun _ => rfl
  · split
    · exact .of_fst fun _ => rfl
    · split
      · exact .of_fst fun _ => rfl
      · split
        · exact ownerCommand_apart _ _
        · exact .of_fst fun _ => rfl

theorem takeCommand_apart (seq code : Byte) {run : Command} (h : run.KeepsApart) :
    KeepsApart (takeCommand seq code run) := fun p hp => by
  unfold takeCommand
  split
  · exact hp
  · split
    · exact regionsApart_of_narrows (mgmt_aside p _).narrows hp
    · exact regionsApart_of_narrows (mgmt_aside _ _).narrows (h p hp)

/-! ## The receiver -/

theorem takeFrame_apart (body : List Byte) : KeepsApart (takeFrame body) := fun p hp => by
  unfold takeFrame
  split
  · exact hp
  · split
    · exact hp
    · split
      · exact regionsApart_of_narrows (post_aside _ p).narrows hp
      · exact takeCommand_apart _ _ (testedCommand_apart _ _ _) p hp

theorem setRx_apart (rx : RxState) (buffer : List Byte) : KeepsApart (setRx rx buffer) :=
  .of_narrows fun p => (setRx_aside rx buffer p).narrows

theorem mgmtCharacter_apart (b : Byte) (stopHigh : Bool) : KeepsApart (mgmtCharacter b stopHigh) := fun p hp => by
  have happ := fun b => regionsApart_of_narrows (appendByte_aside b p).narrows hp
  unfold mgmtCharacter
  split
  · unfold receive
    split
    · split
      · exact setRx_apart _ _ p hp
      · exact hp
    · split
      · exact setRx_apart _ _ p hp
      · split
        · exact takeFrame_apart _ _ (setRx_apart _ _ p hp)
        · split
          · exact setRx_apart _ _ p hp
          · exact happ _
    · split
      · exact setRx_apart _ _ p hp
      · split
        · exact happ _
        · exact setRx_apart _ _ p hp
  · exact setRx_apart _ _ p hp

/-! ## Power-on reset -/

/-- Region 0 alone is in use after power-on (R41, R42). -/
theorem inUse_powerOn {hrst : Bool} {bootsz : BitVec 2} {mbaud : Bool} {now : Nat} {trace : List Output} {r : RegionIx}
    (h : inUse ((Part.powerOn hrst bootsz mbaud now trace).region r) = true) : r = 0 := by
  by_contra hr
  rw [region_powerOn, if_neg hr] at h
  exact absurd h (by decide)

theorem powerOn_apart (hrst : Bool) (bootsz : BitVec 2) (mbaud : Bool) (now : Nat) (trace : List Output) :
    regionsApart (Part.powerOn hrst bootsz mbaud now trace) := by
  refine ⟨fun r hr => ?_, fun r r' hne hr hr' => ?_, fun r r' hne hr hr' => ?_⟩
  · rw [inUse_powerOn hr, region_powerOn]
    simp [Region.boot]
  · exact absurd ((inUse_powerOn hr).trans (inUse_powerOn hr').symm) hne
  · exact absurd ((inUse_powerOn hr).trans (inUse_powerOn hr').symm) hne

theorem abandoned_narrows (hrst : Bool) (bootsz : BitVec 2) (mbaud : Bool) (now : Nat) (trace : List Output) (p : Part) :
    Narrows p (Part.abandoned hrst bootsz mbaud now trace) := fun r hr => by
  rw [region_abandoned] at hr
  simp [inUse, Region.cleared] at hr

/-! ## Commands and steps -/

theorem onPart_apart {f : Part → Part} {s t : State} (hf : KeepsApart f) (hp : regionsApart s.part)
    (h : onPart f s = .next t) : regionsApart t.part := by
  unfold onPart at h
  obtain rfl := Host.Outcome.next.inj h
  dsimp only
  split
  · exact hp
  · exact hf _ hp

/-- What is done to the part by each command, but for the two reset inputs, keeps the regions in use apart. -/
theorem exec_apart {c : Instr} {s t : State} (hp : regionsApart s.part) (h : exec c s = .next t) : regionsApart t.part := by
  cases c with
  | admission tag op line => exact onPart_apart (.of_narrows (takeRequest_narrows tag op line)) hp h
  | grant q k => exact onPart_apart (.of_narrows fun p => Narrows.settle (grantAct_narrows q k p)) hp h
  | hostOutcome q => exact onPart_apart (.of_narrows (hostOutcome_narrows q)) hp h
  | hrstNAssert => obtain rfl := Host.Outcome.next.inj h; exact regionsApart_of_narrows (assertHrst_narrows _) hp
  | hrstNDeassert => obtain rfl := Host.Outcome.next.inj h; exact hp
  | porstNAssert => obtain rfl := Host.Outcome.next.inj h; exact regionsApart_of_narrows (abandoned_narrows _ _ _ _ _ _) hp
  | porstNDeassert bootsz mbaud =>
    obtain rfl := Host.Outcome.next.inj h
    dsimp only [releasePorst]
    split
    · exact powerOn_apart _ _ _ _ _
    · exact hp
  | deviceReady q => exact onPart_apart (.of_narrows (deviceReady_narrows q)) hp h
  | trainingTimerExpiry q => exact onPart_apart (.of_narrows (trainingExpiry_narrows q)) hp h
  | silenceTimerExpiry q => exact onPart_apart (.of_narrows (silenceExpiry_narrows q)) hp h
  | wakeTimerExpiry q => exact onPart_apart (.of_narrows (wakeExpiry_narrows q)) hp h
  | linkError q => exact onPart_apart (.of_narrows (linkError_narrows q)) hp h
  | deviceResponse q k resp => exact onPart_apart (.of_narrows (deviceResponse_narrows q k resp)) hp h
  | responseTimerExpiry q => exact onPart_apart (.of_narrows (responseExpiry_narrows q)) hp h
  | linkLossClaim q => exact onPart_apart (.of_narrows (linkLossClaim_narrows q)) hp h
  | copyOutcome q => exact onPart_apart (.of_narrows (copyOutcome_narrows q)) hp h
  | mgmtCharacter b stopHigh => exact onPart_apart (mgmtCharacter_apart b stopHigh) hp h
  | replySent => exact onPart_apart (.of_narrows fun p => (replySent_aside p).narrows) hp h
  | ident seq => exact onPart_apart (takeCommand_apart _ _ (ownerCommand_apart 0x01#8 [])) hp h
  | status seq => exact onPart_apart (takeCommand_apart _ _ (ownerCommand_apart 0x02#8 [])) hp h
  | setKey seq key => exact onPart_apart (takeCommand_apart _ _ (.of_narrows fun p => (mgmt_aside p _).narrows)) hp h
  | regionStage seq x => exact onPart_apart (takeCommand_apart _ _ (.of_narrows (cmdRegionStage_narrows x))) hp h
  | regionCommit seq region init primary reserved =>
    exact onPart_apart (takeCommand_apart _ _ (cmdRegionCommit_apart region init primary reserved)) hp h
  | regionRetire seq region reserved =>
    exact onPart_apart (takeCommand_apart _ _ (.of_narrows (cmdRegionRetire_narrows region reserved))) hp h
  | regionRead seq region reserved => exact onPart_apart (takeCommand_apart _ _ (ownerCommand_apart 0x13#8 [region, reserved])) hp h
  | portEnable seq port reserved => exact onPart_apart (takeCommand_apart _ _ (.of_narrows (cmdPortEnable_narrows _ _))) hp h
  | portDisable seq port reserved => exact onPart_apart (takeCommand_apart _ _ (.of_narrows (cmdPortDisable_narrows _ _))) hp h
  | portSetup seq port timeout silence weight =>
    exact onPart_apart (takeCommand_apart _ _ (.of_narrows (cmdPortSetup_narrows _ _ _ _))) hp h
  | portRead seq port => exact onPart_apart (takeCommand_apart _ _ (ownerCommand_apart 0x23#8 [port])) hp h
  | detach seq port reserved => exact onPart_apart (takeCommand_apart _ _ (.of_narrows (cmdDetach_narrows _ _))) hp h
  | rejoin seq port reserved => exact onPart_apart (takeCommand_apart _ _ (.of_narrows (cmdRejoin_narrows _ _))) hp h
  | divergenceRead seq port start => exact onPart_apart (takeCommand_apart _ _ (ownerCommand_apart 0x38#8 [port, start])) hp h
  | compare seq region first count => exact onPart_apart (takeCommand_apart _ _ (.of_narrows (cmdCompare_narrows _ _ _))) hp h
  | jobRead seq => exact onPart_apart (takeCommand_apart _ _ (ownerCommand_apart 0x41#8 [])) hp h
  | jobCancel seq position => exact onPart_apart (takeCommand_apart _ _ (.of_narrows (cmdJobCancel_narrows _))) hp h
  | eventFetch seq n => exact onPart_apart (takeCommand_apart _ _ (.of_narrows (cmdEventFetch_narrows _))) hp h
  | faultClear seq flags => exact onPart_apart (takeCommand_apart _ _ (.of_narrows (cmdFaultClear_narrows _))) hp h
  | faultMask seq flags => exact onPart_apart (takeCommand_apart _ _ (.of_narrows (cmdFaultMask_narrows _))) hp h

/-- Settles O58: only a commit, by its checks of R30, and power-on bring a region into use; everything else narrows what the
regions in use occupy. -/
theorem regionsApartKept : Obligations.RegionsApartKept := fun s t hp h => by
  unfold step at h
  split at h
  · next rest _ => exact exec_apart (s := { s with pending := rest }) hp h
  · obtain rfl := Host.Outcome.next.inj h
    exact hp

end Sys2Proof.Machine
end

section
/-! SUPPORT. Management commands at a part that takes them, and the four commands that report (R40, R116, R138, R155). -/

namespace Sys2Proof.Machine

/-! ## Executed frames -/

/-- An executed command's frame is answered with what the command gives (R149). -/
theorem repliesWith_of_run {c : Instr} {seq code : Byte} {run : Command} {s : State} {p' : Part} {st : Status}
    {payload : List Byte} (hc : exec c s = onFrame seq code run s) (h : takesCommand s seq)
    (hr : run s.part = (p', st, payload)) : repliesWith c s seq code st payload p' := by
  have := onFrame_runs seq code run s h
  rw [hr] at this
  exact hc.trans this

/-! ## Lists of blocks of one length -/

theorem length_flatMap_blocks {α β : Type} {f : α → List β} {k : Nat} (hf : ∀ x, (f x).length = k) (l : List α) :
    (l.flatMap f).length = k * l.length := by
  induction l with
  | nil => simp
  | cons x xs ih => simp only [List.flatMap_cons, List.length_append, hf, ih, List.length_cons]; ring

theorem getElem?_flatMap_blocks {α β : Type} {f : α → List β} {k j : Nat} (hf : ∀ x, (f x).length = k) (hj : j < k)
    (l : List α) (i : Nat) : (l.flatMap f)[k * i + j]? = l[i]?.bind (fun x => (f x)[j]?) := by
  induction l generalizing i with
  | nil => simp
  | cons x xs ih =>
    rw [List.flatMap_cons]
    cases i with
    | zero => rw [List.getElem?_append_left (by simpa [hf] using hj)]; simp
    | succ i =>
      rw [List.getElem?_append_right (by rw [hf]; nlinarith), hf,
        show k * (i + 1) + j - k = k * i + j by rw [Nat.mul_succ]; omega, ih]
      simp

/-! ## STATUS (R155, R173) -/

@[simp] theorem length_be2 (n : Nat) : (be2 n).length = 2 := rfl
@[simp] theorem length_be3 (n : Nat) : (be3 n).length = 3 := rfl
@[simp] theorem length_be5 (n : Nat) : (be5 n).length = 5 := rfl

theorem length_headBytes (jobs : List Job) : (headBytes jobs).length = 3 := by
  unfold headBytes
  split
  · rfl
  · split <;> rfl

theorem toNat_flagWord (f : BitVec 13) : (flagWord f).toNat = f.toNat := by
  simp only [flagWord, BitVec.toNat_setWidth]
  exact Nat.mod_eq_of_lt (by omega)

theorem getElem?_allPorts (q : Port) : allPorts[q.val]? = some q := by revert q; decide

theorem getElem?_allRegions (r : RegionIx) : allRegions[r.val]? = some r := by revert r; decide

/-- The links' bytes of STATUS. -/
def statusLinks (p : Part) : List Byte := allPorts.map (fun q => byte1 (linkCode (p.port q).link))

/-- The regions' bytes of STATUS. -/
def statusRegions (p : Part) : List Byte := allRegions.flatMap (fun r => statusRegion (p.region r))

/-- The bytes of STATUS behind the regions. -/
def statusUnits (p : Part) : List Byte :=
  (headBytes p.jobs ++ [byte1 (phaseCode (p.window.map (·.phase)))]) ++
    ((be2 p.events.summary.toNat ++ be2 p.events.mask.toNat) ++ (byte1 p.events.queue.length :: be2 p.events.next.toNat))

theorem statusRecord_eq (p : Part) : statusRecord p = statusLinks p ++ (statusRegions p ++ statusUnits p) := by
  simp [statusRecord, statusLinks, statusRegions, statusUnits, toNat_flagWord]

theorem length_statusLinks (p : Part) : (statusLinks p).length = 4 := rfl

theorem length_statusRegions (p : Part) : (statusRegions p).length = 64 := length_flatMap_blocks (k := 4) (fun _ => rfl) _

/-- The four bytes of each region stand at its offset. -/
theorem getElem?_statusRecord_region (p : Part) (r : RegionIx) {j : Nat} (hj : j < 4) :
    (statusRecord p)[4 + 4 * r.val + j]? = (statusRegion (p.region r))[j]? := by
  rw [statusRecord_eq, List.getElem?_append_right (by rw [length_statusLinks]; omega), length_statusLinks,
    List.getElem?_append_left (by rw [length_statusRegions]; omega), Nat.add_assoc, Nat.add_sub_cancel_left, statusRegions,
    getElem?_flatMap_blocks (k := 4) (fun _ => rfl) hj, getElem?_allRegions]
  rfl

theorem drop_statusRecord (p : Part) : (statusRecord p).drop 68 = statusUnits p := by
  rw [statusRecord_eq, ← List.append_assoc]
  exact List.drop_left' (by rw [List.length_append, length_statusLinks, length_statusRegions])

theorem length_statusJobs (p : Part) : (headBytes p.jobs ++ [byte1 (phaseCode (p.window.map (·.phase)))]).length = 4 := by
  rw [List.length_append, length_headBytes]; rfl

theorem length_statusRecord (p : Part) : (statusRecord p).length = 79 := by
  rw [statusRecord_eq, List.length_append, List.length_append, length_statusLinks, length_statusRegions, statusUnits,
    List.length_append, length_statusJobs]
  rfl

/-! ## JOB_READ (R138) -/

theorem length_jobBytes (j : Job) : (jobBytes j).length = 14 := by
  unfold jobBytes
  split <;> rfl

theorem length_windowBytes (p : Part) : (windowBytes p).length = 13 := by
  unfold windowBytes
  split
  · simp
  · rfl

/-! ## REGION_READ (R40, R172) -/

theorem length_slotBytes (m : Option Member) : (slotBytes m).length = 3 := by cases m <;> rfl

theorem length_regionRecord (r : RegionIx) (x : Region) : (regionRecord r x).length = 28 := by
  simp [regionRecord, length_slotBytes]

/-! ## The statement -/

/-- Settles O39: each reply is the record of the part as it stands, and its bytes are found by the lengths of what stands
before them. -/
theorem readCommands : Obligations.ReadCommands := by
  refine ⟨fun seq s h => ⟨⟨statusRecord s.part, repliesWith_of_run rfl h rfl, length_statusRecord _, fun q => ?_, fun r => ?_,
    ?_, ?_, ?_⟩, ⟨_, repliesWith_of_run rfl h rfl, ?_, rfl, rfl⟩⟩, fun seq a b s h => ⟨fun hb => ?_, fun r hb hr => ?_,
    fun hq => ?_, fun q hq => ?_⟩⟩
  · rw [statusRecord_eq, List.getElem?_append_left (by rw [length_statusLinks]; omega)]
    simp [statusLinks, getElem?_allPorts]
  · have hb := fun j (hj : j < 4) => getElem?_statusRecord_region s.part r hj
    refine ⟨(hb 0 (by omega)).trans rfl, ?_, ?_, ?_⟩
    · rw [show 5 + 4 * r.val = 4 + 4 * r.val + 1 by omega]; exact hb 1 (by omega)
    · rw [show 6 + 4 * r.val = 4 + 4 * r.val + 2 by omega]; exact hb 2 (by omega)
    · rw [show 7 + 4 * r.val = 4 + 4 * r.val + 3 by omega]; exact hb 3 (by omega)
  · rw [drop_statusRecord, statusUnits]
    exact List.take_left' (length_statusJobs _)
  · rw [show 72 = 68 + 4 from rfl, ← List.drop_drop, drop_statusRecord, statusUnits, List.drop_left' (length_statusJobs _)]
    rfl
  · rw [show 76 = 68 + 4 + 4 from rfl, ← List.drop_drop, ← List.drop_drop, drop_statusRecord, statusUnits,
      List.drop_left' (length_statusJobs _)]
    rfl
  · simp only [List.length_cons, List.length_append, length_flatMap_blocks length_jobBytes, length_windowBytes]
    omega
  · refine repliesWith_of_run rfl h ?_
    rcases hb with hb | hb
    · simp [cmdRegionRead, hb, refuse]
    · simp [cmdRegionRead, hb, refuse]
  · exact ⟨repliesWith_of_run rfl h (by simp [cmdRegionRead, hb, hr]), length_regionRecord _ _⟩
  · exact repliesWith_of_run rfl h (by simp [cmdDivergenceRead, hq, refuse])
  · exact ⟨_, rfl, repliesWith_of_run rfl h (by simp [cmdDivergenceRead, hq, divergenceRecord]; rfl)⟩

end Sys2Proof.Machine
end

section
/-! SUPPORT. REGION_STAGE: what the checks of its fields accept, and the entry they leave (R29, R172). -/

namespace Sys2Proof.Machine

/-! ## One member slot -/

theorem portOf_some (b : Byte) (q : Port) : portOf b = some q ↔ b.toNat = q.val := by
  unfold portOf
  split
  · simp [Fin.ext_iff]
  · simp; omega

theorem portOf_isSome (b : Byte) : (portOf b).isSome = true ↔ b.toNat ≤ 3 := by
  unfold portOf
  split
  · simp; omega
  · simp; omega

theorem byte1_toNat (b : Byte) : byte1 b.toNat = b := by simp [byte1]

/-- A port byte and a base in range (R29 check 3). -/
def slotFits (z : MemberSlot) : Prop := z.port.toNat ≤ 3 ∧ z.base.toNat ≤ 16383

theorem stagedMember_isSome (z : MemberSlot) : (stagedMember z).isSome = true ↔ slotFits z := by
  have hp := portOf_isSome z.port
  unfold stagedMember slotFits
  split
  · next h =>
    rw [h] at hp
    simp only [Option.isSome_some, true_iff] at hp
    split
    · next hb => simp [hp]; simp only [Config.downGranules] at hb; omega
    · next hb => simp [hp]; simp only [Config.downGranules] at hb; omega
  · next h =>
    rw [h] at hp
    simp only [Option.isSome_none, Bool.false_eq_true, false_iff] at hp ⊢
    tauto

theorem stagedMember_spec {z : MemberSlot} {m : Member} (h : stagedMember z = some m) :
    byte1 m.port.val = z.port ∧ m.base = z.base.toNat ∧ m.base < 16384 ∧ m.state = none := by
  unfold stagedMember at h
  split at h
  · next q hq =>
    split at h
    · next hb =>
      obtain rfl := Option.some.inj h
      exact ⟨by rw [← (portOf_some _ _).mp hq, byte1_toNat], rfl, hb, rfl⟩
    · simp at h
  · simp at h

/-! ## The member slots in use -/

theorem stagedMembers_some {l : List MemberSlot} {ms : List Member} (h : stagedMembers l = some ms) :
    l.map stagedMember = ms.map some := by
  induction l generalizing ms with
  | nil => obtain rfl : ms = [] := by simpa [stagedMembers] using h.symm
           rfl
  | cons z zs ih =>
    rw [stagedMembers] at h
    split at h
    · next x xs hx hxs =>
      obtain rfl := Option.some.inj h
      simp [hx, ih hxs]
    all_goals simp at h

theorem stagedMembers_isSome (l : List MemberSlot) : (stagedMembers l).isSome = true ↔ ∀ z ∈ l, slotFits z := by
  induction l with
  | nil => simp [stagedMembers]
  | cons z zs ih =>
    rw [List.forall_mem_cons, ← ih, ← stagedMember_isSome, stagedMembers]
    cases stagedMember z <;> cases stagedMembers zs <;> simp

/-! ## The codes -/

theorem modeOf_isSome (b : Byte) : (modeOf b).isSome = true ↔ b.toNat ≤ 1 := by revert b; decide

theorem policyOf_isSome (b : Byte) : (policyOf b).isSome = true ↔ b.toNat ≤ 2 := by revert b; decide

theorem modeCode_of {b : Byte} {m : Mode} (h : modeOf b = some m) : byte1 (modeCode m) = b := by
  revert b m; decide

theorem policyCode_of {b : Byte} {y : Policy} (h : policyOf b = some y) :
    byte1 (policyCode y) = b ∧ (y = .preferred ↔ b = 1#8) := by
  revert b y; decide

/-! ## The staged entry -/

/-- What a staging record leaves, where every field holds a value it may hold (R29). -/
theorem stagedRegion_some {x : StageRecord} {y : Region} (h : stagedRegion x = some y) :
    ∃ mode policy members, modeOf x.mode = some mode ∧ policyOf x.policy = some policy ∧
      stagedMembers ((stageSlots x).take x.count.toNat) = some members ∧ stageCountsFit x = true ∧
      (policy ≠ .preferred ∨ (portOf x.preferred).isSome = true) ∧
      y = { Region.cleared with
        state := .staged, base := x.base.toNat, size := x.size.toNat, mode := mode, members := members,
        policy := policy, preferred := if policy == .preferred then portOf x.preferred else none } := by
  unfold stagedRegion at h
  split at h
  · next mode policy members hm hp hs =>
    split at h
    · next hc =>
      obtain ⟨hc, hq⟩ := Bool.and_eq_true_iff.mp hc
      exact ⟨mode, policy, members, hm, hp, hs, hc, by simpa using hq, (Option.some.inj h).symm⟩
    · simp at h
  · simp at h

theorem stageCountsFit_iff (x : StageRecord) : stageCountsFit x = true ↔
    1 ≤ x.size.toNat ∧ x.size.toNat ≤ 16384 ∧ 1 ≤ x.count.toNat ∧ x.count.toNat ≤ 3 := by
  simp only [stageCountsFit, Bool.and_eq_true, decide_eq_true_eq, and_assoc]
  rfl

theorem stageFits_of_staged {x : StageRecord} {y : Region} (h : stagedRegion x = some y) : stageFits x := by
  obtain ⟨mode, policy, members, hm, hp, hs, hc, hq, -⟩ := stagedRegion_some h
  obtain ⟨h1, h2, h3, h4⟩ := (stageCountsFit_iff x).mp hc
  refine ⟨h1, h2, (modeOf_isSome _).mp (by simp [hm]), h3, h4, (policyOf_isSome _).mp (by simp [hp]), fun h1 => ?_,
    (stagedMembers_isSome ((stageSlots x).take x.count.toNat)).mp (by simp [hs])⟩
  exact (portOf_isSome _).mp (hq.resolve_left fun hn => hn ((policyCode_of hp).2.mpr h1))

theorem staged_of_stageFits {x : StageRecord} (h : stageFits x) : ∃ y, stagedRegion x = some y := by
  obtain ⟨h1, h2, hm, h3, h4, hp, hq, hs⟩ := h
  obtain ⟨mode, hm⟩ := Option.isSome_iff_exists.mp ((modeOf_isSome _).mpr hm)
  obtain ⟨policy, hp⟩ := Option.isSome_iff_exists.mp ((policyOf_isSome _).mpr hp)
  obtain ⟨members, hs⟩ := Option.isSome_iff_exists.mp ((stagedMembers_isSome ((stageSlots x).take x.count.toNat)).mpr hs)
  have hc : stageCountsFit x = true := (stageCountsFit_iff x).mpr ⟨h1, h2, h3, h4⟩
  have hpref : policy = .preferred → (portOf x.preferred).isSome = true := fun he =>
    (portOf_isSome _).mpr (hq ((policyCode_of hp).2.mp he))
  unfold stagedRegion
  simp only [hm, hp, hs, hc, Bool.true_and]
  by_cases he : policy = .preferred
  · simp [he, hpref he]
  · simp [he]

/-! ## The statement -/

/-- Settles O40: the checks one after the other; the members of the entry are the slots in use, in their order. -/
theorem regionStageChecksAndEffect : Obligations.RegionStageChecksAndEffect := by
  intro seq x s h
  refine ⟨fun hx => ?_, fun r hr hx => ⟨fun hu => ?_, fun hu hn => ?_, fun hu hf => ?_⟩⟩
  · refine repliesWith_of_run rfl h ?_
    rcases hx with hx | hx
    · simp [cmdRegionStage, hx, refuse]
    · cases hr : regionOf x.region <;> simp [cmdRegionStage, hr, hx, refuse]
  · exact repliesWith_of_run rfl h (by simp [cmdRegionStage, hr, hx, hu, refuse])
  · have : stagedRegion x = none := Option.eq_none_iff_forall_ne_some.mpr fun y hy => hn (stageFits_of_staged hy)
    exact repliesWith_of_run rfl h (by simp [cmdRegionStage, hr, hx, hu, this, refuse])
  · obtain ⟨y, hy⟩ := staged_of_stageFits hf
    have hrun : cmdRegionStage x s.part = (s.part.setRegion r y, .ok, []) := by simp [cmdRegionStage, hr, hx, hu, hy, done]
    obtain ⟨mode, policy, members, hm, hp, hs, hc, -, rfl⟩ := stagedRegion_some hy
    obtain ⟨h1, h2, h3, h4⟩ := (stageCountsFit_iff x).mp hc
    have hmap := stagedMembers_some hs
    have hlen : members.length = x.count.toNat := by
      have := congrArg List.length hmap
      simp [stageSlots] at this
      omega
    obtain ⟨hpc, hpp⟩ := policyCode_of hp
    refine ⟨_, repliesWith_of_run rfl h hrun, rfl, rfl, rfl, h1, h2, modeCode_of hm,
      hpc, hlen, hlen ▸ h3, hlen ▸ h4, fun i m z hi hz => ?_, ?_, rfl, rfl⟩
    · refine stagedMember_spec (z := z) ?_
      have hlt : i < x.count.toNat := hlen ▸ (List.getElem?_eq_some_iff.mp hi).1
      have hget := congrArg (fun l => l[i]?) hmap
      simpa [List.getElem?_take, hlt, hz, hi] using hget
    · by_cases he : policy = .preferred
      · simp [he, hpp.mp he]
      · simp [he, mt hpp.mpr he]

end Sys2Proof.Machine
end

section
/-! SUPPORT. The works that can follow a retirement leave each region's state, or make a RETIRING one FREE, and bring no compare
job to a region without one (R37, R38, R136). -/

namespace Sys2Proof.Machine

/-- No compare job is on the region. -/
def noCompareOn (r : RegionIx) (p : Part) : Prop := ∀ j ∈ p.jobs, isCompareOf r j = false

/-- From `p` to `p'` each region keeps its state, or is FREE after RETIRING, and one without a compare job gets none. -/
structure Subsides (p p' : Part) : Prop where
  state : ∀ r, (p'.region r).state = (p.region r).state ∨ (p.region r).state = .retiring ∧ (p'.region r).state = .free
  jobs : ∀ r, noCompareOn r p → noCompareOn r p'

namespace Subsides

theorem refl (p : Part) : Subsides p p := ⟨fun _ => .inl rfl, fun _ => id⟩

theorem trans {a b c : Part} (h : Subsides a b) (h' : Subsides b c) : Subsides a c where
  state r := by
    rcases h.state r with hs | ⟨hr, hf⟩
    · rw [← hs]; exact h'.state r
    · rcases h'.state r with hs | ⟨hr', -⟩
      · exact .inr ⟨hr, hs.trans hf⟩
      · rw [hf] at hr'; simp at hr'
  jobs r := h'.jobs r ∘ h.jobs r

theorem of_jobs {p p' : Part} (hs : ∀ r, (p'.region r).state = (p.region r).state) (hj : p'.jobs ⊆ p.jobs) : Subsides p p' :=
  ⟨fun r => .inl (hs r), fun _ h j hm => h j (hj hm)⟩

theorem of_aside {p p' : Part} (h : Aside p p') (hj : p'.jobs ⊆ p.jobs) : Subsides p p' := of_jobs h.state hj

theorem of_stores {p p' : Part} (h : Stores p p') (hj : p'.jobs ⊆ p.jobs) : Subsides p p' :=
  of_jobs (fun r => by rw [h.region]) hj

/-- Regions and jobs are the same. -/
theorem of_same {p p' : Part} (hr : p'.regions = p.regions) (hj : p'.jobs = p.jobs) : Subsides p p' :=
  of_jobs (fun r => by simp [Part.region, hr]) (by simp [hj])

end Subsides

/-! ## Entries -/

theorem lowerInFlight_subsides (r : RegionIx) (p : Part) : Subsides p (lowerInFlight r p) :=
  .of_jobs (fun r' => by rw [region_lowerInFlight]; split <;> simp_all) (List.Subset.refl _)

theorem completeEntry_subsides (e : Entry) (st : RespStatus) (p : Part) : Subsides p (completeEntry e st p).1 :=
  .trans (.of_same (p' := removeEntry e.tag (p.out _)) rfl rfl) (lowerInFlight_subsides _ _)

theorem enterWaitingSlot_subsides (e : Entry) (t : PortSet) (p : Part) : Subsides p (enterWaitingSlot e t p).1 := .of_same rfl rfl

theorem chooseRead_jobs {p p' : Part} {e : Entry} {q : Port} (h : chooseRead p e = some (q, p')) : p'.jobs = p.jobs := by
  unfold chooseRead at h
  dsimp only at h
  split at h
  · simp at h
  · obtain ⟨-, rfl⟩ := Prod.mk.inj (Option.some.inj h)
    split <;> rfl

theorem chooseFirst_subsides (e : Entry) (p : Part) : Subsides p (chooseFirst e p).1 := by
  unfold chooseFirst
  split
  · unfold chooseDirect
    split
    · split
      · exact completeEntry_subsides _ _ p
      · exact enterWaitingSlot_subsides _ _ p
    · exact completeEntry_subsides _ _ p
  · split
    · split
      · next h =>
        exact .trans (.of_aside (chooseRead_aside h) (by simp [chooseRead_jobs h])) (enterWaitingSlot_subsides _ _ _)
      · exact completeEntry_subsides _ _ p
    · exact .refl p

theorem taskLeave_subsides (line : UpAddr) (p : Part) : Subsides p (taskLeave line p).1 := by
  unfold taskLeave
  split
  · exact .refl p
  · exact chooseFirst_subsides _ p

theorem taskImmediateFailure_subsides (tag : Tag) (q : Port) (p : Part) : Subsides p (taskImmediateFailure tag q p).1 := by
  unfold taskImmediateFailure
  split
  · exact .refl p
  · dsimp only
    split
    · exact .of_same rfl rfl
    · exact .refl p

theorem taskFixTargets_subsides (tag : Tag) (p : Part) : Subsides p (taskFixTargets tag p).1 := by
  unfold taskFixTargets
  split
  · exact .refl p
  · dsimp only
    split
    · exact .refl p
    · split
      · exact completeEntry_subsides _ _ p
      · exact enterWaitingSlot_subsides _ _ p

theorem taskGiveBack_subsides (q : Port) (p : Part) : Subsides p (taskGiveBack q p).1 := by
  obtain ⟨-, H, hH, -⟩ := taskGiveBack_spec q p
  rw [hH]
  exact .of_same rfl rfl

/-! ## Jobs that leave and start -/

theorem withdrawClaimAt_jobs (q : Port) (p : Part) : (withdrawClaimAt q p).jobs = p.jobs := by
  unfold withdrawClaimAt
  split
  · split <;> rfl
  · rfl

theorem endRunning_subsides {rest : List Job} (ev : Option EventBody) {p : Part} (h : rest ⊆ p.jobs) :
    Subsides p (endRunning rest ev p).1 := .of_stores (endRunning_stores rest ev p) h

theorem leaveRunning_subsides {rest : List Job} (ev : Option EventBody) {p : Part} (h : rest ⊆ p.jobs) :
    Subsides p (leaveRunning rest ev p).1 := endRunning_subsides ev h

theorem jobsWithout_subset (q : Port) (p : Part) : jobsWithout q p ⊆ p.jobs := List.filter_subset_self _

theorem leaveCatchUp_subsides (q : Port) (ev : Option EventBody) (p : Part) : Subsides p (leaveCatchUp q ev p).1 := by
  unfold leaveCatchUp
  split
  · exact .refl p
  · split
    · exact leaveRunning_subsides ev (jobsWithout_subset q p)
    · exact .of_aside ((postEnd_aside ev p).trans (jobs_aside _ _)) (jobsWithout_subset q p)

theorem RegionsOnly.subsides {p p' : Part} (h : RegionsOnly p p') (ha : Aside p p') : Subsides p p' :=
  .of_aside ha (by rw [h.jobs]; exact List.Subset.refl _)

theorem taskReport_subsides (r : RegionIx) (q : Port) (why : Reason) (line : Option UpAddr) (p : Part) :
    Subsides p (taskReport r q why line p).1 := by
  have h := (takeReport_only r q why line p).subsides (takeReport_aside ..)
  unfold taskReport
  split
  · exact h.trans (leaveCatchUp_subsides _ _ _)
  · exact h

theorem abandonSource_subsides (q : Port) (p : Part) : Subsides p (abandonSource q p).1 := by
  have h := (takeOutRejoining_only q .source p).subsides (takeOutRejoining_aside ..)
  exact h.trans (leaveRunning_subsides _ (by rw [(takeOutRejoining_only q .source p).jobs]; exact jobsWithout_subset q p))

theorem taskHeadStart_subsides (p : Part) : Subsides p (taskHeadStart p).1 := by
  have h : ∀ j js, p.jobs = j :: js → Subsides p { p with jobs := { j with started := true } :: js } := fun j js hj =>
    ⟨fun _ => .inl rfl, fun r hr => by
      rw [noCompareOn, hj, List.forall_mem_cons] at hr
      exact List.forall_mem_cons.mpr hr⟩
  unfold taskHeadStart
  split
  · next j js hj _ =>
    split
    · exact .refl p
    · dsimp only
      split
      · exact (h j js hj).trans (.of_same rfl rfl)
      · exact h j js hj
  all_goals exact .refl p

/-! ## Lines -/

theorem completeAt_only (q : Port) (p : Part) (r : RegionIx) : RegionsOnly p (completeAt q p r) := by
  unfold completeAt
  split
  · split <;> exact rfl
  · exact .refl p

theorem takeCompletion_only (q : Port) (p : Part) : RegionsOnly p (takeCompletion q p) := .foldl (completeAt_only q) _ p

theorem taskChooseSource_subsides (q : Port) (p : Part) : Subsides p (taskChooseSource q p).1 := by
  unfold taskChooseSource
  split
  · exact .refl p
  · split
    · exact abandonSource_subsides q p
    · exact .of_same rfl rfl

theorem taskSelection_subsides (q : Port) (p : Part) : Subsides p (taskSelection q p).1 := by
  unfold taskSelection
  split
  · exact .of_same rfl rfl
  · have h := (takeCompletion_only q p).subsides (takeCompletion_aside q p)
    exact h.trans (leaveRunning_subsides _ (by rw [(takeCompletion_only q p).jobs]; exact jobsWithout_subset q p))

theorem taskLineDone_subsides (q : Port) (p : Part) : Subsides p (taskLineDone q p).1 := by
  refine .of_aside (taskLineDone_aside q p) ?_
  have hr : (releaseLineClaim p).1.jobs = p.jobs := by unfold releaseLineClaim; split <;> rfl
  have hn : ∀ w p, (nextCatchUpLine q w p).1.jobs = p.jobs := fun w p => by
    unfold nextCatchUpLine
    split
    · split <;> rfl
    · rfl
  unfold taskLineDone
  split
  · exact List.Subset.refl _
  · split
    · rw [hn, hr]; exact List.Subset.refl _
    · exact List.Subset.refl _

theorem taskAfterSourceFailure_subsides (t s : Port) (p : Part) : Subsides p (taskAfterSourceFailure t s p).1 := by
  unfold taskAfterSourceFailure
  split
  · exact .refl p
  · split
    · split
      · exact .refl p
      · split
        · exact abandonSource_subsides _ p
        · exact .of_same rfl rfl
    · exact .refl p

theorem runningCompare_head {p : Part} {c : CompareJob} (h : runningCompare p = some c) :
    ∃ js, p.jobs = { kind := .compare c, started := true } :: js := by
  unfold runningCompare runningJob at h
  rcases hj : p.jobs with _ | ⟨⟨kind, started⟩, js⟩
  · simp [hj] at h
  · cases started <;> cases kind <;> simp_all

theorem taskCompareStart_subsides (p : Part) : Subsides p (taskCompareStart p).1 := by
  unfold taskCompareStart
  split
  · exact .refl p
  · dsimp only
    split
    · exact leaveRunning_subsides _ (List.tail_subset _)
    · exact .of_same rfl rfl

/-- New counts of the running compare job stay on its region. -/
theorem setRunningCompare_subsides {c c' : CompareJob} {p : Part} (h : runningCompare p = some c) (hc : c'.region = c.region) :
    Subsides p (setRunningCompare c' p) := by
  obtain ⟨js, hj⟩ := runningCompare_head h
  refine ⟨fun _ => .inl rfl, fun r hr => ?_⟩
  rw [noCompareOn, hj, List.forall_mem_cons] at hr
  rw [noCompareOn, setRunningCompare, hj, List.forall_mem_cons]
  refine ⟨?_, hr.2⟩
  simpa [isCompareOf, hc] using hr.1

theorem recordLine_subsides (d : PortSet) (w : Window) (p : Part) : Subsides p (recordLine d w p).1 := by
  unfold recordLine
  split
  · exact .refl p
  · next c hc =>
    dsimp only
    have hm : ∀ r a, Subsides p (postMismatch d r a p) ∧ runningCompare (postMismatch d r a p) = some c := fun r a => by
      unfold postMismatch
      split
      · exact ⟨.refl p, hc⟩
      · exact ⟨.of_same rfl rfl, hc⟩
    have h := fun r a => (hm r a).1.trans (setRunningCompare_subsides (c' := countLine (d != 0#4) c) (hm r a).2 rfl)
    split
    · exact h _ _
    · exact (h _ _).trans (leaveRunning_subsides _ (List.tail_subset _))

theorem compareProgress_subsides (p : Part) : Subsides p (compareProgress p).1 := by
  have hr : Subsides p (releaseLineClaim p).1 := by unfold releaseLineClaim; split <;> exact .of_same rfl rfl
  unfold compareProgress
  split
  · exact .refl p
  · split
    · split
      · exact .refl p
      · unfold compareLine
        dsimp only
        split
        · exact .refl p
        · exact hr.trans (recordLine_subsides _ _ _)
    · exact .refl p

theorem taskNotice_subsides (line : UpAddr) (full : Bool) (p : Part) : Subsides p (taskNotice line full p).1 := by
  have ho : ∀ w, Subsides p (overtaken w p).2 := fun w => by
    unfold overtaken; dsimp only; split <;> exact .of_same rfl rfl
  have hw : ∀ t p, Subsides p (withdrawClaimAt t p) := fun t p =>
    .of_stores (withdrawClaimAt_stores t p) (by simp [withdrawClaimAt_jobs])
  unfold taskNotice
  split
  · exact .refl p
  · split
    · split
      · unfold noticeReading
        split
        · exact .refl p
        · split
          · split
            · exact .of_same rfl rfl
            · exact (ho _).trans (.of_same rfl rfl)
          · split
            · exact (hw _ p).trans (.of_same rfl rfl)
            · exact (ho _).trans ((hw _ _).trans (.of_same rfl rfl))
      · exact (ho _).trans (.of_same rfl rfl)
    · exact .refl p

theorem taskDrainCheck_subsides (r : RegionIx) (p : Part) : Subsides p (taskDrainCheck r p).1 := by
  by_cases h : drained p r = true
  · rw [taskDrainCheck_drained r p h]
    refine ⟨fun r' => ?_, fun r' hr j hj => hr j (List.mem_filter.mp hj).1⟩
    show ((p.setRegion r Region.cleared).region r').state = _ ∨ _ ∧ ((p.setRegion r Region.cleared).region r').state = _
    rw [region_setRegion]
    split
    · next e => exact .inr ⟨e ▸ ((drained_iff ..).mp h).1, rfl⟩
    · exact .inl rfl
  · rw [taskDrainCheck_kept r p (by simpa using h)]
    exact .refl p

/-! ## Events -/

theorem runTask_subsides {t : Task} (h : isCalmWork t = true) (p : Part) : Subsides p (runTask t p).1 := by
  cases t with
  | leave line => exact taskLeave_subsides line p
  | immediateFailure tag q => exact taskImmediateFailure_subsides tag q p
  | fixTargets tag => exact taskFixTargets_subsides tag p
  | giveBack q => exact taskGiveBack_subsides q p
  | serveLost => simp [isCalmWork] at h
  | redirect tag q why => simp [isCalmWork] at h
  | afterShrink tag => simp [isCalmWork] at h
  | afterWriteFailure tag q => simp [isCalmWork] at h
  | report r q why line => exact taskReport_subsides r q why line p
  | drainCheck r => exact taskDrainCheck_subsides r p
  | headStart => exact taskHeadStart_subsides p
  | selection q => exact taskSelection_subsides q p
  | chooseSource q => exact taskChooseSource_subsides q p
  | lineDone q => exact taskLineDone_subsides q p
  | afterSourceFailure t s => exact taskAfterSourceFailure_subsides t s p
  | compareStart => exact taskCompareStart_subsides p
  | afterCompareFailure => exact compareProgress_subsides p
  | closeCheck =>
    simp only [runTask, taskCloseCheck]
    split
    · exact .refl p
    · split
      · exact .of_same rfl rfl
      · exact .refl p
  | claimLost q =>
    simp only [runTask, taskClaimLost]
    split
    · exact .refl p
    · exact .of_stores (withdrawClaimAt_stores q p) (by simp [withdrawClaimAt_jobs])
  | copyFailed part q why =>
    refine .of_aside (taskCopyFailed_aside part q why p) ?_
    simp only [runTask, taskCopyFailed]
    split
    · exact List.Subset.refl _
    · split
      · exact List.Subset.refl _
      · split <;> exact List.Subset.refl _
  | notice line full => exact taskNotice_subsides line full p
  | posting b => exact .of_same rfl rfl

theorem settle_subsides {a : Act} (h : ∀ u ∈ a.2, isCalmWork u = true) : Subsides a.1 (settle a) :=
  settle_inv_of (I := Subsides a.1) (T := fun u => isCalmWork u = true)
    (fun _ p ht hp => ⟨hp.trans (runTask_subsides ht p), (runTask_calm ht p).2⟩) h (.refl _)

end Sys2Proof.Machine
end

section
/-! SUPPORT. The end of a running job and the drain check in closed form (R37, R120, R123). -/

namespace Sys2Proof.Machine

/-! ## Claims withdrawn (R122) -/

/-- From `p` to `p'` ports and window alone change, and a window that closes is the same. -/
structure ClaimsOnly (p p' : Part) : Prop where
  part : p' = { p with ports := p'.ports, window := p'.window }
  closing : p'.window.map (fun w => { w with phase := .closing, data := [], claims := [] }) =
    p.window.map (fun w => { w with phase := .closing, data := [], claims := [] })

theorem ClaimsOnly.refl (p : Part) : ClaimsOnly p p := ⟨rfl, rfl⟩

theorem ClaimsOnly.trans {a b c : Part} (h : ClaimsOnly a b) (h' : ClaimsOnly b c) : ClaimsOnly a c :=
  ⟨by rw [h'.part, h.part], h'.closing.trans h.closing⟩

theorem withdrawClaimAt_only (q : Port) (p : Part) : ClaimsOnly p (withdrawClaimAt q p) := by
  unfold withdrawClaimAt
  split
  · next w hw =>
    split
    · exact ⟨rfl, by simp [clearPassOver, hw, dropClaim]⟩
    · exact .refl p
  · exact .refl p

theorem withdrawClaims_only (p : Part) : ClaimsOnly p (withdrawClaims p) := by
  have key : ∀ (l : List Port) (p : Part), ClaimsOnly p (l.foldl (fun p q => withdrawClaimAt q p) p) := fun l => by
    induction l with
    | nil => exact .refl
    | cons q qs ih => exact fun p => (withdrawClaimAt_only q p).trans (ih _)
  exact key allPorts p

/-- What is withdrawn does not depend on jobs and events. -/
theorem withdrawClaims_with (jobs : List Job) (events : EventUnit) (p : Part) :
    withdrawClaims { p with jobs := jobs, events := events } = { withdrawClaims p with jobs := jobs, events := events } := by
  have key : ∀ (l : List Port) (p : Part), l.foldl (fun p q => withdrawClaimAt q p) { p with jobs := jobs, events := events } =
      { l.foldl (fun p q => withdrawClaimAt q p) p with jobs := jobs, events := events } := fun l => by
    induction l with
    | nil => exact fun _ => rfl
    | cons q qs ih =>
      intro p
      rw [List.foldl_cons, List.foldl_cons, ← ih]
      congr 1
      unfold withdrawClaimAt
      dsimp only
      split
      · split <;> rfl
      · rfl
  exact key allPorts p

/-- A window without claims has none to withdraw. -/
theorem withdrawClaims_none {p : Part} (h : ∀ w, p.window = some w → w.claims = []) : withdrawClaims p = p := by
  have hat : ∀ q, withdrawClaimAt q p = p := fun q => by
    unfold withdrawClaimAt
    split
    · next w hw => simp [h w hw]
    · rfl
  simp [withdrawClaims, allPorts, hat]

/-! ## The end of the running job (R120) -/

theorem copyInFlight_congr {p p' : Part} (hq : ∀ q, (p'.port q).queue = (p.port q).queue) (hh : p'.handed = p.handed) :
    copyInFlight p' = copyInFlight p := by
  simp only [copyInFlight, hq, hh]

theorem releaseLineClaim_fst (p : Part) : (releaseLineClaim p).1 = { p with lineClaim := none } := by
  unfold releaseLineClaim
  split
  · rfl
  · next h => rw [← h]

/-- The event unit after a job's end. -/
def endPosted (ev : Option EventBody) (u : EventUnit) : EventUnit := ev.toList.foldl postTo u

/-- The window of a job that has left (R120, R123). -/
def windowLeft (p : Part) : Option Window :=
  if copyInFlight p = 0 then none else p.window.map (fun w => { w with phase := .closing, data := [], claims := [] })

/-- The running job has left: claims and line claim gone, its event posted, the window CLOSING or absent (R120). -/
def jobEnded (rest : List Job) (ev : Option EventBody) (p : Part) : Part :=
  { withdrawClaims p with
    lineClaim := none, jobs := rest, events := endPosted ev p.events, window := windowLeft p }

theorem endRunning_eq (rest : List Job) (ev : Option EventBody) (p : Part) :
    endRunning rest ev p = (jobEnded rest ev p, (p.lineClaim.map Task.leave).toList) := by
  have hw := withdrawClaims_only p
  have hin : copyInFlight (withdrawClaims p) = copyInFlight p :=
    copyInFlight_congr (withdrawClaims_offstage p).queue (by rw [hw.part])
  have hev : (withdrawClaims p).events = p.events := by rw [hw.part]
  have hwin : closedWindow (withdrawClaims p) = windowLeft p := by
    unfold closedWindow windowLeft
    rw [hin, hw.closing]
    simp only [beq_iff_eq]
  refine Prod.ext ?_ (endRunning_works rest ev p)
  have hdef : (endRunning rest ev p).1 =
      { postEnd ev (releaseLineClaim (withdrawClaims p)).1 with
        jobs := rest, window := closedWindow (postEnd ev (releaseLineClaim (withdrawClaims p)).1) } := rfl
  rw [hdef, releaseLineClaim_fst]
  cases ev with
  | none =>
    show ({ withdrawClaims p with lineClaim := none, jobs := rest, window := closedWindow (withdrawClaims p) } : Part) = _
    rw [hwin, jobEnded, endPosted, Option.toList_none, List.foldl_nil, ← hev]
  | some b =>
    show ({ withdrawClaims p with
      lineClaim := none, jobs := rest, events := postTo (withdrawClaims p).events b,
      window := closedWindow (withdrawClaims p) } : Part) = _
    rw [hwin, hev]
    rfl

/-! ## A drain check with nothing left to do behind it -/

theorem nothingStarts_drainChecked {p : Part} (r : RegionIx) (h : nothingStarts p) : nothingStarts (drainChecked r p) := by
  unfold drainChecked
  split
  · exact nothingStarts_retired r h
  · exact h

theorem table_drainChecked (r : RegionIx) (p : Part) : (drainChecked r p).table = p.table := by
  unfold drainChecked
  split <;> rfl

/-- A drain check where no job starts by itself. -/
theorem runsTo_drainCheck {r : RegionIx} {p p' : Part} {ts : List Task} {n : Nat} (hn : nothingStarts p)
    (h : RunsTo n ts (drainChecked r p) p') : RunsTo (n + 2) (.drainCheck r :: ts) p p' := by
  have hfst : (runTask (.drainCheck r) p).1 = drainChecked r p := taskDrainCheck_fst r p
  by_cases hd : drained p r = true
  · have hwork : (runTask (.drainCheck r) p).2 = [.headStart] := congrArg Prod.snd (taskDrainCheck_drained r p hd)
    exact .step rfl (Prod.ext hfst hwork) (.idle rfl (taskHeadStart_nothing (nothingStarts_drainChecked r hn)) h)
  · have hwork : (runTask (.drainCheck r) p).2 = [] := congrArg Prod.snd (taskDrainCheck_kept r p (by simpa using hd))
    exact .mono (.step rfl (Prod.ext hfst hwork) h) (by omega)

/-- A drain check where no job starts by itself and what stands behind it does nothing. -/
theorem runsTo_drainCheck_idle {r : RegionIx} {p : Part} {us : List Task} (hn : nothingStarts p)
    (h : ∀ u ∈ us, runTask u (drainChecked r p) = (drainChecked r p, [])) :
    RunsTo (us.length + 2) (.drainCheck r :: us) p (drainChecked r p) :=
  runsTo_drainCheck hn ⟨us.length, le_rfl, works_allIdle _ _ rfl h⟩

/-- The turn of a released line that no entry waits for. -/
theorem runTask_leave_noneWaits {claim : Option UpAddr} {p : Part}
    (h : ∀ x ∈ p.table, x.state = .waitingLine → claim ≠ some x.line) :
    ∀ u ∈ (claim.map Task.leave).toList, runTask u p = (p, []) := by
  cases claim with
  | none => simp
  | some a =>
    simp only [Option.map_some, Option.toList_some, List.mem_singleton, forall_eq]
    exact taskLeave_noneWaits fun x hx hl hs => h x hx hs (by rw [hl])

end Sys2Proof.Machine
end

section
/-! SUPPORT. REGION_RETIRE (R35 to R38, R136). -/

namespace Sys2Proof.Machine

/-! ## Records in order (R160) -/

theorem postAll_eq_posts (bs : List EventBody) (p : Part) : postAll bs p = p.posts bs := by
  induction bs generalizing p with
  | nil => rfl
  | cons b bs ih => exact (ih (post b p)).trans (by rw [post_eq_posts, posts_posts]; rfl)

theorem summary_postTo (u : EventUnit) (b : EventBody) : flagBit b &&& (postTo u b).summary = flagBit b := by
  unfold postTo
  split
  · ext i hi; simp; grind
  · ext i hi; simp; grind

theorem flag_kept {f s s' : BitVec 13} (h : f &&& s = f) (hs : s &&& s' = s) : f &&& s' = f := by
  rw [← h, BitVec.and_assoc, hs]

/-- What a queue and a summary keep, records posted first stay first. -/
theorem postsFirst_mono {u v w : EventUnit} {bs : List EventBody} (h : postsFirst u v bs) (hq : v.queue <+: w.queue)
    (hs : v.summary &&& w.summary = v.summary) : postsFirst u w bs :=
  ⟨fun hl => (h.1 hl).trans hq, fun b hb => flag_kept (h.2 b hb) hs⟩

theorem posts_keeps (bs : List EventBody) (u : EventUnit) :
    u.summary &&& (bs.foldl postTo u).summary = u.summary ∧ u.queue <+: (bs.foldl postTo u).queue := by
  induction bs generalizing u with
  | nil => exact ⟨by simp, List.prefix_refl _⟩
  | cons b bs ih =>
    obtain ⟨-, -, hs, hq⟩ := postTo_keeps u b
    obtain ⟨hs', hq'⟩ := ih (postTo u b)
    exact ⟨flag_kept hs hs', hq.trans hq'⟩

theorem postsFirst_posts (bs : List EventBody) (u : EventUnit) : postsFirst u (bs.foldl postTo u) bs := by
  induction bs generalizing u with
  | nil => exact ⟨fun _ => by simp, by simp⟩
  | cons b bs ih =>
    obtain ⟨hq, hf⟩ := ih (postTo u b)
    refine ⟨fun hl => ?_, fun x hx => ?_⟩
    · rw [List.length_cons] at hl
      have hroom := postTo_room u b (by omega)
      have hlen : (postTo u b).queue.length = u.queue.length + 1 := by rw [hroom]; simp
      have := hq (by omega)
      rw [hroom] at this
      rw [List.foldl_cons, hroom]
      have hseq : ∀ i, u.next + 1#16 + BitVec.ofNat 16 i = u.next + BitVec.ofNat 16 (i + 1) := fun i => by
        rw [BitVec.add_assoc, BitVec.ofNat_add, BitVec.add_comm (BitVec.ofNat 16 i)]
      simpa [List.mapIdx_cons, hseq] using this
    · rcases List.mem_cons.mp hx with rfl | hx
      · exact flag_kept (summary_postTo u x) (posts_keeps bs _).1
      · exact hf x hx

/-! ## The compare jobs on the region end (R136) -/

theorem jobsElsewhere_eq (r : RegionIx) (jobs : List Job) : jobs.filter (fun j => !isCompareOf r j) = jobsElsewhere r jobs := by
  refine List.filter_congr fun j _ => ?_
  unfold isCompareOf
  cases j.kind <;> rfl

theorem compareEnds_cons (r : RegionIx) (j : Job) (jobs : List Job) : compareEnds r (j :: jobs) =
    compareEnds r [j] ++ compareEnds r jobs := List.filterMap_append (l := [j]) (l' := jobs)

/-- COMPARE_DONE of a compare job. -/
def jobDone (j : Job) : Option EventBody :=
  match j.kind with
  | .compare c => some (compareDoneEvent c)
  | .catchUp _ => none

theorem jobsDone_eq (r : RegionIx) (jobs : List Job) : (jobs.filter (isCompareOf r)).filterMap jobDone = compareEnds r jobs := by
  induction jobs with
  | nil => rfl
  | cons j js ih =>
    rw [compareEnds_cons, ← ih]
    rcases j with ⟨kind, started⟩
    cases kind with
    | catchUp q => simp [isCompareOf, compareEnds]
    | compare c => by_cases hc : c.region = r <;> simp [isCompareOf, compareEnds, hc, compareDoneEvent, jobDone]

theorem endQueuedCompares_eq (r : RegionIx) (p : Part) : endQueuedCompares r p =
    { p with jobs := jobsElsewhere r p.jobs, events := (compareEnds r p.jobs).foldl postTo p.events } := by
  show ({ postAll ((p.jobs.filter (isCompareOf r)).filterMap jobDone) p with
    jobs := p.jobs.filter (fun j => !isCompareOf r j) } : Part) = _
  rw [jobsDone_eq, postAll_eq_posts, jobsElsewhere_eq]
  rfl

theorem noCompareOn_iff (r : RegionIx) (p : Part) : noCompareOn r p ↔ compareEnds r p.jobs = [] := by
  simp only [noCompareOn, compareEnds, List.filterMap_eq_nil_iff]
  refine forall_congr' fun j => imp_congr_right fun _ => ?_
  unfold isCompareOf
  cases j.kind <;> simp

/-- The entry is RETIRING. -/
def retiringNow (r : RegionIx) (p : Part) : Part := p.setRegion r { p.region r with state := .retiring }

/-- The entry is RETIRING and the compare jobs on it have ended, none of them running. -/
def retireBegun (r : RegionIx) (p : Part) : Part :=
  { retiringNow r p with
    jobs := jobsElsewhere r p.jobs, events := (compareEnds r p.jobs).foldl postTo p.events }

theorem retireFollowers_queued {r : RegionIx} {p : Part} (h : ∀ c, runningCompare p = some c → c.region ≠ r) :
    retireFollowers r (retiringNow r p) = (retireBegun r p, [.drainCheck r, .headStart]) := by
  have he : endComparesOf r (retiringNow r p) = (retiringNow r p, []) := by
    have hr : runningCompare (retiringNow r p) = runningCompare p := rfl
    unfold endComparesOf
    rw [hr]
    split
    · next c hc => rw [if_neg (by simpa using h c hc)]
    · rfl
  simp only [retireFollowers, he, endQueuedCompares_eq]
  rfl

theorem retireFollowers_running {r : RegionIx} {p : Part} {c : CompareJob} (h : runningCompare p = some c) (hc : c.region = r) :
    retireFollowers r (retiringNow r p) =
      ({ withdrawClaims (retireBegun r p) with lineClaim := none, window := windowLeft p },
        .drainCheck r :: .headStart :: (p.lineClaim.map Task.leave).toList) := by
  obtain ⟨js, hj⟩ := runningCompare_head h
  have he : endComparesOf r (retiringNow r p) = (jobEnded js (some (compareDoneEvent c)) (retiringNow r p),
      (p.lineClaim.map Task.leave).toList) := by
    have hr : runningCompare (retiringNow r p) = some c := h
    have ht : (retiringNow r p).jobs.tail = js := by
      show p.jobs.tail = js
      rw [hj]
      rfl
    unfold endComparesOf
    rw [hr, ht]
    dsimp only
    rw [if_pos (by simpa using hc), endRunning_eq]
    rfl
  have hends : compareEnds r p.jobs = compareDoneEvent c :: compareEnds r js := by
    rw [hj, compareEnds_cons]
    simp [compareEnds, hc, compareDoneEvent]
  have hrest : jobsElsewhere r p.jobs = jobsElsewhere r js := by
    rw [hj]
    simp [jobsElsewhere, hc]
  simp only [retireFollowers, he, endQueuedCompares_eq]
  rw [retireBegun, withdrawClaims_with, hends, hrest]
  rfl

theorem region_retireBegun (r : RegionIx) (p : Part) :
    (retireBegun r p).region r = { p.region r with state := .retiring } :=
  region_setRegion_self p r { p.region r with state := .retiring }

theorem noCompareOn_elsewhere {r : RegionIx} {p : Part} {jobs : List Job} (h : p.jobs = jobsElsewhere r jobs) :
    noCompareOn r p := by
  intro j hj
  rw [h, ← jobsElsewhere_eq] at hj
  simpa using (List.mem_filter.mp hj).2

/-- The part and the works that a retirement leaves before its drain check: the entry RETIRING, no compare job on it, their
records posted first. -/
theorem retireFollowers_spec (r : RegionIx) (p : Part) :
    ((retireFollowers r (retiringNow r p)).1.region r).state = .retiring ∧
    (retireFollowers r (retiringNow r p)).1.events = (compareEnds r p.jobs).foldl postTo p.events ∧
    noCompareOn r (retireFollowers r (retiringNow r p)).1 ∧
    ∀ u ∈ (retireFollowers r (retiringNow r p)).2, isCalmWork u = true := by
  by_cases h : ∃ c, runningCompare p = some c ∧ c.region = r
  · obtain ⟨c, h, hc⟩ := h
    have hw := withdrawClaims_only (retireBegun r p)
    rw [retireFollowers_running h hc]
    refine ⟨?_, by rw [hw.part]; rfl, noCompareOn_elsewhere (jobs := p.jobs) (by rw [hw.part]; rfl), ?_⟩
    · show ((withdrawClaims (retireBegun r p)).region r).state = _
      rw [(withdrawClaims_stores _).region, region_retireBegun]
    · cases p.lineClaim <;> simp [isCalmWork]
  · rw [retireFollowers_queued fun c hc hr => h ⟨c, hc, hr⟩]
    exact ⟨by rw [region_retireBegun], rfl, noCompareOn_elsewhere (jobs := p.jobs) rfl, by simp [isCalmWork]⟩

theorem endComparesOf_same (r : RegionIx) (p : Part) : sameOutside p (endComparesOf r p).1 := by
  unfold endComparesOf
  split
  · split
    · exact endRunning_same _ _ _
    · exact sameOutside_refl _
  · exact sameOutside_refl _

theorem retireFollowers_same (r : RegionIx) (p : Part) : sameOutside p (retireFollowers r p).1 :=
  sameOutside_trans (endComparesOf_same r p) (sameOutside_trans (postAll_same _ _) (jobs_same _ _))

/-! ## The statement -/

/-- A retirement whose works end at a part is answered with the state of the entry there. -/
theorem retire_replies {seq region reserved : Byte} {s : State} {r : RegionIx} {p' : Part} (h : takesCommand s seq)
    (hz : reserved = 0#8) (hr : regionOf region = some r) (hl : (s.part.region r).state = .live)
    (hp : settle (retireFollowers r (retiringNow r s.part)) = p') :
    repliesWith (.regionRetire seq region reserved) s seq 0x12#8 .ok [byte1 (regionStateCode (p'.region r).state)] p' := by
  refine repliesWith_of_run rfl h ?_
  have hrun : retireRegion r s.part = p' := hp
  simp [cmdRegionRetire, hz, hr, hl, hrun]

/-- With no job to start the retirement ends with its drain check. -/
theorem settle_retired {r : RegionIx} {p P : Part} {us : List Task}
    (ha : retireFollowers r (retiringNow r p) = (P, .drainCheck r :: us))
    (hl : us.length ≤ 2) (hn : nothingStarts P) (h : ∀ u ∈ us, runTask u (drainChecked r P) = (drainChecked r P, [])) :
    settle (retireFollowers r (retiringNow r p)) = drainChecked r P := by
  rw [ha]
  exact settle_of_runsTo (runsTo_drainCheck_idle hn h) (by omega)

theorem drainChecked_kept {r : RegionIx} {p : Part} (h : (p.region r).inFlight ≠ 0 ∨ windowOn p r = true) :
    drainChecked r p = p := by
  rw [drainChecked, if_neg]
  rintro ⟨-, h1, h2⟩
  simp [h1, h2] at h

theorem drainChecked_retired {r : RegionIx} {p : Part} (hs : (p.region r).state = .retiring) (hf : (p.region r).inFlight = 0)
    (hw : windowOn p r = false) : drainChecked r p = p.retired r := if_pos ⟨hs, hf, hw⟩

theorem region_retired (r : RegionIx) (p : Part) : (p.retired r).region r = Region.cleared :=
  region_setRegion_self p r Region.cleared

/-- Settles O42: the compare jobs on the region end first, and the drain check decides between RETIRING and FREE. -/
theorem regionRetireChecksAndEffect : Obligations.RegionRetireChecksAndEffect := by
  intro seq region reserved s h
  refine ⟨fun hb => ?_, fun r hz hr => ⟨fun hl => ?_, fun hl => ?_, fun p0 hl hp0 => ?_⟩⟩
  · refine repliesWith_of_run rfl h ?_
    rcases hb with hb | hb <;> simp [cmdRegionRetire, hb, refuse]
  · exact repliesWith_of_run rfl h (by simp [cmdRegionRetire, hz, hr, hl, refuse])
  · obtain ⟨hst, hev, hjobs, hcalm⟩ := retireFollowers_spec r s.part
    have hsub := settle_subsides hcalm
    have hsame := settle_same (retireFollowers r (retiringNow r s.part))
    have hout := sameOutside_trans (setRegion_same s.part r _) (retireFollowers_same r (retiringNow r s.part))
    refine ⟨_, retire_replies h hz hr hl rfl, ?_, sameOutside_trans hout hsame, ?_, ?_⟩
    · rcases hsub.state r with hs | ⟨-, hs⟩
      · exact .inl (hs.trans hst)
      · exact .inr hs
    · obtain ⟨-, -, -, -, -, -, -, -, -, hsum, hq, -⟩ := hsame
      rw [hev] at hsum hq
      exact postsFirst_mono (postsFirst_posts _ _) hq hsum
    · exact (noCompareOn_iff ..).mp (hsub.jobs r hjobs)
  · obtain rfl : p0 = retireBegun r s.part := hp0
    have hreg := region_retireBegun r s.part
    have hstate : ((retireBegun r s.part).region r).state = .retiring := by rw [hreg]
    have hflight : ((retireBegun r s.part).region r).inFlight = (s.part.region r).inFlight := by rw [hreg]
    refine ⟨fun hrun hn => ?_, fun c w hrun hc hw hwr hclaim => ?_⟩
    · have hset := settle_retired (retireFollowers_queued hrun) (by simp) hn
        fun u hu => by rw [List.mem_singleton.mp hu]; exact taskHeadStart_nothing (nothingStarts_drainChecked r hn)
      have hrep := retire_replies h hz hr hl hset
      refine ⟨fun hk => ?_, fun hf hwin => ?_⟩
      · have hk' : ((retireBegun r s.part).region r).inFlight ≠ 0 ∨ windowOn (retireBegun r s.part) r = true :=
          hk.imp (fun hk => by rwa [hflight]) id
        rw [drainChecked_kept hk', hstate] at hrep
        exact hrep
      · rw [drainChecked_retired hstate (hflight.trans hf) hwin, region_retired] at hrep
        exact hrep
    · have hwst := withdrawClaims_stores (retireBegun r s.part)
      have hset : ∀ wl, windowLeft s.part = wl → wl.isSome = true ∨ (retireBegun r s.part).jobs = [] →
          settle (retireFollowers r (retiringNow r s.part)) =
            drainChecked r { withdrawClaims (retireBegun r s.part) with lineClaim := none, window := wl } := by
        rintro _ rfl hn
        have hjobs : (withdrawClaims (retireBegun r s.part)).jobs = (retireBegun r s.part).jobs := by
          rw [(withdrawClaims_only _).part]
        have hn' : nothingStarts { withdrawClaims (retireBegun r s.part) with lineClaim := none, window := windowLeft s.part } :=
          hn.imp id fun hn => hjobs.trans hn
        refine settle_retired (retireFollowers_running hrun hc) (by cases s.part.lineClaim <;> simp) hn'
          (List.forall_mem_cons.mpr ⟨taskHeadStart_nothing (nothingStarts_drainChecked r hn'), runTask_leave_noneWaits ?_⟩)
        rw [table_drainChecked, show ({ withdrawClaims (retireBegun r s.part) with
          lineClaim := none, window := windowLeft s.part } : Part).table = s.part.table from hwst.table]
        exact hclaim
      have hregW : ∀ wl, (({ withdrawClaims (retireBegun r s.part) with lineClaim := none, window := wl } : Part).region r) =
          { s.part.region r with state := .retiring } := fun wl => (hwst.region r).trans hreg
      refine ⟨fun hin => ?_, fun hin hj => ?_⟩
      · have hwl : windowLeft s.part = some { w with phase := .closing, data := [], claims := [] } := by
          simp [windowLeft, hin, hw]
        have hrep := retire_replies h hz hr hl (hset _ hwl (.inl rfl))
        rw [drainChecked_kept (.inr (by simp [windowOn, hwr])), hregW] at hrep
        exact hrep
      · have hwl : windowLeft s.part = none := by simp [windowLeft, hin]
        have hrep := retire_replies h hz hr hl (hset _ hwl (.inr hj))
        refine ⟨fun hf => ?_, fun hf => ?_⟩
        · rw [drainChecked_kept (.inl (by rw [hregW]; exact hf)), hregW] at hrep
          exact hrep
        · rw [drainChecked_retired (by rw [hregW]) (by rw [hregW]; exact hf) rfl, region_retired] at hrep
          exact hrep

end Sys2Proof.Machine
end

section
/-! SUPPORT. Catch-up jobs at an idle engine: each starts in its turn (R119, R124, R126, R129, R130). -/

namespace Sys2Proof.Machine

/-! ## Queue and window set over the rest -/

/-- The part with another job queue and another window. -/
def engineAt (jobs : List Job) (window : Option Window) (p : Part) : Part := { p with jobs := jobs, window := window }

/-- A step that reads neither jobs nor window and changes neither. -/
def BesideEngine (f : Part → Part) : Prop := ∀ p jobs window, f (engineAt jobs window p) = engineAt jobs window (f p)

theorem besideEngine_foldl {α : Type} {f : Part → α → Part} (h : ∀ x, BesideEngine (fun p => f p x)) :
    ∀ l : List α, BesideEngine (fun p => l.foldl f p)
  | [] => fun _ _ _ => rfl
  | x :: xs => fun p jobs window =>
    (congrArg (fun y => xs.foldl f y) (h x p jobs window)).trans (besideEngine_foldl h xs (f p x) jobs window)

theorem takeCompletion_beside (q : Port) : BesideEngine (takeCompletion q) := by
  refine besideEngine_foldl (fun r p jobs window => ?_) allRegions
  have hm : mstate (engineAt jobs window p) r q = mstate p r q := rfl
  have hr : hasRunOf (engineAt jobs window p) q r = hasRunOf p q r := rfl
  dsimp only [completeAt]
  rw [hm, hr]
  split
  · split <;> rfl
  · rfl

theorem takeOutRejoining_beside (q : Port) (why : Reason) : BesideEngine (takeOutRejoining q why) := by
  refine besideEngine_foldl (fun r p jobs window => ?_) allRegions
  have hm : mstate (engineAt jobs window p) r q = mstate p r q := rfl
  dsimp only
  rw [hm]
  split <;> rfl

/-! ## A job that leaves with no claim waiting and nothing outstanding -/

theorem leaveRunning_eq (rest : List Job) (ev : Option EventBody) (p : Part) : leaveRunning rest ev p =
    (jobEnded rest ev p, (p.window.map (fun w => Task.drainCheck w.region)).toList ++
      (.headStart :: (p.lineClaim.map Task.leave).toList)) := by
  rw [leaveRunning, endRunning_eq]

theorem jobEnded_quiet (rest : List Job) (b : EventBody) {p : Part} (hw : ∀ w, p.window = some w → w.claims = [])
    (hin : copyInFlight p = 0) :
    jobEnded rest (some b) p = { post b p with lineClaim := none, jobs := rest, window := none } := by
  rw [jobEnded, withdrawClaims_none hw, windowLeft, if_pos hin]
  rfl

/-! ## The jobs in turn -/

/-- Catch-up jobs that wait, one for each port. -/
def waitingJobs (qs : List Port) : List Job := qs.map (fun q => { kind := .catchUp q, started := false })

/-- The catch-up job of a port runs, and others wait. -/
def runningFor (q : Port) (qs : List Port) : List Job := { kind := .catchUp q, started := true } :: waitingJobs qs

theorem jobsWithout_runningFor {q : Port} {qs : List Port} (h : q ∉ qs) (w : Option Window) (p : Part) :
    jobsWithout q (engineAt (runningFor q qs) w p) = waitingJobs qs := by
  have hne : ∀ q' ∈ qs, q' ≠ q := fun q' hq' hc => h (hc ▸ hq')
  simpa [jobsWithout, engineAt, runningFor, isCatchUp, waitingJobs] using hne

/-- The part holds no line claim, and awaits no outcome of a COPY transaction. -/
def nothingAwaited (p : Part) : Prop := p.lineClaim = none ∧ copyInFlight p = 0

theorem RegionsOnly.nothingAwaited {p p' : Part} (h : RegionsOnly p p') (hp : nothingAwaited p) : nothingAwaited p' := by
  refine ⟨h.lineClaim.trans hp.1, ?_⟩
  rw [h]
  exact hp.2

theorem post_only (b : EventBody) (p : Part) : RegionsOnly p (post b p) := rfl

/-- The end of the running job, with a window that holds no claim or without one (R120). -/
theorem leaveRunning_engineAt {p : Part} (hp : nothingAwaited p) (jobs rest : List Job) (b : EventBody) {window : Option Window}
    (hw : ∀ w, window = some w → w.claims = []) : leaveRunning rest (some b) (engineAt jobs window p) =
      (engineAt rest none (post b p), (window.map (fun w => Task.drainCheck w.region)).toList ++ [.headStart]) := by
  obtain ⟨hc, hin⟩ := hp
  rw [leaveRunning_eq, jobEnded_quiet rest b hw (show copyInFlight (engineAt jobs window p) = 0 from hin)]
  refine Prod.ext ?_ ?_
  · rw [← hc]
    rfl
  · show _ ++ (_ :: (p.lineClaim.map Task.leave).toList) = _
    rw [hc]
    rfl

/-- The first of the waiting jobs starts (R119). -/
theorem taskHeadStart_waiting (q : Port) (qs : List Port) (p : Part) :
    runTask .headStart (engineAt (waitingJobs (q :: qs)) none p) =
      (engineAt (runningFor q qs) none (post (copyStartedEvent q) p), [.selection q]) := rfl

/-- The running job finds no run: it is done, and the next head may start (R124, R130). -/
theorem taskSelection_noRun {q : Port} {qs : List Port} {p : Part} (hp : nothingAwaited p) (hq : q ∉ qs)
    (hs : selectRun p q = none) :
    runTask (.selection q) (engineAt (runningFor q qs) none p) =
      (engineAt (waitingJobs qs) none (post (copyDoneEvent q) (takeCompletion q p)), [.headStart]) := by
  have hs' : selectRun (engineAt (runningFor q qs) none p) q = none := hs
  show taskSelection q _ = _
  rw [taskSelection, hs', takeCompletion_beside, jobsWithout_runningFor hq]
  exact leaveRunning_engineAt ((takeCompletion_only q p).nothingAwaited hp) _ _ _ (by simp)

/-- The running job finds a run: its first line begins (R121, R124). -/
theorem taskSelection_run {q : Port} {p : Part} {x : Run} (jobs : List Job) (hs : selectRun p q = some x) :
    runTask (.selection q) (engineAt jobs none p) =
      (engineAt jobs (some (lineBegun (.catchUp q) p x.region x.first 0)) p, [.chooseSource q]) := by
  have hs' : selectRun (engineAt jobs none p) q = some x := hs
  show taskSelection q _ = _
  rw [taskSelection, hs']
  rfl

theorem taskChooseSource_noSource {q : Port} {p : Part} {w : Window} (hw : p.window = some w)
    (hs : balance p (usableSources p q w.region) = none) : taskChooseSource q p = abandonSource q p := by
  rw [usableSources_eq] at hs
  simp [taskChooseSource, hw, hs]

/-- No source for the line: the job is abandoned (R126, R129). -/
theorem taskChooseSource_none {q : Port} {qs : List Port} {p : Part} (hp : nothingAwaited p) {r : RegionIx} {e k : Nat}
    (hq : q ∉ qs) (hs : balance p (usableSources p q r) = none) :
    runTask (.chooseSource q) (engineAt (runningFor q qs) (some (lineBegun (.catchUp q) p r e k)) p) =
      (engineAt (waitingJobs qs) none (post (copyAbortedEvent q .source) (takeOutRejoining q .source p)),
        [.drainCheck r, .headStart]) := by
  have hrun : runTask (.chooseSource q) (engineAt (runningFor q qs) (some (lineBegun (.catchUp q) p r e k)) p) =
      abandonSource q (engineAt (runningFor q qs) (some (lineBegun (.catchUp q) p r e k)) p) := by
    have hw : (engineAt (runningFor q qs) (some (lineBegun (.catchUp q) p r e k)) p).window =
        some (lineBegun (.catchUp q) p r e k) := rfl
    exact taskChooseSource_noSource hw hs
  rw [hrun, abandonSource, takeOutRejoining_beside, jobsWithout_runningFor hq]
  exact leaveRunning_engineAt ((takeOutRejoining_only q .source p).nothingAwaited hp) _ _ _ (by simp [lineBegun])

theorem state_of_selectRun {p : Part} {q : Port} {x : Run} (h : selectRun p q = some x) : (p.region x.region).state = .live := by
  have := List.find?_some h
  simp only [Bool.and_eq_true, beq_iff_eq] at this
  exact this.1

theorem drained_engineAt_live {r : RegionIx} (jobs : List Job) (b : EventBody) (p : Part) (h : (p.region r).state = .live) :
    drained (engineAt jobs none (post b p)) r = false := by
  show ((p.region r).state == .retiring && _ && _) = false
  simp [h]

/-- A work that is no turn, with its outcome and a bound known. -/
theorem RunsTo.stepLt {n m : Nat} {t : Task} {ts us : List Task} {p p1 p' : Part} (h0 : workRank p t = 0) (hnm : n < m)
    (hr : runTask t p = (p1, us)) (h : RunsTo n (us ++ ts) p1 p') : RunsTo m (t :: ts) p p' :=
  (RunsTo.step h0 hr h).mono hnm

/-- Catch-up jobs that wait at an idle engine take their turns (R119). -/
theorem runsTo_catchUps {qs : List Port} (hn : qs.Nodup) {p : Part} (hp : nothingAwaited p) (hw : p.window = none)
    (hj : p.jobs = []) :
    RunsTo (5 * qs.length + 1) [.headStart] (engineAt (waitingJobs qs) none p) (catchUpsStarted qs p) := by
  induction qs generalizing p with
  | nil =>
    have he : engineAt (waitingJobs []) none p = p := by
      rw [engineAt, ← hw]
      show ({ p with jobs := [] } : Part) = p
      rw [← hj]
    rw [he]
    exact .idle rfl (taskHeadStart_noJob hj) (.nil p)
  | cons q qs ih =>
    obtain ⟨hq, hqs⟩ := List.nodup_cons.mp hn
    have hn' : nothingAwaited (post (copyStartedEvent q) p) := hp
    have hw' : (post (copyStartedEvent q) p).window = none := hw
    have hj' : (post (copyStartedEvent q) p).jobs = [] := hj
    rw [catchUpsStarted]
    refine RunsTo.stepLt (n := 5 * qs.length + 5) rfl (by simp; omega) (taskHeadStart_waiting q qs p) ?_
    generalize post (copyStartedEvent q) p = p at hn' hw' hj'
    split
    · next hs =>
      have honly := (takeCompletion_only q p).trans (post_only (copyDoneEvent q) _)
      exact RunsTo.stepLt rfl (by omega) (taskSelection_noRun hn' hq hs) (ih hqs (honly.nothingAwaited hn')
        (honly.window.trans hw') (honly.jobs.trans hj'))
    · next x hs =>
      refine RunsTo.stepLt (n := 5 * qs.length + 4) rfl (by omega) (taskSelection_run _ hs) ?_
      split
      · next hb =>
        have honly := (takeOutRejoining_only q .source p).trans (post_only (copyAbortedEvent q .source) _)
        have hst : ((takeOutRejoining q .source p).region x.region).state = .live :=
          ((takeOutRejoining_aside _ _ _).state _).trans (state_of_selectRun hs)
        refine RunsTo.stepLt (n := 5 * qs.length + 3) rfl (by omega) (taskChooseSource_none hn' hq hb) ?_
        exact RunsTo.stepLt rfl (by omega) (taskDrainCheck_kept _ _ (drained_engineAt_live _ _ _ hst))
          (ih hqs (honly.nothingAwaited hn') (honly.window.trans hw') (honly.jobs.trans hj'))
      · next src hb =>
        have hrun := taskChooseSource_begun (p := engineAt (runningFor q qs)
          (some (lineBegun (.catchUp q) p x.region x.first 0)) p) rfl hb
        exact RunsTo.stepLt (n := 0) rfl (by omega) hrun (.nil _)

end Sys2Proof.Machine
end

section
/-! SUPPORT. REGION_COMMIT: the entry it makes, the runs it inserts and the jobs it requests (R30 to R34, R119). -/

namespace Sys2Proof.Machine

/-! ## The memberships of the new entry (R33, R72) -/

/-- The first state of a copy by its port, with COPY. -/
def copyFirstAt (p : Part) (x : Region) (primary : Byte) (q : Port) : Option MState :=
  if x.mode = .mirror then some (if q.val = primary.toNat then .inService else copyState (p.port q).link) else none

theorem firstState_copy (p : Part) (x : Region) (primary : Byte) (m : Member) :
    firstState p x.mode .copy primary m = copyFirstAt p x primary m.port := by
  cases h : x.mode <;> simp [firstState, copyFirstAt, h]

/-- The part with the entry LIVE (R34 step 1). -/
def madeLive (r : RegionIx) (init : Init) (primary : Byte) (p : Part) : Part :=
  p.setRegion r (committed p (p.region r) init primary)

theorem mstate_madeLive (r : RegionIx) (primary : Byte) (p : Part) (q : Port) :
    mstate (madeLive r .copy primary p) r q =
      if (memberAt (p.region r) q).isSome = true then copyFirstAt p (p.region r) primary q else none := by
  have hu : inUse (committed p (p.region r) .copy primary) = true := rfl
  have hm : memberAt (committed p (p.region r) .copy primary) q = (memberAt (p.region r) q).map
      (fun m => { m with state := firstState p (p.region r).mode .copy primary m }) :=
    memberAt_map (g := fun m => { m with state := firstState p (p.region r).mode .copy primary m }) (fun _ => rfl)
      { p.region r with state := .live, alternate := none, inFlight := 0 } q
  simp only [mstate, madeLive, region_setRegion_self, hu, if_true, hm, Option.bind_map]
  cases hq : memberAt (p.region r) q with
  | none => rfl
  | some m =>
    show firstState p (p.region r).mode .copy primary m = _
    rw [firstState_copy, memberAt_port hq]
    rfl

theorem isStale_iff (st : Option MState) : isStale st ↔ st.isSome = true ∧ st ≠ some .inService := by
  rcases st with _ | st
  · simp [isStale]
  · cases st <;> simp [isStale]

/-- The copies to be written are those whose first state is not IN_SERVICE (R33). -/
theorem mem_stalePorts (r : RegionIx) (primary : Byte) (p : Part) (q : Port) :
    q ∈ stalePorts (committed p (p.region r) .copy primary) ↔ isStale (mstate (madeLive r .copy primary p) r q) := by
  have hmem : (memberAt (p.region r) q).isSome = true ↔ ∃ m ∈ (p.region r).members, m.port = q := by
    simp [memberAt, List.find?_isSome]
  rw [mstate_madeLive, stalePorts, List.mem_filter, and_iff_right (mem_allPorts q), List.any_eq_true]
  simp only [committed, List.mem_map, Bool.and_eq_true, beq_iff_eq, bne_iff_ne, firstState_copy]
  constructor
  · rintro ⟨-, ⟨m, hm, rfl⟩, ⟨hq, hs⟩, hi⟩
    dsimp only at hq hs hi
    subst hq
    rw [if_pos (hmem.mpr ⟨m, hm, rfl⟩), isStale_iff]
    exact ⟨hs, hi⟩
  · intro h
    by_cases hc : (memberAt (p.region r) q).isSome = true
    · rw [if_pos hc, isStale_iff] at h
      obtain ⟨m, hm, rfl⟩ := hmem.mp hc
      exact ⟨_, ⟨m, hm, rfl⟩, ⟨rfl, h.1⟩, h.2⟩
    · simp [hc, isStale] at h

/-! ## The runs over the whole region (R33, R106) -/

/-- The range of a whole region (R106). -/
def wholeRun (r : RegionIx) (p : Part) : Run := { region := r, first := 0, count := extentCount (p.region r) }

/-- Insertions of the whole region at distinct ports, each into the list as it stood before. -/
theorem foldl_insertRegion (r : RegionIx) {l : List Port} (hl : l.Nodup) (p : Part) :
    l.foldl (fun p q => insertRegion r q p) p = (setLists (fun q => insertedRuns (wholeRun r p) (p.divList q)) l p).posts
      (l.filterMap (fun q => coalescedRecord q (wholeRun r p) (p.divList q))) := by
  induction l generalizing p with
  | nil => rfl
  | cons q qs ih =>
    obtain ⟨hq, hqs⟩ := List.nodup_cons.mp hl
    have hins : insertRegion r q p = (p.setDivList q (insertedRuns (wholeRun r p) (p.divList q))).posts
        (coalescedRecord q (wholeRun r p) (p.divList q)).toList := insertRun_eq q (wholeRun r p) p
    have hrun : wholeRun r (insertRegion r q p) = wholeRun r p := by rw [hins]; rfl
    have hlist : ∀ q' ∈ qs, (insertRegion r q p).divList q' = p.divList q' := fun q' hq' => by
      have hne : q' ≠ q := fun hc => hq (hc ▸ hq')
      rw [hins, divList_posts, divList_setDivList_ne _ _ _ _ hne]
    rw [List.foldl_cons, ih hqs, hrun,
      setLists_congr (g := fun q => insertedRuns (wholeRun r p) (p.divList q)) (fun q' hq' => by rw [hlist q' hq']),
      List.filterMap_congr (g := fun q => coalescedRecord q (wholeRun r p) (p.divList q)) (fun q' hq' => by rw [hlist q' hq']),
      hins, setLists_posts, posts_posts, List.filterMap_cons]
    cases coalescedRecord q (wholeRun r p) (p.divList q) <;> rfl

theorem nodup_stalePorts (x : Region) : (stalePorts x).Nodup := List.Nodup.filter _ (by decide)

/-- The part with the entry LIVE and its runs inserted, before REGION_LIVE is posted (R34 steps 1 and 2). -/
def regionMade (r : RegionIx) (primary : Byte) (p : Part) : Part :=
  (stalePorts (committed p (p.region r) .copy primary)).foldl (fun p q => insertRegion r q p) (madeLive r .copy primary p)

section
variable (r : RegionIx) (primary : Byte) (p : Part)

/-- A stale copy's list after the commit. -/
def madeList (q : Port) : List Run := insertedRuns (wholeRun r (madeLive r .copy primary p)) (p.divList q)

/-- Beside the lists a commit posts what its insertions coalesce (R110). -/
theorem regionMade_eq : regionMade r primary p =
    (setLists (madeList r primary p) (stalePorts (committed p (p.region r) .copy primary)) (madeLive r .copy primary p)).posts
      ((stalePorts (committed p (p.region r) .copy primary)).filterMap fun q =>
        coalescedRecord q (wholeRun r (madeLive r .copy primary p)) (p.divList q)) :=
  foldl_insertRegion r (nodup_stalePorts _) _

/-- Only the region, the lists and the events of the part change. -/
theorem regionMade_only : regionMade r primary p = { madeLive r .copy primary p with
    lists := (regionMade r primary p).lists, events := (regionMade r primary p).events } := by
  rw [regionMade_eq, setLists_eq]
  rfl

theorem region_regionMade (r' : RegionIx) : (regionMade r primary p).region r' = (madeLive r .copy primary p).region r' := by
  rw [regionMade_only]
  rfl

theorem mstate_regionMade (r' : RegionIx) (q : Port) :
    mstate (regionMade r primary p) r' q = mstate (madeLive r .copy primary p) r' q := by
  rw [mstate, mstate, region_regionMade]

theorem divList_regionMade (q : Port) : (regionMade r primary p).divList q =
    if isStale (mstate (regionMade r primary p) r q) then madeList r primary p q else p.divList q := by
  rw [mstate_regionMade, regionMade_eq, divList_posts, setLists_divList]
  exact if_congr (mem_stalePorts r primary p q) rfl rfl

theorem events_regionMade (h : ∀ q, (p.divList q).length < 64) : (regionMade r primary p).events = p.events := by
  have hnil : (stalePorts (committed p (p.region r) .copy primary)).filterMap
      (fun q => coalescedRecord q (wholeRun r (madeLive r .copy primary p)) (p.divList q)) = [] :=
    List.filterMap_eq_nil_iff.mpr fun q _ => by rw [coalescedRecord, if_pos (.inl (h q))]
  rw [regionMade_eq, hnil, posts_nil, setLists_eq]
  rfl

end

/-! ## The catch-up jobs (R119) -/

/-- Requests for distinct ports: appended where no job for the port exists. -/
theorem foldl_requestCatchUp {l : List Port} (hl : l.Nodup) (p : Part) : l.foldl (fun p q => requestCatchUp q p) p =
    { p with jobs := p.jobs ++ waitingJobs (l.filter (fun q => !p.jobs.any (isCatchUp q))) } := by
  induction l generalizing p with
  | nil => simp [waitingJobs]
  | cons q qs ih =>
    obtain ⟨hq, hqs⟩ := List.nodup_cons.mp hl
    rw [List.foldl_cons, ih hqs]
    by_cases ha : p.jobs.any (isCatchUp q) = true
    · simp [requestCatchUp, ha]
    · have hother : ∀ q' ∈ qs, (!(requestCatchUp q p).jobs.any (isCatchUp q')) =
          !p.jobs.any (isCatchUp q') := fun q' hq' => by
        have hne : q ≠ q' := fun hc => hq (hc ▸ hq')
        simp [requestCatchUp, ha, isCatchUp, hne]
      rw [List.filter_congr hother]
      simp [requestCatchUp, ha, waitingJobs]

/-- The ports whose copies are to be rebuilt, ascending (R33). -/
def rebuildPorts (r : RegionIx) (p : Part) : List Port := allPorts.filter (fun q => mstate p r q == some .rejoining)

theorem nodup_rebuildPorts (r : RegionIx) (p : Part) : (rebuildPorts r p).Nodup := List.Nodup.filter _ (by decide)

theorem filter_stalePorts (r : RegionIx) (primary : Byte) (p : Part) :
    (stalePorts (committed p (p.region r) .copy primary)).filter
      (fun q => mstate (regionMade r primary p) r q == some .rejoining) = rebuildPorts r (regionMade r primary p) := by
  have hmem := mem_stalePorts r primary p
  simp only [← mstate_regionMade, stalePorts, List.mem_filter, mem_allPorts, true_and] at hmem
  rw [stalePorts, List.filter_filter]
  refine List.filter_congr fun q _ => ?_
  rw [Bool.and_eq_left_iff_imp]
  exact fun hr => (hmem q).mpr (.inl (by simpa using hr))

/-- The part with the record posted and the jobs requested, before any of them starts (R34, R119). -/
def jobsRequested (r : RegionIx) (primary : Byte) (p : Part) : Part :=
  { post { kind := .regionLive, region := some r } (regionMade r primary p) with
    jobs := p.jobs ++ waitingJobs ((rebuildPorts r (regionMade r primary p)).filter (fun q => !p.jobs.any (isCatchUp q))) }

theorem commitRegion_copy (r : RegionIx) (primary : Byte) (p : Part) : commitRegion r .copy primary p =
    settle (jobsRequested r primary p, if (rebuildPorts r (regionMade r primary p)).isEmpty then [] else [.headStart]) := by
  have hjobs : (post { kind := .regionLive, region := some r } (regionMade r primary p)).jobs = p.jobs := by
    rw [regionMade_only]
    rfl
  have hreq := foldl_requestCatchUp (nodup_rebuildPorts r (regionMade r primary p))
    (post { kind := .regionLive, region := some r } (regionMade r primary p))
  rw [hjobs, ← filter_stalePorts] at hreq
  rw [jobsRequested, ← filter_stalePorts, ← hreq]
  rfl

/-- Every copy of a MIRROR region is IN_SERVICE with TRUST: no run, no job (R32). -/
theorem commitRegion_trust (r : RegionIx) (primary : Byte) (p : Part) : commitRegion r .trust primary p =
    post { kind := .regionLive, region := some r } (p.setRegion r { p.region r with
      state := .live, alternate := none, inFlight := 0,
      members := (p.region r).members.map (fun m =>
        { m with state := if (p.region r).mode = .mirror then some .inService else none }) }) := by
  have hfirst : ∀ m, firstState p (p.region r).mode .trust primary m =
      if (p.region r).mode = .mirror then some .inService else none := fun m => by
    cases h : (p.region r).mode <;> rfl
  have hstale : stalePorts (committed p (p.region r) .trust primary) = [] := by
    refine List.filter_eq_nil_iff.mpr fun q _ => ?_
    simp only [committed, hfirst]
    split <;> simp
  rw [commitRegion, hstale]
  simp only [committed, hfirst]
  rfl

/-! ## The statement -/

/-- A commit whose parameters and five checks pass is carried out (R30). -/
theorem commit_replies {seq region init primary reserved : Byte} {s : State} {r : RegionIx} {i : Init} (h : takesCommand s seq)
    (hz : reserved = 0#8) (hr : regionOf region = some r) (hi : initOf init = some i)
    (hp : commitPasses s.part (s.part.region r) i primary) :
    repliesWith (.regionCommit seq region init primary reserved) s seq 0x11#8 .ok [] (commitRegion r i primary s.part) := by
  refine repliesWith_of_run rfl h ?_
  have hnone := (commitRefusal_none _ _ _ _).mpr hp
  simp [cmdRegionCommit, hz, hr, hi, hnone, done]

theorem initOf_none {b : Byte} (h : 1 < b.toNat) : initOf b = none := by
  have h0 : b ≠ 0#8 := fun hc => by simp [hc] at h
  have h1 : b ≠ 1#8 := fun hc => by simp [hc] at h
  rw [initOf, if_neg h0, if_neg h1]

/-- The status of a commit with one of the checks failing, the earliest of them (R30). -/
theorem commitRefusal_of {p : Part} {r : RegionIx} {i : Init} {primary : Byte} {st : Status}
    (h : ((p.region r).state ≠ .staged ∧ st = .badState) ∨
      ((p.region r).state = .staged ∧ ¬ commitFieldsFit (p.region r) ∧ st = .badValue) ∨
      ((p.region r).state = .staged ∧ commitFieldsFit (p.region r) ∧
        ¬ (upstreamClear p (p.region r) ∧ downstreamClear p (p.region r)) ∧ st = .overlap) ∨
      ((p.region r).state = .staged ∧ commitFieldsFit (p.region r) ∧
        upstreamClear p (p.region r) ∧ downstreamClear p (p.region r) ∧
        ¬ primaryFits (p.region r) i primary ∧ st = .badValue)) : commitRefusal p r i primary = some st := by
  classical
  rw [commitRefusal_eq]
  rcases h with ⟨h1, rfl⟩ | ⟨h1, h2, rfl⟩ | ⟨h1, h2, h3, rfl⟩ | ⟨h1, h2, h3, h4, h5, rfl⟩
  · rw [if_pos h1]
  · rw [if_neg (not_not.mpr h1), if_pos h2]
  · rw [if_neg (not_not.mpr h1), if_neg (not_not.mpr h2)]
    by_cases hu : upstreamClear p (p.region r)
    · rw [if_neg (not_not.mpr hu), if_pos fun hd => h3 ⟨hu, hd⟩]
    · rw [if_pos hu]
  · rw [if_neg (not_not.mpr h1), if_neg (not_not.mpr h2), if_neg (not_not.mpr h3), if_neg (not_not.mpr h4), if_pos h5]

/-- With the head held the jobs wait behind it (R119). -/
theorem commit_headHeld {r : RegionIx} {p : Part} (primary : Byte) (h : headHeld p) :
    commitRegion r .copy primary p = jobsRequested r primary p := by
  have hwin : (jobsRequested r primary p).window = p.window := by
    rw [jobsRequested, regionMade_only]
    rfl
  have hheld : headHeld (jobsRequested r primary p) := by
    refine h.imp (fun h => ?_) (fun h => by rwa [hwin])
    cases hj : p.jobs with
    | nil => simp [hj] at h
    | cons j js => simpa [jobsRequested, hj] using h
  rw [commitRegion_copy]
  split
  · rfl
  · exact settle_of_runsTo (.idle rfl (taskHeadStart_held hheld) (.nil _)) (by omega)

/-- At an idle engine the jobs take their turns (R119). -/
theorem commit_engineIdle {r : RegionIx} {p : Part} (primary : Byte) (h : engineIdle p) : commitRegion r .copy primary p =
    catchUpsStarted (rebuildPorts r (regionMade r primary p))
      (post { kind := .regionLive, region := some r } (regionMade r primary p)) := by
  obtain ⟨hj, hw, hc, hin⟩ := h
  have hj' : (post { kind := .regionLive, region := some r } (regionMade r primary p)).jobs = [] := by
    rw [regionMade_only]
    exact hj
  have hw' : (post { kind := .regionLive, region := some r } (regionMade r primary p)).window = none := by
    rw [regionMade_only]
    exact hw
  have hn' : nothingAwaited (post { kind := .regionLive, region := some r } (regionMade r primary p)) := by
    rw [regionMade_only]
    exact ⟨hc, hin⟩
  have hreq : jobsRequested r primary p = engineAt (waitingJobs (rebuildPorts r (regionMade r primary p))) none
      (post { kind := .regionLive, region := some r } (regionMade r primary p)) := by
    rw [engineAt, ← hw', jobsRequested, hj]
    simp
  have hrun := runsTo_catchUps (nodup_rebuildPorts r (regionMade r primary p)) hn' hw' hj'
  have hlen : (rebuildPorts r (regionMade r primary p)).length ≤ 4 := by
    simpa using (nodup_rebuildPorts r (regionMade r primary p)).length_le_card
  rw [← hreq] at hrun
  rw [commitRegion_copy]
  split
  · next he =>
    rw [List.isEmpty_iff] at he
    rw [he] at hreq ⊢
    rw [hreq, catchUpsStarted, engineAt, ← hw']
    show ({ post { kind := .regionLive, region := some r } (regionMade r primary p) with jobs := [] } : Part) = _
    rw [← hj']
  · exact settle_of_runsTo hrun (by omega)

theorem regionMade_same (r : RegionIx) (primary : Byte) (p : Part) : sameOutside p (regionMade r primary p) :=
  sameOutside_trans (setRegion_same _ _ _) (foldl_same _ (fun p q => insertRun_same q _ p) _ _)

theorem commitRegion_same (r : RegionIx) (primary : Byte) (p : Part) : sameOutside p (commitRegion r .copy primary p) := by
  rw [commitRegion_copy]
  exact sameOutside_trans (regionMade_same r primary p) (sameOutside_trans (post_same _ _)
    (sameOutside_trans (jobs_same _ _) (settle_same (jobsRequested r primary p, _))))

/-- Settles O41: the checks in order, then the entry, its runs, the record and the jobs. -/
theorem regionCommitChecksAndEffect : Obligations.RegionCommitChecksAndEffect := by
  intro seq region init primary reserved s h
  refine ⟨fun hb => ?_, fun r i hz hr hi => ⟨fun st hst => ?_, fun hp ht => ?_, fun hp hc => ?_⟩⟩
  · refine repliesWith_of_run rfl h ?_
    rcases hb with hb | hb | hb
    · simp [cmdRegionCommit, hb, refuse]
    · simp [cmdRegionCommit, hb, refuse]
    · simp [cmdRegionCommit, initOf_none hb, refuse]
  · refine repliesWith_of_run rfl h ?_
    simp [cmdRegionCommit, hz, hr, hi, commitRefusal_of hst, refuse]
  · subst ht
    have hrep := commit_replies h hz hr hi hp
    rwa [commitRegion_trust] at hrep
  · subst hc
    have honly := regionMade_only r primary s.part
    have hsize : ((madeLive r .copy primary s.part).region r).size = (s.part.region r).size := by
      rw [madeLive, region_setRegion_self]
      rfl
    refine ⟨_, regionMade r primary s.part, _, commit_replies h hz hr hi hp, commitRegion_same .., rfl,
      events_regionMade r primary s.part, ?_, fun r' hne => ?_, fun q => ?_, fun q hq => ?_, fun q hq => ?_,
      by rw [honly]; rfl, by rw [honly]; rfl, by rw [honly]; rfl, by rw [honly]; rfl, by rw [honly]; rfl,
      fun hh => ?_, commit_engineIdle primary⟩
    · rw [region_regionMade, madeLive, region_setRegion_self]
    · rw [region_regionMade, madeLive, region_setRegion, if_neg hne]
    · rw [mstate_regionMade, mstate_madeLive]
      by_cases hm : (memberAt (s.part.region r) q).isSome = true
      · simp [hm, copyFirstAt]
      · simp [hm]
    · obtain ⟨y, hy, hreg, hfirst, hstop⟩ :=
        insertedRuns_holds (wholeRun r (madeLive r .copy primary s.part)) (s.part.divList q)
      refine ⟨y, by rw [divList_regionMade, if_pos hq]; exact hy, hreg, Nat.le_zero.mp hfirst, ?_⟩
      simpa [wholeRun, Run.stop, extentCount, hsize, Config.extentsPerGranule] using hstop
    · rw [divList_regionMade, if_neg hq]
    · rw [commit_headHeld primary hh, jobsRequested, rebuildPorts, List.filter_filter]
      simp only [Bool.and_comm]
      rfl

end Sys2Proof.Machine
end

section
/-! SUPPORT. How a catch-up line ends: reports, the job that leaves, the selection of the next run (R120, R124, R128 to R130). -/

namespace Sys2Proof.Machine

/-! ## A completion claim (R73) -/

theorem mstate_setMState_of {r : RegionIx} {q : Port} {st : MState} {p : Part} (h : mstate p r q = some st) (st' : MState)
    (r' : RegionIx) (q' : Port) :
    mstate (setMState r q st' p) r' q' = if r' = r ∧ q' = q then some st' else mstate p r' q' := by
  rw [mstate_setMState]
  refine if_congr Iff.rfl ?_ rfl
  dsimp only [mstate] at h
  split at h
  · next hu =>
    obtain ⟨m, hm, -⟩ := Option.bind_eq_some_iff.mp h
    rw [if_pos hu, hm]
    rfl
  · simp at h

/-- What a completion makes of a REJOINING membership (R73). -/
def completedState (p : Part) (q : Port) (r : RegionIx) : Option MState :=
  if hasRunOf p q r = true then some .detached else some .inService

theorem mstate_completeAt (q : Port) (p : Part) (r r' : RegionIx) (q' : Port) :
    mstate (completeAt q p r) r' q' =
      if (r' = r ∧ q' = q) ∧ mstate p r q = some .rejoining then completedState p q r else mstate p r' q' := by
  unfold completeAt completedState
  by_cases h : mstate p r q = some .rejoining
  · rw [if_pos (by simp [h])]
    by_cases hr : hasRunOf p q r = true
    · simp only [hr, if_true, mstate_setMState_of h, h, and_true]
    · simp only [hr, if_false, Bool.false_eq_true, mstate_post, mstate_setMState_of h, h, and_true]
  · simp [h]

theorem completedState_completeAt (q : Port) (p : Part) (r r' : RegionIx) :
    completedState (completeAt q p r) q r' = completedState p q r' := by
  unfold completedState hasRunOf
  rw [(completeAt_only q p r).divList]

theorem mstate_takeCompletion (q : Port) (p : Part) (r' : RegionIx) (q' : Port) : mstate (takeCompletion q p) r' q' =
    if q' = q ∧ mstate p r' q = some .rejoining then completedState p q r' else mstate p r' q' := by
  have hne : ∀ p r', completedState p q r' ≠ some .rejoining := fun p r' => by
    unfold completedState
    split <;> simp
  have key : ∀ (l : List RegionIx) (p : Part), mstate (l.foldl (completeAt q) p) r' q' =
      if q' = q ∧ r' ∈ l ∧ mstate p r' q = some .rejoining then completedState p q r' else mstate p r' q' := fun l => by
    induction l with
    | nil => simp
    | cons r rs ih =>
      intro p
      rw [List.foldl_cons, ih, completedState_completeAt, mstate_completeAt, mstate_completeAt]
      by_cases hr : r' = r
      · subst hr
        by_cases hm : mstate p r' q = some .rejoining
        · by_cases hq : q' = q
          · simp [hq, hm, hne]
          · simp [hq]
        · simp [hm]
      · simp [hr]
  rw [takeCompletion, key]
  exact if_congr (by simp [mem_allRegions]) rfl rfl

/-! ## The part after a report -/

/-- From `p` to `p'` memberships and events change, and jobs may leave. -/
structure Reported (p p' : Part) : Prop where
  part : p' = { p with regions := p'.regions, events := p'.events, jobs := p'.jobs }
  jobs : p'.jobs ⊆ p.jobs
  aside : Aside p p'

theorem Reported.refl (p : Part) : Reported p p := ⟨rfl, List.Subset.refl _, .refl p⟩

theorem reportTaken_reported (r : RegionIx) (q : Port) (why : Reason) (line : Option UpAddr) (p : Part) :
    Reported p (reportTaken r q why line p) := by
  obtain ⟨events, h⟩ := reportTaken_eq r q why line p
  refine ⟨?_, ?_, reportTaken_aside r q why line p⟩
  · have honly := takeReport_only r q why line p
    rw [h]
    generalize takeReport r q why line p = A at honly
    rw [honly]
  · rw [h]
    dsimp only
    split
    · exact List.filter_subset_self _
    · exact List.Subset.refl _

section
variable {p p' : Part} (h : Reported p p')
include h

theorem Reported.window : p'.window = p.window := by rw [h.part]
theorem Reported.table : p'.table = p.table := by rw [h.part]
theorem Reported.lineClaim : p'.lineClaim = p.lineClaim := by rw [h.part]
theorem Reported.inFlight : copyInFlight p' = copyInFlight p := by rw [h.part]; rfl
theorem Reported.noneHeld (hn : claimHoldsNone p) : claimHoldsNone p' := by
  rw [claimHoldsNone, h.table, h.lineClaim]
  exact hn

/-- The one job of the engine is the target's. -/
theorem Reported.jobsWithout {t : Port} (hj : p.jobs = [{ kind := .catchUp t, started := true }]) : jobsWithout t p' = [] := by
  refine List.filter_eq_nil_iff.mpr fun j hm => ?_
  have := h.jobs hm
  rw [hj, List.mem_singleton] at this
  simp [this, isCatchUp]

end

theorem RegionsOnly.inFlight {p p' : Part} (h : RegionsOnly p p') : copyInFlight p' = copyInFlight p := by rw [h]; rfl

/-! ## The running job leaves (R120) -/

/-- The last job leaves, with a window without claims and nothing outstanding: the drain check of its region follows, and no
entry has waited for a line that the engine gave up. -/
theorem runsTo_jobLeaves {u : Task} {claim : Option UpAddr} {P A : Part} {b : EventBody} {w : Window} (h0 : workRank P u = 0)
    (hu : runTask u P = leaveRunning [] (some b) A) (hw : A.window = some w) (hc : w.claims = []) (hin : copyInFlight A = 0)
    (hl : claimHoldsNone A) (hcl : ∀ x ∈ A.table, x.state = .waitingLine → claim ≠ some x.line) :
    RunsTo 8 (u :: (claim.map Task.leave).toList) P
      (drainChecked w.region { post b A with jobs := [], window := none, lineClaim := none }) := by
  rw [leaveRunning_eq, hw, jobEnded_quiet [] b (fun w' hw' => by rw [hw] at hw'; obtain rfl := Option.some.inj hw'; exact hc) hin]
    at hu
  have hn : nothingStarts { post b A with lineClaim := none, jobs := [], window := none } := .inr rfl
  have hidle : ∀ v ∈ Task.headStart :: ((A.lineClaim.map Task.leave).toList ++ (claim.map Task.leave).toList),
      runTask v (drainChecked w.region { post b A with lineClaim := none, jobs := [], window := none }) =
        (drainChecked w.region { post b A with lineClaim := none, jobs := [], window := none }, []) := by
    refine List.forall_mem_cons.mpr ⟨taskHeadStart_nothing (nothingStarts_drainChecked _ hn), fun v hv => ?_⟩
    rcases List.mem_append.mp hv with hv | hv
    · exact runTask_leave_noneWaits (by rw [table_drainChecked]; exact hl) v hv
    · exact runTask_leave_noneWaits (by rw [table_drainChecked]; exact hcl) v hv
  have hlen : ∀ o : Option UpAddr, (o.map Task.leave).toList.length ≤ 1 := fun o => by cases o <;> simp
  have hrun := runsTo_drainCheck_idle hn hidle
  refine RunsTo.stepLt h0 ?_ hu hrun
  have := hlen A.lineClaim
  have := hlen claim
  simp only [List.length_cons, List.length_append]
  omega

/-! ## A line that is done (R128) -/

theorem taskLineDone_eq {t : Port} {w : Window} {p : Part} (hw : p.window = some w) (hj : w.job = .catchUp t)
    (hp : w.phase ≠ .closing) : taskLineDone t p =
      ((nextCatchUpLine t w { p with lineClaim := none }).1,
        (nextCatchUpLine t w { p with lineClaim := none }).2 ++ (p.lineClaim.map Task.leave).toList) := by
  have hcw : isCatchUpWindow t w = true := by simp [isCatchUpWindow, hj, hp]
  have hr : releaseLineClaim p = ({ p with lineClaim := none }, (p.lineClaim.map Task.leave).toList) := by
    rw [← releaseLineClaim_fst]
    unfold releaseLineClaim
    cases p.lineClaim <;> rfl
  unfold taskLineDone
  split
  · next h => simp [hw] at h
  · next w' hw' =>
    obtain rfl : w = w' := Option.some.inj (hw.symm.trans hw')
    rw [if_pos hcw, hr]

theorem nextCatchUpLine_last {t : Port} {w : Window} (p : Part) (h : w.lineNo = 1023) :
    nextCatchUpLine t w p = (removeExtent t w.region w.extent p, [.selection t]) := by
  simp [nextCatchUpLine, h, Config.linesPerExtent]

theorem nextCatchUpLine_retiring {t : Port} {w : Window} {p : Part} (hk : w.lineNo < 1023)
    (hs : (p.region w.region).state = .retiring) : nextCatchUpLine t w p = (p, [.selection t]) := by
  have hl : w.lineNo + 1 < Config.linesPerExtent := Nat.succ_lt_succ hk
  simp [nextCatchUpLine, hl, hs]

/-- The next line of the extent, whose entry nobody has waited for (R126, R128). -/
theorem runsTo_lineDone_next {t src : Port} {w : Window} {p : Part} (hw : p.window = some w) (hj : w.job = .catchUp t)
    (hp : w.phase ≠ .closing) (hk : w.lineNo + 1 < 1024) (hlive : (p.region w.region).state = .live)
    (hsrc : balance p (usableSources p t w.region) = some src) (hn : claimHoldsNone p) :
    RunsTo 4 [.lineDone t] p { p with
      lineClaim := none, window := some (lineWindow p t src w.region w.extent (w.lineNo + 1) 0) } := by
  have hst := startLine_sameRegion (job := .catchUp t) (p := { p with lineClaim := none }) (k := w.lineNo + 1) hw (by omega)
  have hnext : nextCatchUpLine t w { p with lineClaim := none } = ({ p with
      lineClaim := none, window := some (lineBegun (.catchUp t) p w.region w.extent (w.lineNo + 1)) }, [.chooseSource t]) := by
    have hl : w.lineNo + 1 < Config.linesPerExtent := hk
    have hlv : (({ p with lineClaim := none } : Part).region w.region).state = .live := hlive
    rw [nextCatchUpLine, if_pos hl, if_pos (by simp [hlv]), hst]
    rfl
  have hrun : runTask (.lineDone t) p = ({ p with
      lineClaim := none, window := some (lineBegun (.catchUp t) p w.region w.extent (w.lineNo + 1)) },
      .chooseSource t :: (p.lineClaim.map Task.leave).toList) := by
    show taskLineDone t p = _
    rw [taskLineDone_eq hw hj hp, hnext]
    rfl
  have hchoose := taskChooseSource_begun (t := t) (src := src) (r := w.region) (e := w.extent) (k := w.lineNo + 1)
    (p := { p with lineClaim := none, window := some (lineBegun (.catchUp t) p w.region w.extent (w.lineNo + 1)) }) rfl hsrc
  refine RunsTo.stepLt (n := 3) rfl (by omega) hrun ?_
  refine RunsTo.stepLt (n := 2) rfl (by omega) hchoose ?_
  show RunsTo 2 ((p.lineClaim.map Task.leave).toList ++ []) _ _
  rw [List.append_nil]
  exact ⟨(p.lineClaim.map Task.leave).toList.length, by cases p.lineClaim <;> simp,
    works_allIdle _ _ rfl (runTask_leave_noneWaits hn)⟩

/-! ## A selection (R124) -/

theorem drainChecked_withWindow {r : RegionIx} {p : Part} {w w' : Window} (h : w'.region = w.region) :
    { drainChecked r { p with window := some w } with window := some w' } = drainChecked r { p with window := some w' } := by
  have hon : windowOn { p with window := some w' } r = windowOn { p with window := some w } r := by simp [windowOn, h]
  unfold drainChecked
  rw [hon]
  show _ = if (p.region r).state = .retiring ∧ (p.region r).inFlight = 0 ∧ windowOn { p with window := some w } r = false
    then _ else _
  by_cases hc : (p.region r).state = .retiring ∧ (p.region r).inFlight = 0 ∧ windowOn { p with window := some w } r = false
  · rw [if_pos hc]
    exact congrArg (fun x : Part => { x with window := some w' }) (if_pos hc)
  · rw [if_neg hc]
    exact congrArg (fun x : Part => { x with window := some w' }) (if_neg hc)

theorem window_drainChecked (r : RegionIx) (p : Part) : (drainChecked r p).window = p.window := by
  unfold drainChecked
  split <;> rfl

/-- A drain check leaves a LIVE region and its copies as they are (R37). -/
theorem region_drainChecked_live {r r' : RegionIx} {p : Part} (h : (p.region r').state = .live) :
    (drainChecked r p).region r' = p.region r' := by
  unfold drainChecked
  split
  · next hc =>
    refine region_retired_ne p fun he => ?_
    rw [he, hc.1] at h
    simp at h
  · rfl

theorem ports_drainChecked (r : RegionIx) (p : Part) : (drainChecked r p).ports = p.ports := by
  unfold drainChecked
  split <;> rfl

/-- The usable sources and their order depend on the region and on the ports alone. -/
theorem balance_sources_congr {p p' : Part} {t : Port} {r : RegionIx} (hr : p'.region r = p.region r)
    (hp : p'.ports = p.ports) : balance p' (usableSources p' t r) = balance p (usableSources p t r) := by
  have hport : ∀ q, p'.port q = p.port q := fun q => by simp only [Part.port, hp]
  have hm : ∀ q, mstate p' r q = mstate p r q := fun q => by simp only [mstate, hr]
  have hu : usableSources p' t r = usableSources p t r := by simp only [usableSources, hm, portDown, hport]
  have hb : balanceBefore p' = balanceBefore p := by funext a b; simp only [balanceBefore, hport]
  rw [hu]
  simp only [balance, hb]

theorem lineWindow_congr {p p' : Part} {r : RegionIx} (hr : p'.region r = p.region r) (t src : Port) (e k o : Nat) :
    lineWindow p' t src r e k o = lineWindow p t src r e k o := by simp only [lineWindow, hr]

theorem lineBegun_congr {p p' : Part} {r : RegionIx} (hr : p'.region r = p.region r) (job : WindowJob) (e k : Nat) :
    lineBegun job p' r e k = lineBegun job p r e k := by simp only [lineBegun, hr]

/-- The start of a line that is another one than the window's (R121). -/
theorem startLine_other {job : WindowJob} {w : Window} {r : RegionIx} {e k : Nat} {p : Part} (hw : p.window = some w)
    (hk : w.lineNo ≠ k ∨ w.region ≠ r) :
    startLine job r e k p =
      (p.setWindow (some (lineBegun job p r e k)), if w.region = r then [] else [.drainCheck w.region]) := by
  have hb : (w.region == r && w.extent == e && w.lineNo == k) = false := by
    rcases hk with hk | hk <;> simp [hk]
  simp [startLine, hw, hb, lineBegun]

/-- The source of a line just begun, after the drain check of the region that the window has left. -/
theorem runsTo_chooseSource_drained {t src : Port} {r r' : RegionIx} {e : Nat} {claim : Option UpAddr} {p : Part}
    (hlive : (p.region r').state = .live) (hb : balance p (usableSources p t r') = some src)
    (hcl : ∀ x ∈ p.table, x.state = .waitingLine → claim ≠ some x.line) :
    RunsTo 2 (.chooseSource t :: (claim.map Task.leave).toList)
      (drainChecked r (p.setWindow (some (lineBegun (.catchUp t) p r' e 0))))
      (drainChecked r { p with window := some (lineWindow p t src r' e 0 0) }) := by
  have hreg : (drainChecked r (p.setWindow (some (lineBegun (.catchUp t) p r' e 0)))).region r' = p.region r' :=
    region_drainChecked_live (p := p.setWindow (some (lineBegun (.catchUp t) p r' e 0))) hlive
  have hports : (drainChecked r (p.setWindow (some (lineBegun (.catchUp t) p r' e 0)))).ports = p.ports :=
    ports_drainChecked r (p.setWindow (some (lineBegun (.catchUp t) p r' e 0)))
  have hwin : (drainChecked r (p.setWindow (some (lineBegun (.catchUp t) p r' e 0)))).window =
      some (lineBegun (.catchUp t) (drainChecked r (p.setWindow (some (lineBegun (.catchUp t) p r' e 0)))) r' e 0) := by
    rw [window_drainChecked, lineBegun_congr hreg]
    rfl
  have hrun := taskChooseSource_begun hwin ((balance_sources_congr hreg hports).trans hb)
  rw [lineWindow_congr hreg] at hrun
  have hset : (drainChecked r (p.setWindow (some (lineBegun (.catchUp t) p r' e 0)))).setWindow
      (some (lineWindow p t src r' e 0 0)) = drainChecked r { p with window := some (lineWindow p t src r' e 0 0) } :=
    drainChecked_withWindow (w := lineBegun (.catchUp t) p r' e 0) rfl
  rw [hset] at hrun
  refine RunsTo.stepLt (n := 1) rfl (by omega) hrun ⟨(claim.map Task.leave).toList.length, by cases claim <;> simp,
    works_allIdle _ _ rfl (runTask_leave_noneWaits ?_)⟩
  rw [table_drainChecked]
  exact hcl

/-- A selection finds a run: its first line begins, the region that the window leaves is drained if it can be, and a source is
chosen (R37, R124, R126). -/
theorem runsTo_selection_run {t src : Port} {x : Run} {w : Window} {claim : Option UpAddr} {p : Part} (hw : p.window = some w)
    (hk : w.lineNo ≠ 0 ∨ w.region ≠ x.region) (hs : selectRun p t = some x)
    (hb : balance p (usableSources p t x.region) = some src)
    (hcl : ∀ x ∈ p.table, x.state = .waitingLine → claim ≠ some x.line) :
    RunsTo 8 (.selection t :: (claim.map Task.leave).toList) p
      (drainChecked w.region { p with window := some (lineWindow p t src x.region x.first 0 0) }) := by
  have hsel : runTask (.selection t) p = (p.setWindow (some (lineBegun (.catchUp t) p x.region x.first 0)),
      (if w.region = x.region then [] else [.drainCheck w.region]) ++ [.chooseSource t]) := by
    show taskSelection t p = _
    rw [taskSelection, hs]
    dsimp only
    rw [startLine_other hw hk]
  have hchoose := runsTo_chooseSource_drained (r := w.region) (e := x.first) (state_of_selectRun hs) hb hcl
  refine RunsTo.stepLt (n := 6) rfl (by omega) hsel ?_
  by_cases hr : w.region = x.region
  · have hkept : drainChecked w.region (p.setWindow (some (lineBegun (.catchUp t) p x.region x.first 0))) =
        p.setWindow (some (lineBegun (.catchUp t) p x.region x.first 0)) :=
      drainChecked_kept (.inr (by simp [windowOn, hr, Part.setWindow, lineBegun]))
    rw [hkept] at hchoose
    rw [if_pos hr]
    exact hchoose.mono (by omega)
  · rw [if_neg hr]
    exact (runsTo_drainCheck (.inl rfl) hchoose).mono (by omega)

end Sys2Proof.Machine
end

section
/-! SUPPORT. The statement about the ends of catch-up lines (O26). -/

namespace Sys2Proof.Machine

/-! ## The outcome is taken -/

/-- The oldest COPY outcome of a port is taken from the part of `s`, which leaves `p` (log 27). -/
structure OutcomeTaken (q : Port) (h : Handed) (s : State) (p : Part) : Prop where
  running : s.part.porst = false
  taken : ∃ rest, takeFirst (fun h => h.port == q && isCopy h.origin) s.part.handed = some (h, rest) ∧
    p = { s.part with handed := rest }

section
variable {q : Port} {h : Handed} {s : State} {p : Part} (ht : OutcomeTaken q h s p)
include ht

theorem OutcomeTaken.part : ∃ rest, p = { s.part with handed := rest } := by
  obtain ⟨-, rest, -, hp⟩ := ht
  exact ⟨rest, hp⟩

theorem OutcomeTaken.origin : ∃ part, h.origin = .copy part := by
  obtain ⟨-, rest, htake, -⟩ := ht
  obtain ⟨pre, post, -, -, hf, -⟩ := takeFirst_spec _ _ _ _ htake
  rcases hor : h.origin with tag | part
  · simp [hor, isCopy, isHost] at hf
  · exact ⟨part, rfl⟩

/-- A COPY outcome's works, with their end known. -/
theorem OutcomeTaken.leaves {part : CopyPart} {p' : Part} (ho : h.origin = .copy part)
    (hr : RunsTo 64 (takeCopyOutcome part q h.result p).2 (takeCopyOutcome part q h.result p).1 p') :
    leavesPart (.copyOutcome q) s p' := by
  obtain ⟨hs, rest, htake, rfl⟩ := ht
  have hx := exec_copyOutcome hs htake ho
  rwa [settle_of_runsTo hr (by omega)] at hx

theorem OutcomeTaken.region (r : RegionIx) : p.region r = s.part.region r := by
  obtain ⟨rest, rfl⟩ := ht.part
  rfl

theorem OutcomeTaken.window : p.window = s.part.window := by
  obtain ⟨rest, rfl⟩ := ht.part
  rfl

theorem OutcomeTaken.jobs : p.jobs = s.part.jobs := by
  obtain ⟨rest, rfl⟩ := ht.part
  rfl

theorem OutcomeTaken.noneHeld (hn : claimHoldsNone s.part) : claimHoldsNone p := by
  obtain ⟨rest, rfl⟩ := ht.part
  exact hn

theorem OutcomeTaken.waits {r : RegionIx} (hw : reportWaits s.part r q) : reportWaits p r q := by
  obtain ⟨rest, rfl⟩ := ht.part
  exact hw

end

/-- The result is a failure with this reason (R85). -/
def failedFor (result : TxnResult) (why : Reason) : Prop := result = .error ∧ why = .media ∨ result = .failed why

theorem takeCopyOutcome_failed {result : TxnResult} {why : Reason} (h : failedFor result why) (part : CopyPart) (q : Port)
    (p : Part) : takeCopyOutcome part q result p = (p, [.copyFailed part q why]) := by
  rcases h with ⟨rfl, rfl⟩ | rfl <;> rfl

theorem isCatchUpWindow_of {t : Port} {w : Window} (hj : w.job = .catchUp t) (hp : w.phase ≠ .closing) :
    isCatchUpWindow t w = true := by simp [isCatchUpWindow, hj, hp]

section
variable {p : Part} {w : Window} (hw : p.window = some w)
include hw

theorem copyOk_closing (hp : w.phase = .closing) (part : CopyPart) (q : Port) (d : LineData) :
    copyOk part q d p = (p, [.closeCheck]) := by simp [copyOk, hw, hp]

theorem copyFailed_closing (hp : w.phase = .closing) (part : CopyPart) (q : Port) (why : Reason) :
    runTask (.copyFailed part q why) p = (p, [.report w.region q why (some w.addr), .closeCheck]) := by
  simp [runTask, taskCopyFailed, hw, hp]

theorem closeCheck_awaited (hin : copyInFlight p ≠ 0) : runTask .closeCheck p = (p, []) := by
  simp [runTask, taskCloseCheck, hw, hin]

theorem closeCheck_done (hp : w.phase = .closing) (hin : copyInFlight p = 0) :
    runTask .closeCheck p = ({ p with window := none }, [.drainCheck w.region, .headStart]) := by
  simp only [runTask, taskCloseCheck, hw, hp, hin]
  rfl

variable {t : Port} (hj : w.job = .catchUp t) (hp : w.phase ≠ .closing)
include hj hp

/-- A finished copy write, and a cancelled line's data, end the line (R127). -/
theorem copyOk_lineDone {part : CopyPart} (h : part = .targetWrite ∨ part = .sourceRead ∧ w.cancelled = true) (q : Port)
    (d : LineData) : copyOk part q d p = (p, [.lineDone t]) := by
  rcases h with rfl | ⟨rfl, hc⟩
  · simp [copyOk, hw, hj, hp]
  · simp [copyOk, sourceData, hw, hj, hp, hc]

theorem copyFailed_sourceRead (q : Port) (why : Reason) : runTask (.copyFailed .sourceRead q why) p =
    (p, [.report w.region q why (some w.addr), .afterSourceFailure t q]) := by
  simp [runTask, taskCopyFailed, hw, hj, hp]

theorem copyFailed_targetWrite (q : Port) (why : Reason) : runTask (.copyFailed .targetWrite q why) p =
    (p, [.report w.region q why (some w.addr)]) := by
  simp [runTask, taskCopyFailed, hw, hj, hp]

theorem afterSourceFailure_cancelled (hc : w.cancelled = true) (q : Port) :
    runTask (.afterSourceFailure t q) p = (p, [.lineDone t]) := by
  simp [runTask, taskAfterSourceFailure, hw, isCatchUpWindow_of hj hp, hc]

theorem afterSourceFailure_lastReplica (hc : w.cancelled = false) {q : Port} (hm : mstate p w.region q = some .inService) :
    runTask (.afterSourceFailure t q) p = abandonSource t p := by
  simp [runTask, taskAfterSourceFailure, hw, isCatchUpWindow_of hj hp, hc, hm]

/-- The window of a line that is started again (R126). -/
def Window.restarted (w : Window) : Window :=
  { w with phase := .claiming, source := 0#4, cancelled := false, reread := false, data := [] }

theorem afterSourceFailure_restart (hc : w.cancelled = false) {q : Port} (hm : mstate p w.region q ≠ some .inService) :
    runTask (.afterSourceFailure t q) p = ({ p with window := some w.restarted }, [.chooseSource t]) := by
  simp only [runTask, taskAfterSourceFailure, hw, isCatchUpWindow_of hj hp, hc]
  rw [if_pos trivial, if_neg (by simp), if_neg (by simpa using hm)]
  rfl

end

/-! ## The last line of an extent, or of a RETIRING region (R112, R125, R128) -/

/-- After a line that is done, with no next line of the extent to copy: the extent removed, or left whole. -/
def extentLeft (t : Port) (w : Window) (p p1 : Part) : Prop :=
  w.lineNo = 1023 ∧ p1 = { removeExtent t w.region w.extent p with lineClaim := none } ∨
    w.lineNo < 1023 ∧ (p.region w.region).state = .retiring ∧ p1 = { p with lineClaim := none }

section
variable {t : Port} {w : Window} {p p1 : Part} (h : extentLeft t w p p1)
include h

theorem extentLeft_part : p1 = { p with lists := p1.lists, lineClaim := none } := by
  rcases h with ⟨-, rfl⟩ | ⟨-, -, rfl⟩ <;> rfl

theorem lineDone_extentLeft (hw : p.window = some w) (hj : w.job = .catchUp t) (hp : w.phase ≠ .closing) :
    runTask (.lineDone t) p = (p1, .selection t :: (p.lineClaim.map Task.leave).toList) := by
  show taskLineDone t p = _
  rw [taskLineDone_eq hw hj hp]
  rcases h with ⟨hk, rfl⟩ | ⟨hk, hr, rfl⟩
  · rw [nextCatchUpLine_last _ hk]
    rfl
  · rw [nextCatchUpLine_retiring (p := { p with lineClaim := none }) hk hr]
    rfl

/-- The line that a selection starts is another one. -/
theorem extentLeft_other {x : Run} (hs : selectRun p1 t = some x) : w.lineNo ≠ 0 ∨ w.region ≠ x.region := by
  rcases h with ⟨hk, -⟩ | ⟨-, hr, rfl⟩
  · exact .inl (by omega)
  · refine .inr fun hc => ?_
    have hlive := state_of_selectRun hs
    rw [← hc] at hlive
    exact absurd (hr.symm.trans hlive) (by simp)

variable (hw : p.window = some w) (hj : w.job = .catchUp t) (hp : w.phase ≠ .closing) (hn : claimHoldsNone p)
include hw hj hp hn

/-- The next run of the list is taken (R124). -/
theorem runsTo_lineDone_selects {x : Run} {src : Port} (hs : selectRun p1 t = some x)
    (hb : balance p1 (usableSources p1 t x.region) = some src) :
    RunsTo 9 [.lineDone t] p (drainChecked w.region { p1 with window := some (lineWindow p1 t src x.region x.first 0 0) }) := by
  have hpart := extentLeft_part h
  have hcl : ∀ x ∈ p1.table, x.state = .waitingLine → p.lineClaim ≠ some x.line := by
    rw [hpart]
    exact hn
  have hrun := runsTo_selection_run (p := p1) (by rw [hpart]; exact hw) (extentLeft_other h hs) hs hb hcl
  refine RunsTo.step rfl (lineDone_extentLeft h hw hj hp) ?_
  rwa [List.append_nil]

/-- No run is left: the job is done (R124, R130). -/
theorem runsTo_lineDone_completes (hc : w.claims = []) (hin : copyInFlight p = 0) (hjobs : jobsWithout t p = [])
    (hs : selectRun p1 t = none) :
    RunsTo 9 [.lineDone t] p (drainChecked w.region
      { post { kind := .copyDone, port := some t } (takeCompletion t p1) with jobs := [], window := none }) := by
  have hpart := extentLeft_part h
  have honly := takeCompletion_only t p1
  have hwin : (takeCompletion t p1).window = some w := by rw [honly.window, hpart]; exact hw
  have hclaim : (takeCompletion t p1).lineClaim = none := by rw [honly.lineClaim, hpart]
  have htable : (takeCompletion t p1).table = p.table := by rw [honly.table, hpart]
  have hin1 : copyInFlight (takeCompletion t p1) = 0 := by rw [honly.inFlight, hpart]; exact hin
  have hsel : runTask (.selection t) p1 = leaveRunning [] (some (copyDoneEvent t)) (takeCompletion t p1) := by
    have hj1 : jobsWithout t p1 = [] := by rw [hpart]; exact hjobs
    show taskSelection t p1 = _
    rw [taskSelection, hs, hj1]
  have hrun := runsTo_jobLeaves (claim := p.lineClaim) rfl hsel hwin hc hin1 (fun x _ _ => by simp [hclaim])
    (by rw [htable]; exact hn)
  refine RunsTo.step rfl (lineDone_extentLeft h hw hj hp) ?_
  rw [List.append_nil]
  generalize takeCompletion t p1 = A at hrun hclaim
  rw [← hclaim] at hrun
  exact hrun

end

/-! ## The job is abandoned (R66, R126, R129) -/

section
variable {t : Port} {w : Window} {p : Part} (hw : p.window = some w) (hc : w.claims = []) (hin : copyInFlight p = 0)
  (hn : claimHoldsNone p) (hjobs : jobsWithout t p = [])
include hw hc hin hn hjobs

/-- Abandoned for SOURCE, whatever the window's flags (R129). -/
theorem runsTo_abandonSource {u : Task} (h0 : workRank p u = 0) (hu : runTask u p = abandonSource t p) :
    RunsTo 8 [u] p (drainChecked w.region { post { kind := .copyAborted, port := some t, detail := 5 }
      (takeOutRejoining t .source p) with jobs := [], window := none, lineClaim := none }) := by
  have honly := takeOutRejoining_only t .source p
  rw [abandonSource, hjobs] at hu
  refine runsTo_jobLeaves (claim := none) h0 hu (honly.window.trans hw) hc (honly.inFlight.trans hin) ?_ (by simp)
  rw [claimHoldsNone, honly.table, honly.lineClaim]
  exact hn

/-- Abandoned for TARGET, by the report of a failed copy write (R66). -/
theorem runsTo_abandonTarget {r : RegionIx} {line : Option UpAddr} {j : Job} (why : Reason) (hm : mstate p r t = some .rejoining)
    (hf : p.jobs.find? (isCatchUp t) = some j) (hs : j.started = true) :
    RunsTo 8 [.report r t why line] p (drainChecked w.region { post { kind := .copyAborted, port := some t, detail := 6 }
      (takeOutRejoining t why p) with jobs := [], window := none, lineClaim := none }) := by
  have honly := takeOutRejoining_only t why p
  have hjobs' : jobsWithout t (takeOutRejoining t why p) = [] := by rw [jobsWithout, honly.jobs]; exact hjobs
  have hu : runTask (.report r t why line) p =
      leaveRunning [] (some (copyAbortedEvent t .target)) (takeOutRejoining t why p) := by
    have hrep : takeReport r t why line p = takeOutRejoining t why p := by simp [takeReport, hm]
    show taskReport r t why line p = _
    rw [taskReport, if_pos (by simp [hm]), hrep, leaveCatchUp, honly.jobs, hf, hjobs']
    simp only [hs, if_true]
  refine runsTo_jobLeaves (claim := none) rfl hu (honly.window.trans hw) hc (honly.inFlight.trans hin) ?_ (by simp)
  rw [claimHoldsNone, honly.table, honly.lineClaim]
  exact hn

end

theorem runTask_chooseSource (t : Port) (p : Part) : runTask (.chooseSource t) p = taskChooseSource t p := rfl

/-- A line that is started again, with a source (R126). -/
theorem chooseSource_restarted {t src : Port} {w : Window} {p : Part} (hw : p.window = some w.restarted)
    (hj : w.job = .catchUp t) (ha : w.addr = lineAddr (p.region w.region) w.extent w.lineNo)
    (hb : balance p (usableSources p t w.region) = some src) : runTask (.chooseSource t) p =
      ({ p with window := some (lineWindow p t src w.region w.extent w.lineNo w.overtake) }, []) := by
  rw [usableSources_eq] at hb
  have hreg : w.restarted.region = w.region := rfl
  rw [runTask_chooseSource, taskChooseSource, hw]
  dsimp only
  rw [hreg, hb]
  simp only [Window.restarted, readClaim, lineWindow, hj, ha]
  rfl

/-! ## Extents removed and runs selected (R112, R124) -/

/-- A list in order holds at most one run of a region that begins at an extent. -/
theorem first_unique {l pre post : List Run} {x : Run} (h : l.Pairwise runApart) (hl : l = pre ++ x :: post) :
    ∀ y ∈ pre, ¬ (y.region = x.region ∧ y.first = x.first) := by
  rintro y hy ⟨hr, hf⟩
  subst hl
  have := (List.pairwise_append.mp h).2.2 y hy x (List.mem_cons_self ..)
  rcases this with hlt | ⟨-, hlt⟩
  · rw [hr] at hlt
    exact lt_irrefl _ hlt
  · rw [Run.stop, ← hf] at hlt
    omega

theorem removeFromList_skip {r : RegionIx} {e : Nat} {pre : List Run} (l : List Run)
    (h : ∀ y ∈ pre, ¬ (y.region = r ∧ y.first = e)) : removeFromList r e (pre ++ l) = pre ++ removeFromList r e l := by
  induction pre with
  | nil => rfl
  | cons y ys ih =>
    have hy : ¬ (y.region == r && y.first == e) = true := by simpa using h y (List.mem_cons_self ..)
    rw [List.cons_append, removeFromList, if_neg hy, ih fun z hz => h z (List.mem_cons_of_mem _ hz)]
    rfl

theorem removeFromList_head (x : Run) (l : List Run) : removeFromList x.region x.first (x :: l) =
    (if x.count ≤ 1 then [] else [{ x with first := x.first + 1, count := x.count - 1 }]) ++ l := by
  rw [removeFromList, if_pos (by simp)]
  split <;> rfl

theorem selectRun_none_iff (p : Part) (t : Port) : selectRun p t = none ↔
    ∀ x ∈ p.divList t, (p.region x.region).state = .live → mstate p x.region t ≠ some .rejoining := by
  rw [selectRun, List.find?_eq_none]
  simp

theorem selectRun_some_iff (p : Part) (t : Port) (x : Run) : selectRun p t = some x ↔
    (p.region x.region).state = .live ∧ mstate p x.region t = some .rejoining ∧
      ∃ pre post, p.divList t = pre ++ x :: post ∧ ∀ y ∈ pre, (p.region y.region).state = .live →
        mstate p y.region t ≠ some .rejoining := by
  rw [selectRun, List.find?_eq_some_iff_append]
  simp [and_assoc, imp_iff_not_or]

/-! ## From the outcome to the end of the line -/

/-- A line is done by a good outcome, or by a failed read of a cancelled line, reported first (R127, R129). -/
def lineEnds (q : Port) (h : Handed) (w : Window) (p pd : Part) : Prop :=
  (h.origin = .copy .targetWrite ∨ h.origin = .copy .sourceRead ∧ w.cancelled = true) ∧
      (∃ d, h.result = .ok d) ∧ pd = p ∨
    ∃ why, h.origin = .copy .sourceRead ∧ w.cancelled = true ∧ failedFor h.result why ∧ reportWaits p w.region q ∧
      pd = reportTaken w.region q why (some w.addr) p

section
variable {q t : Port} {h : Handed} {w : Window} {s : State} {p : Part} (ht : OutcomeTaken q h s p) (hw : p.window = some w)
  (hj : w.job = .catchUp t) (hp : w.phase ≠ .closing)
include ht hw hj hp

/-- A failed source read: the report, and the choice that follows it (R129). -/
theorem failedRead_leaves {why : Reason} {p1 p' : Part} (ho : h.origin = .copy .sourceRead) (hf : failedFor h.result why)
    (hwaits : reportWaits p w.region q) (hp1 : p1 = reportTaken w.region q why (some w.addr) p)
    (hr : RunsTo 32 [.afterSourceFailure t q] p1 p') : leavesPart (.copyOutcome q) s p' := by
  subst hp1
  refine ht.leaves ho ?_
  rw [takeCopyOutcome_failed hf]
  exact RunsTo.stepLt rfl (by omega) (copyFailed_sourceRead hw hj hp q why) (runsTo_report why (some w.addr) hwaits hr)

theorem lineEnds_leaves {pd p' : Part} (hd : lineEnds q h w p pd) (hr : RunsTo 9 [.lineDone t] pd p') :
    leavesPart (.copyOutcome q) s p' := by
  rcases hd with ⟨ho, ⟨d, hd⟩, rfl⟩ | ⟨why, ho, hc, hf, hwaits, rfl⟩
  · obtain ⟨part, hor⟩ := ht.origin
    have hpart : part = .targetWrite ∨ part = .sourceRead ∧ w.cancelled = true := by simpa [hor] using ho
    refine ht.leaves hor ?_
    rw [hd, takeCopyOutcome, copyOk_lineDone hw hj hp hpart]
    exact hr.mono (by omega)
  · have hwin := (reportTaken_reported w.region q why (some w.addr) p).window.trans hw
    exact failedRead_leaves ht hw hj hp ho hf hwaits rfl
      (RunsTo.stepLt rfl (by omega) (afterSourceFailure_cancelled hwin hj hp hc q) hr)

end

theorem lineEnds_reported {q : Port} {h : Handed} {w : Window} {p pd : Part} (hd : lineEnds q h w p pd) : Reported p pd := by
  rcases hd with ⟨-, -, rfl⟩ | ⟨why, -, -, -, -, rfl⟩
  · exact .refl _
  · exact reportTaken_reported ..

section
variable {q t : Port} {w : Window} {p : Part} (hw : p.window = some w) (hj : w.job = .catchUp t) (hp : w.phase ≠ .closing)
  (hc : w.cancelled = false)
include hw hj hp hc

/-- A line started again: the source is chosen afresh (R126, R129). -/
theorem runsTo_restart {src : Port} (hm : mstate p w.region q ≠ some .inService)
    (ha : w.addr = lineAddr (p.region w.region) w.extent w.lineNo) (hb : balance p (usableSources p t w.region) = some src) :
    RunsTo 2 [.afterSourceFailure t q] p
      { p with window := some (lineWindow p t src w.region w.extent w.lineNo w.overtake) } := by
  have hchoose := chooseSource_restarted (p := { p with window := some w.restarted }) rfl hj ha hb
  exact RunsTo.step rfl (afterSourceFailure_restart hw hj hp hc hm) (RunsTo.step rfl hchoose (.nil _))

/-- The source is the last replica, or there is no other: the job is abandoned (R129). -/
theorem runsTo_sourceLost (hcl : w.claims = []) (hin : copyInFlight p = 0) (hn : claimHoldsNone p)
    (hjobs : jobsWithout t p = [])
    (hm : mstate p w.region q = some .inService ∨ balance p (usableSources p t w.region) = none) :
    RunsTo 9 [.afterSourceFailure t q] p (drainChecked w.region { post { kind := .copyAborted, port := some t, detail := 5 }
      (takeOutRejoining t .source p) with jobs := [], window := none, lineClaim := none }) := by
  by_cases hi : mstate p w.region q = some .inService
  · exact (runsTo_abandonSource hw hcl hin hn hjobs rfl (afterSourceFailure_lastReplica hw hj hp hc hi)).mono (by omega)
  · have hb := hm.resolve_left hi
    have hwin : (engineAt p.jobs (some w.restarted) p).window = some w.restarted := rfl
    have hnone : balance (engineAt p.jobs (some w.restarted) p)
        (usableSources (engineAt p.jobs (some w.restarted) p) t w.restarted.region) = none := hb
    have habandon := runsTo_abandonSource (u := .chooseSource t) hwin hcl hin hn hjobs rfl
      (taskChooseSource_noSource hwin hnone)
    rw [takeOutRejoining_beside] at habandon
    generalize takeOutRejoining t .source p = A at habandon ⊢
    exact RunsTo.step rfl (afterSourceFailure_restart hw hj hp hc hi) habandon

end

/-! ## The clauses of the statement -/

section
variable {q t : Port} {h : Handed} {w : Window} {s : State} {p : Part} (ht : OutcomeTaken q h s p) (hw : p.window = some w)
include ht hw

/-- A line that is done with no next line to copy (R112, R124, R128, R130). -/
theorem lineEnd_clause (hj : w.job = .catchUp t) (hp : w.phase ≠ .closing) (hc : w.claims = []) (hn : claimHoldsNone p)
    {pd p1 : Part} (hd : lineEnds q h w p pd) (he : extentLeft t w pd p1) :
    (∀ x src, selectRun p1 t = some x → balance p1 (usableSources p1 t x.region) = some src →
      leavesPart (.copyOutcome q) s
        (drainChecked w.region { p1 with window := some (lineWindow p1 t src x.region x.first 0 0) })) ∧
    (selectRun p1 t = none → copyInFlight p = 0 → s.part.jobs = [{ kind := .catchUp t, started := true }] →
      leavesPart (.copyOutcome q) s
        (drainChecked w.region { post { kind := .copyDone, port := some t } (takeCompletion t p1) with
          jobs := [], window := none })) := by
  have hr := lineEnds_reported hd
  have hwd := hr.window.trans hw
  have hnd := hr.noneHeld hn
  exact ⟨fun x src hs hb => lineEnds_leaves ht hw hj hp hd (runsTo_lineDone_selects he hwd hj hp hnd hs hb),
    fun hs hin hjobs => lineEnds_leaves ht hw hj hp hd (runsTo_lineDone_completes he hwd hj hp hnd hc (hr.inFlight.trans hin)
      (hr.jobsWithout (ht.jobs.trans hjobs)) hs)⟩

/-- A failed source read: the line is done, started again, or the last of its job (R126, R129). -/
theorem failedRead_clause (hj : w.job = .catchUp t) (hp : w.phase ≠ .closing) (hc : w.claims = []) (hn : claimHoldsNone p)
    {why : Reason} {p1 : Part} (ho : h.origin = .copy .sourceRead) (hf : failedFor h.result why)
    (hwaits : reportWaits p w.region q) (hp1 : p1 = reportTaken w.region q why (some w.addr) p) :
    (∀ src, w.cancelled = true → w.lineNo + 1 < 1024 → (s.part.region w.region).state = .live →
      balance p1 (usableSources p1 t w.region) = some src →
      leavesPart (.copyOutcome q) s
        { p1 with lineClaim := none, window := some (lineWindow p1 t src w.region w.extent (w.lineNo + 1) 0) }) ∧
    (∀ src, w.cancelled = false → mstate p1 w.region q ≠ some .inService →
      w.addr = lineAddr (s.part.region w.region) w.extent w.lineNo → balance p1 (usableSources p1 t w.region) = some src →
      leavesPart (.copyOutcome q) s { p1 with window := some (lineWindow p1 t src w.region w.extent w.lineNo w.overtake) }) ∧
    (w.cancelled = false → mstate p1 w.region q = some .inService ∨ balance p1 (usableSources p1 t w.region) = none →
      copyInFlight p = 0 → s.part.jobs = [{ kind := .catchUp t, started := true }] →
      leavesPart (.copyOutcome q) s
        (drainChecked w.region { post { kind := .copyAborted, port := some t, detail := 5 }
          (takeOutRejoining t .source p1) with jobs := [], window := none, lineClaim := none })) := by
  have hr : Reported p p1 := hp1 ▸ reportTaken_reported ..
  have hw1 := hr.window.trans hw
  have hn1 := hr.noneHeld hn
  have hleaves : ∀ {p'}, RunsTo 32 [.afterSourceFailure t q] p1 p' → leavesPart (.copyOutcome q) s p' :=
    failedRead_leaves ht hw hj hp ho hf hwaits hp1
  refine ⟨fun src hcan hk hlive hb => hleaves ?_, fun src hcan hm ha hb => hleaves ?_, fun hcan hm hin hjobs => hleaves ?_⟩
  · have hlive1 : (p1.region w.region).state = .live := by rw [hr.aside.state, ht.region]; exact hlive
    exact RunsTo.stepLt rfl (by omega) (afterSourceFailure_cancelled hw1 hj hp hcan q)
      (runsTo_lineDone_next hw1 hj hp hk hlive1 hb hn1)
  · have hbase : (p1.region w.region).base = (s.part.region w.region).base := by rw [hr.aside.base, ht.region]
    have ha1 : w.addr = lineAddr (p1.region w.region) w.extent w.lineNo := by rw [ha, lineAddr, lineAddr, hbase]
    exact (runsTo_restart hw1 hj hp hcan hm ha1 hb).mono (by omega)
  · exact (runsTo_sourceLost hw1 hj hp hcan hc (hr.inFlight.trans hin) hn1 (hr.jobsWithout (ht.jobs.trans hjobs)) hm).mono
      (by omega)

/-- A failed copy write takes the target out of the rebuild, and its job with it (R66, R129). -/
theorem failedWrite_clause (hj : w.job = .catchUp q) (hp : w.phase ≠ .closing) (hc : w.claims = []) (hn : claimHoldsNone p)
    {why : Reason} (ho : h.origin = .copy .targetWrite) (hf : failedFor h.result why)
    (hm : mstate p w.region q = some .rejoining) (hin : copyInFlight p = 0)
    (hjobs : p.jobs = [{ kind := .catchUp q, started := true }]) :
    leavesPart (.copyOutcome q) s (drainChecked w.region { post { kind := .copyAborted, port := some q, detail := 6 }
      (takeOutRejoining q why p) with jobs := [], window := none, lineClaim := none }) := by
  have hfind : p.jobs.find? (isCatchUp q) = some { kind := .catchUp q, started := true } := by simp [hjobs, isCatchUp]
  have hnone := (Reported.refl p).jobsWithout hjobs
  refine ht.leaves ho ?_
  rw [takeCopyOutcome_failed hf]
  exact RunsTo.stepLt rfl (by omega) (copyFailed_targetWrite hw hj hp q why)
    (runsTo_abandonTarget hw hc hin hn hnone why hm hfind rfl)

/-- A CLOSING window discards data and reports failures, and is absent when nothing of it is outstanding (R123). -/
theorem closing_clause (hp : w.phase = .closing) :
    (∀ d, h.result = .ok d → copyInFlight p ≠ 0 → leavesPart (.copyOutcome q) s p) ∧
    (∀ why, failedFor h.result why → reportWaits p w.region q → copyInFlight p ≠ 0 →
      leavesPart (.copyOutcome q) s (reportTaken w.region q why (some w.addr) p)) ∧
    (∀ d, h.result = .ok d → copyInFlight p = 0 → p.jobs = [] →
      leavesPart (.copyOutcome q) s (drainChecked w.region { p with window := none })) := by
  obtain ⟨part, ho⟩ := ht.origin
  refine ⟨fun d hd hin => ht.leaves ho ?_, fun why hf hwaits hin => ht.leaves ho ?_, fun d hd hin hjobs => ht.leaves ho ?_⟩
  · rw [hd, takeCopyOutcome, copyOk_closing hw hp]
    exact RunsTo.stepLt rfl (by omega) (closeCheck_awaited hw hin) (.nil p)
  · have hr := reportTaken_reported w.region q why (some w.addr) p
    have hclose := closeCheck_awaited (hr.window.trans hw) (by rwa [hr.inFlight])
    rw [takeCopyOutcome_failed hf]
    exact RunsTo.stepLt rfl (by omega) (copyFailed_closing hw hp part q why)
      (runsTo_report why (some w.addr) hwaits (RunsTo.step rfl hclose (.nil _)))
  · have hn : nothingStarts { p with window := none } := .inr hjobs
    have hdrain := runsTo_drainCheck_idle (r := w.region) (us := [.headStart]) hn
      fun u hu => by rw [List.mem_singleton.mp hu]; exact taskHeadStart_nothing (nothingStarts_drainChecked _ hn)
    rw [hd, takeCopyOutcome, copyOk_closing hw hp]
    exact RunsTo.stepLt rfl (by simp) (closeCheck_done hw hp hin) hdrain

end

/-! ## The statement -/

/-- Settles O26: a line that is done, a failed read, a failed copy write, a CLOSING window; then the list's two operations. -/
theorem catchUpLineEnds : Obligations.CatchUpLineEnds := by
  intro q t h rest w p s hs htake hw hp
  have ht : OutcomeTaken q h s p := ⟨hs, rest, htake, hp⟩
  have hwin : p.window = some w := ht.window.trans hw
  refine ⟨fun hj hph hc hn0 => ?_, fun hph => ?_, fun r e p0 hl => ⟨fun hne => ?_, fun pre x post hx hr hf => ?_⟩,
    fun p0 => ⟨selectRun_none_iff p0 t, selectRun_some_iff p0 t⟩⟩
  · have hn := ht.noneHeld hn0
    refine ⟨fun pd p1 hd he => ?_, fun why p1 ho hf hwaits hp1 => ?_, fun why ho hqt hf hm hin hjobs => ?_⟩
    · have hd' : lineEnds q h w p pd := hd.imp id fun ⟨why, ho, hcan, hf, hwaits, hpd⟩ =>
        ⟨why, ho, hcan, hf, ht.waits hwaits, hpd⟩
      have he' : extentLeft t w pd p1 := he.imp id fun ⟨hk, hst, hp1⟩ =>
        ⟨hk, by rw [(lineEnds_reported hd').aside.state, ht.region]; exact hst, hp1⟩
      obtain ⟨hrun, hdone⟩ := lineEnd_clause ht hwin hj hph hc hn hd' he'
      exact ⟨hrun, fun hs hin hjobs => ⟨hdone hs hin hjobs, mstate_takeCompletion t p1⟩⟩
    · obtain ⟨hnext, hagain, hlost⟩ := failedRead_clause ht hwin hj hph hc hn ho hf (ht.waits hwaits) hp1
      exact ⟨hnext, hagain, fun hcan hm hin hjobs => ⟨hlost hcan hm hin hjobs, mstate_takeOutRejoining t .source p1⟩⟩
    · subst hqt
      have hm' : mstate p w.region q = some .rejoining := by rw [mstate, ht.region]; exact hm
      exact failedWrite_clause ht hwin hj hph hc hn ho hf hm' hin (ht.jobs.trans hjobs)
  · obtain ⟨hok, hfail, hdone⟩ := closing_clause ht hwin hph
    exact ⟨hok, fun why hf hwaits => hfail why hf (ht.waits hwaits),
      fun d hd hin hjobs => hdone d hd hin (ht.jobs.trans hjobs)⟩
  · have hskip : removeFromList r e (p0.divList t) = p0.divList t := by
      have := removeFromList_skip (r := r) (e := e) (pre := p0.divList t) [] fun y hy hc => hne y hy hc.1 hc.2
      simpa [removeFromList] using this
    rw [removeExtent, hskip, setDivList_self]
  · subst hr hf
    rw [removeExtent, hx, removeFromList_skip _ (first_unique hl.2 hx), removeFromList_head, List.append_assoc]

end Sys2Proof.Machine
end

section
/-! SUPPORT. The three read policies (R47 to R49). -/

namespace Sys2Proof.Machine

/-! ## BALANCE (R47) -/

/-- The three keys of R47, one after the other. -/
theorem balanceBefore_iff (p : Part) (a b : Port) : balanceBefore p a b = true ↔
    linkTier (p.port a).link < linkTier (p.port b).link ∨
    (linkTier (p.port a).link = linkTier (p.port b).link ∧
      (occupancy (p.port a) < occupancy (p.port b) ∨ (occupancy (p.port a) = occupancy (p.port b) ∧ a < b))) := by
  simp [balanceBefore]

theorem balanceBefore_trans {p : Part} {a b c : Port} (h : balanceBefore p a b = true) (h' : balanceBefore p b c = true) :
    balanceBefore p a c = true := by
  rw [balanceBefore_iff, Fin.lt_def] at *
  omega

/-- Of two ports one comes before the other. -/
theorem balanceBefore_total {p : Part} {a b : Port} (hne : a ≠ b) (h : ¬ balanceBefore p a b = true) :
    balanceBefore p b a = true := by
  rw [Ne, Fin.ext_iff] at hne
  rw [balanceBefore_iff, Fin.lt_def] at *
  omega

/-- One candidate more replaces the choice exactly if it comes before it. -/
theorem balance_concat (p : Part) (l : List Port) (x : Port) :
    balance p (l ++ [x]) = some ((balance p l).elim x fun b => if balanceBefore p x b then x else b) := by
  rw [balance, List.foldl_append, ← balance]
  cases balance p l with
  | none => rfl
  | some b => exact (apply_ite some ..).symm

theorem balance_eq_none_iff (p : Part) (l : List Port) : balance p l = none ↔ l = [] := by
  induction l using List.reverseRecOn with
  | nil => exact iff_of_true rfl rfl
  | append_singleton l x _ => simp [balance_concat]

/-- The choice is a candidate that comes before every other. -/
theorem balance_first {p : Part} {l : List Port} {q : Port} (h : balance p l = some q) :
    q ∈ l ∧ ∀ x ∈ l, x ≠ q → balanceBefore p q x = true := by
  induction l using List.reverseRecOn generalizing q with
  | nil => exact absurd h (by simp [balance])
  | append_singleton l x ih =>
    rw [balance_concat, Option.some.injEq] at h
    cases hb : balance p l with
    | none =>
      rw [hb, Option.elim_none] at h
      subst h
      simp [(balance_eq_none_iff p l).mp hb]
    | some b =>
      obtain ⟨hmem, hbest⟩ := ih hb
      rw [hb, Option.elim_some] at h
      split at h
      · next hx =>
        subst h
        refine ⟨by simp, fun y hy hne => ?_⟩
        have hyl : y ∈ l := by simpa [hne] using hy
        by_cases hyb : y = b
        · exact hyb ▸ hx
        · exact balanceBefore_trans hx (hbest y hyl hyb)
      · next hx =>
        subst h
        refine ⟨by simp [hmem], fun y hy hne => ?_⟩
        rcases List.mem_append.mp hy with hy | hy
        · exact hbest y hy hne
        · rw [List.mem_singleton.mp hy] at hne ⊢
          exact balanceBefore_total hne hx

/-! ## ALTERNATE (R49) -/

/-- In a list sorted by a key the first element that passes a test is the one with the least key. -/
theorem find?_sorted_iff {α : Type} {k : α → Nat} {l : List α} (hs : l.Pairwise (k · < k ·)) (f : α → Bool) (q : α) :
    l.find? f = some q ↔ (q ∈ l ∧ f q = true) ∧ ∀ x ∈ l, f x = true → x ≠ q → k q < k x := by
  induction l with
  | nil => simp
  | cons y ys ih =>
    obtain ⟨hy, hys⟩ := List.pairwise_cons.mp hs
    by_cases hf : f y = true
    · rw [List.find?_cons_of_pos hf, Option.some.injEq]
      constructor
      · rintro rfl
        exact ⟨⟨List.mem_cons_self .., hf⟩, fun x hx _ hne => hy x ((List.mem_cons.mp hx).resolve_left hne)⟩
      · rintro ⟨⟨hq, -⟩, hleast⟩
        by_contra hne
        exact lt_asymm (hleast y (List.mem_cons_self ..) hf hne) (hy q ((List.mem_cons.mp hq).resolve_left (Ne.symm hne)))
    · rw [List.find?_cons_of_neg hf, ih hys]
      simp only [List.mem_cons, forall_eq_or_imp, hf, false_imp_iff, true_and, Bool.false_eq_true]
      refine and_congr_left fun _ => and_congr_left fun hq => ⟨.inr, fun h => h.resolve_left ?_⟩
      rintro rfl
      exact hf hq

/-- The place of a port in the order ALTERNATE examines: 0 for the one after the pointer, 3 for the pointer. -/
def alternatePlace : Option Port → Port → Nat
  | some a, x => (x.val + 3 - a.val) % 4
  | none, x => x.val

theorem alternateOrder_sorted (a : Option Port) :
    (alternateOrder a).Pairwise (alternatePlace a · < alternatePlace a ·) := by revert a; decide

theorem mem_alternateOrder (a : Option Port) (q : Port) : q ∈ alternateOrder a := by revert a q; decide

theorem policyChoice_alternate {r : Region} (h : r.policy = .alternate) (p : Part) (eligible : List Port) (q : Port) :
    policyChoice p r eligible = some q ↔
      q ∈ eligible ∧ ∀ x ∈ eligible, x ≠ q → alternatePlace r.alternate q < alternatePlace r.alternate x := by
  rw [policyChoice, h]
  refine (find?_sorted_iff (alternateOrder_sorted r.alternate) _ q).trans ?_
  simp only [mem_alternateOrder, List.contains_iff_mem, true_and, true_imp_iff]

/-! ## The statement -/

/-- Settles O31: BALANCE picks the least by R47's keys; the other two policies by their definitions. -/
theorem policiesPick : Obligations.PoliciesPick := by
  refine ⟨fun p l => ⟨fun q hq => ?_, balance_eq_none_iff p l⟩, by decide, rfl, by decide,
    fun p r eligible => ⟨fun h => ?_, fun h q hq => ?_, fun h q => ?_⟩⟩
  · obtain ⟨hmem, hbest⟩ := balance_first hq
    exact ⟨hmem, fun x hx hne => (balanceBefore_iff p q x).mp (hbest x hx hne)⟩
  · rw [policyChoice, h]
  · rw [policyChoice, h, hq]
    exact if_congr List.contains_iff_mem rfl rfl
  · rw [policyChoice_alternate h]
    cases r.alternate with
    | none => rfl
    | some a => rfl

end Sys2Proof.Machine
end

section
/-! SUPPORT. The first choice of a MIRROR write with copies on links that are FAILED or OFF (R53, R64, R65). -/

namespace Sys2Proof.Machine

/-! ## Failures counted in the entry -/

/-- The copy is an immediate failure: IN_SERVICE on a link that is FAILED or OFF (R53). -/
def failsAtOnce (p : Part) (r : RegionIx) (q : Port) : Bool := mstate p r q == some .inService && portDown p q

/-- The entry with the failure of an IN_SERVICE copy: counted, and failed with LINK (R53). -/
def Entry.countFailure (x : Entry) (q : Port) : Entry := recordFail q .link { x with counted := addPort x.counted q }

/-- The entry with several such failures, in this order. -/
def Entry.countFailures (l : List Port) (x : Entry) : Entry := l.foldl Entry.countFailure x

theorem countFailures_concat (l : List Port) (q : Port) (x : Entry) :
    x.countFailures (l ++ [q]) = (x.countFailures l).countFailure q := List.foldl_append ..

theorem countFailures_frame (l : List Port) (x : Entry) :
    (x.countFailures l).tag = x.tag ∧ (x.countFailures l).line = x.line ∧ (x.countFailures l).region = x.region := by
  induction l using List.reverseRecOn with
  | nil => exact ⟨rfl, rfl, rfl⟩
  | append_singleton l q ih => rw [countFailures_concat]; exact ih

/-- Failures at distinct ports, in an entry that has none. -/
theorem countFailures_eq {l : List Port} (hl : l.Nodup) {x : Entry} (hx : x.reasons = []) : x.countFailures l =
    { x with counted := l.foldl addPort x.counted, fail := l.foldl addPort x.fail, reasons := l.map (·, .link) } := by
  induction l using List.reverseRecOn with
  | nil => rw [List.map_nil, ← hx]; rfl
  | append_singleton l q ih =>
    obtain ⟨hl', -, hq⟩ := List.nodup_append.mp hl
    have hfresh : (l.map (fun y => (y, Reason.link))).filter (fun y => y.1 != q) = l.map (·, .link) := by
      refine List.filter_eq_self.mpr fun y hy => ?_
      obtain ⟨z, hz, rfl⟩ := List.mem_map.mp hy
      simpa using hq z hz q (List.mem_singleton.mpr rfl)
    rw [countFailures_concat, ih hl', List.foldl_append, List.foldl_append, List.map_append]
    simp only [Entry.countFailure, recordFail, withReason, hfresh]
    rfl

theorem hasPort_foldl_addPort (l : List Port) (s : PortSet) (q : Port) :
    hasPort (l.foldl addPort s) q = true ↔ hasPort s q = true ∨ q ∈ l := by
  induction l generalizing s with
  | nil => simp
  | cons x xs ih =>
    rw [List.foldl_cons, ih, hasPort_addPort, Bool.or_eq_true, decide_eq_true_iff, List.mem_cons, or_assoc, eq_comm (a := x)]

/-! ## The part with the failures taken -/

/-- What the report of an immediate failure posts (R64, R65, R75). -/
def immediateRecord (p : Part) (r : RegionIx) (line : UpAddr) (q : Port) : EventBody :=
  if leavesService p r (portDown p) q
  then { kind := .memberEjected, port := some q, region := some r, detail := 3 }
  else { kind := .lastReplicaError, port := some q, region := some r, detail := 3, addr := .line line }

/-- The part with the copies on these ports examined: those that fail at once are recorded in the entry and reported. -/
def failuresTaken (e : Entry) (l : List Port) (p : Part) : Part :=
  updateEntry e.tag (Entry.countFailures (l.filter (failsAtOnce p e.region)))
    { p with
      regions := (ejected e.region (portDown p) .link l p).regions
      events := ((l.filter (failsAtOnce p e.region)).map (immediateRecord p e.region e.line)).foldl postTo p.events }

section
variable {e : Entry} {p : Part}

theorem mstate_failuresTaken (l : List Port) (q : Port) : mstate (failuresTaken e l p) e.region q =
    if q ∈ l ∧ leavesService p e.region (portDown p) q then some .faulted else mstate p e.region q :=
  mstate_ejected e.region (portDown p) .link l p q

theorem mstate_failuresTaken_ne (l : List Port) {r : RegionIx} (h : r ≠ e.region) (q : Port) :
    mstate (failuresTaken e l p) r q = mstate p r q := by
  have : (failuresTaken e l p).region r = p.region r := region_ejected_ne (f := portDown p) (why := .link) (l := l) h
  rw [mstate, this]
  rfl

theorem failuresTaken_nil : failuresTaken e [] p = p := by
  have hid : (fun x : Entry => if x.tag == e.tag then x.countFailures [] else x) = id :=
    funext fun x => ite_self (c := (x.tag == e.tag) = true) x
  rw [failuresTaken, ejected_nil, updateEntry, List.filter_nil, hid, List.map_id]
  rfl

theorem findEntry_failuresTaken (he : findEntry p e.tag = some e) (l : List Port) :
    findEntry (failuresTaken e l p) e.tag = some (e.countFailures (l.filter (failsAtOnce p e.region))) :=
  findEntry_updateEntry (fun x hx => (countFailures_frame _ x).1.trans hx) he

/-- A copy that does not fail at once changes nothing. -/
theorem failuresTaken_passes {q : Port} (hq : failsAtOnce p e.region q = false) (l : List Port) :
    failuresTaken e (l ++ [q]) p = failuresTaken e l p := by
  have hl : ¬ leavesService p e.region (portDown p) q := fun ⟨h1, h2, _⟩ => by simp [failsAtOnce, h1, h2] at hq
  have hf : (l ++ [q]).filter (failsAtOnce p e.region) = l.filter (failsAtOnce p e.region) := by
    simp [List.filter_append, hq]
  rw [failuresTaken, failuresTaken, hf, ejected_skip hl]

theorem notMem_of_allPorts_eq {q : Port} {pre suf : List Port} (h : allPorts = pre ++ q :: suf) : q ∉ pre := fun hc => by
  have hn : allPorts.Nodup := by decide
  rw [h] at hn
  exact (List.nodup_append.mp hn).2.2 q hc q (List.mem_cons_self ..) rfl

/-- A copy that fails at once: the record in the entry, then the report. -/
theorem failuresTaken_fails {q : Port} {pre suf : List Port} (h : allPorts = pre ++ q :: suf)
    (hq : failsAtOnce p e.region q = true) :
    takeReport e.region q .link (some e.line) (updateEntry e.tag (fun x => x.countFailure q) (failuresTaken e pre p)) =
      failuresTaken e (pre ++ [q]) p := by
  obtain ⟨hin, hdn⟩ : mstate p e.region q = some .inService ∧ portDown p q = true := by simpa [failsAtOnce] using hq
  have hpre : q ∉ pre := notMem_of_allPorts_eq h
  have hleaves := leaves_after_ejected (r := e.region) (f := portDown p) (why := .link) p h
  have hm : mstate (ejected e.region (portDown p) .link pre p) e.region q = some .inService := by
    rw [mstate_ejected, if_neg fun hc => hpre hc.1, hin]
  have hnext : failuresTaken e (pre ++ [q]) p = { updateEntry e.tag (fun x => x.countFailure q) (failuresTaken e pre p) with
      regions := (ejected e.region (portDown p) .link (pre ++ [q]) p).regions
      events := postTo (failuresTaken e pre p).events (immediateRecord p e.region e.line q) } := by
    have hf : (pre ++ [q]).filter (failsAtOnce p e.region) = pre.filter (failsAtOnce p e.region) ++ [q] := by
      simp [List.filter_append, hq]
    have ht : ∀ l, (fun x : Entry => if x.tag == e.tag then x.countFailures (l ++ [q]) else x) =
        (fun x => if x.tag == e.tag then x.countFailure q else x) ∘
          fun x => if x.tag == e.tag then x.countFailures l else x := fun l => by
      funext x
      by_cases hx : x.tag = e.tag
      · simp [hx, (countFailures_frame l x).1, countFailures_concat]
      · simp [hx]
    simp only [failuresTaken, updateEntry, hf, List.map_append, List.foldl_append, ht, ← List.map_map]
    rfl
  have ho : otherInService (updateEntry e.tag (fun x => x.countFailure q) (failuresTaken e pre p)) e.region q =
      otherInService (ejected e.region (portDown p) .link pre p) e.region q := rfl
  rw [takeReport, show mstate (updateEntry e.tag (fun x => x.countFailure q) (failuresTaken e pre p)) e.region q =
    some .inService from hm]
  dsimp only
  rw [ho, hnext]
  by_cases hl : leavesService p e.region (portDown p) q
  · obtain ⟨-, -, hother⟩ := hleaves.mpr hl
    rw [if_pos hother, ← ejectMember_ejected hl, immediateRecord, if_pos hl]
    rfl
  · rw [if_neg fun hc => hl (hleaves.mp ⟨hm, hdn, hc⟩), ejected_skip hl, immediateRecord, if_neg hl]
    rfl

/-- The examination of a copy that has not been examined before (R53). -/
theorem runTask_immediateFailure {pre : List Port} {q : Port} (he : findEntry p e.tag = some e) (hpre : q ∉ pre)
    (hup : mstate p e.region q = some .rejoining → portDown p q = false) :
    runTask (.immediateFailure e.tag q) (failuresTaken e pre p) =
      if failsAtOnce p e.region q = true
      then (updateEntry e.tag (fun x => x.countFailure q) (failuresTaken e pre p), [.report e.region q .link (some e.line)])
      else (failuresTaken e pre p, []) := by
  have hm : mstate (failuresTaken e pre p) e.region q = mstate p e.region q := by
    rw [mstate_failuresTaken, if_neg fun hc => hpre hc.1]
  have hd : portDown (failuresTaken e pre p) q = portDown p q := rfl
  obtain ⟨-, hline, hregion⟩ := countFailures_frame (pre.filter (failsAtOnce p e.region)) e
  simp only [runTask, taskImmediateFailure, findEntry_failuresTaken he, hline, hregion, hm, hd]
  by_cases hin : mstate p e.region q = some .inService
  · simp [failsAtOnce, hin]
    rfl
  · have hno : ((mstate p e.region q == some .inService || mstate p e.region q == some .rejoining) && portDown p q) = false := by
      by_cases hr : mstate p e.region q = some .rejoining
      · simp [hup hr]
      · simp [hin, hr]
    have hf : failsAtOnce p e.region q = false := by simp [failsAtOnce, hin]
    rw [hno, hf]
    rfl

/-- The members examined one after the other, of those on the ports behind `pre` (R53). -/
theorem runsTo_immediateFailures {c : Port → Bool} {ts : List Task} {p' : Part} {n : Nat} (he : findEntry p e.tag = some e)
    (hup : ∀ q, mstate p e.region q = some .rejoining → portDown p q = false)
    (hc : ∀ q, mstate p e.region q = some .inService → c q = true)
    (hrun : RunsTo n ts (failuresTaken e allPorts p) p') :
    ∀ suf pre, allPorts = pre ++ suf →
      RunsTo (n + 2 * suf.length) ((suf.filter c).map (.immediateFailure e.tag) ++ ts) (failuresTaken e pre p) p'
  | [], pre, h => by
    rw [List.append_nil] at h
    exact h ▸ hrun
  | q :: suf, pre, h => by
    have hnext := runsTo_immediateFailures he hup hc hrun suf (pre ++ [q]) (by rw [h, List.append_assoc]; rfl)
    have hpre : q ∉ pre := notMem_of_allPorts_eq h
    have htask := runTask_immediateFailure he hpre (hup q)
    rw [List.length_cons]
    by_cases hq : failsAtOnce p e.region q = true
    · obtain ⟨hin, -⟩ : mstate p e.region q = some .inService ∧ portDown p q = true := by simpa [failsAtOnce] using hq
      have hm : mstate (failuresTaken e pre p) e.region q ≠ some .rejoining := by
        rw [mstate_failuresTaken, if_neg fun hcq => hpre hcq.1, hin]
        simp
      rw [List.filter_cons_of_pos (hc q hin), List.map_cons, List.cons_append]
      refine RunsTo.cons (n := n + 2 * suf.length + 1) rfl ?_
      rw [htask, if_pos hq]
      refine RunsTo.cons rfl ?_
      rw [show runTask (.report e.region q .link (some e.line)) (updateEntry e.tag (fun x => x.countFailure q)
        (failuresTaken e pre p)) = (failuresTaken e (pre ++ [q]) p, []) by
          rw [← failuresTaken_fails h hq]
          simp only [runTask, taskReport, mstate_updateEntry, beq_iff_eq, hm, if_false]]
      exact hnext
    · rw [failuresTaken_passes (by simpa using hq)] at hnext
      rw [if_neg hq] at htask
      cases hcq : c q with
      | true =>
        rw [List.filter_cons_of_pos hcq, List.map_cons, List.cons_append]
        exact (RunsTo.idle rfl htask hnext).mono (by omega)
      | false =>
        rw [List.filter_cons_of_neg (by simp [hcq])]
        exact hnext.mono (by omega)

end

/-! ## The targets left (R53) -/

theorem memberAt_isSome_of_mstate {p : Part} {r : RegionIx} {q : Port} {st : MState} (h : mstate p r q = some st) :
    (memberAt (p.region r) q).isSome = true := by
  dsimp only [mstate] at h
  split at h
  · obtain ⟨m, hm, -⟩ := Option.bind_eq_some_iff.mp h
    rw [hm]
    rfl
  · simp at h

section
variable {e : Entry} {p : Part}

theorem region_failuresTaken (l : List Port) :
    ((failuresTaken e l p).region e.region).state = (p.region e.region).state ∧
    ((failuresTaken e l p).region e.region).inFlight = (p.region e.region).inFlight := by
  have : (failuresTaken e l p).region e.region = (ejected e.region (portDown p) .link l p).region e.region := rfl
  rw [this, ejected, region_posts, region_setRegion_self]
  exact ⟨rfl, rfl⟩

/-- A copy on a link that is up is no failure, and becomes a target. -/
theorem hasPort_writeTargets_failuresTaken (l : List Port) (q : Port) :
    hasPort (writeTargets (failuresTaken e l p) e.region) q = true ↔
      (mstate p e.region q = some .inService ∨ mstate p e.region q = some .rejoining) ∧ portDown p q = false := by
  have hd : portDown (failuresTaken e l p) q = portDown p q := rfl
  rw [writeTargets, hasPort_portSetOf, hd]
  simp only [Bool.and_eq_true, Bool.or_eq_true, beq_iff_eq, Bool.not_eq_true']
  refine and_congr_left fun hup => ?_
  rw [mstate_failuresTaken, if_neg fun hc => ?_]
  obtain ⟨-, -, hdn, -⟩ := hc
  simp [hup] at hdn

end

/-- Memberships, records, queues and lists stand from `p` to `p'`. -/
structure CopiesStand (p p' : Part) : Prop where
  mstate : ∀ r q, mstate p' r q = mstate p r q
  events : p'.events = p.events
  queue : ∀ q, (p'.port q).queue = (p.port q).queue
  lists : p'.lists = p.lists

theorem finished_copiesStand (p : Part) (e : Entry) (status : RespStatus) (data : Option LineData) :
    CopiesStand p (p.finished e status data) := ⟨mstate_finished p e status data, rfl, fun _ => rfl, rfl⟩

theorem slotsAwaited_copiesStand (e : Entry) (targets : PortSet) (p : Part) : CopiesStand p (slotsAwaited e targets p) := by
  obtain ⟨ports, h, hq, -⟩ := slotsAwaited_spec e targets p
  exact ⟨fun r q => by rw [h]; rfl, by rw [h], hq, by rw [h]⟩

/-! ## The admitted write -/

/-- A table whose last entry alone has its tag: that entry takes the new form. -/
theorem map_last {t : List Entry} {e : Entry} (h : ∀ x ∈ t, x.tag ≠ e.tag) (f : Entry → Entry) :
    (t ++ [e]).map (fun x => if x.tag == e.tag then f x else x) = t ++ [f e] := by
  have : t.map (fun x => if x.tag == e.tag then f x else x) = t :=
    (List.map_congr_left fun x hx => if_neg (by simpa using h x hx)).trans (List.map_id' _)
  rw [List.map_append, this]
  simp

/-- The entry admitted last, with its line free, may leave WAITING_LINE. -/
theorem mayLeave_last {p : Part} {t : List Entry} {e : Entry} (ht : p.table = t ++ [e]) (hs : e.state = .waitingLine)
    (hl : ∀ x ∈ t, x.line ≠ e.line) (hc : p.lineClaim ≠ some e.line) : mayLeave p e = true := by
  have hnone : t.find? (fun x => x.line == e.line) = none := by simpa using hl
  refine (mayLeave_iff _ _).mpr ⟨hs, ?_, hc⟩
  rw [earliest, ht, List.find?_append, hnone]
  simp

/-- A write whose failed copies all failed with LINK, and that has no acknowledgement, is answered PORT_DOWN (R57). -/
theorem writeStatus_portDown {e : Entry} (ha : e.ack = 0#4) (hr : ∀ x ∈ e.reasons, x.2 = .link) :
    writeStatus e = .portDown := by
  refine (writeStatus_spec e).2.2 (fun q _ _ => by rw [ha]; exact hasPort_zero q) fun q _ _ hm => ?_
  exact absurd (hr _ hm) (by simp)

section
variable {tag : Tag} {mask : ByteMask} {data : LineData} {line : UpAddr} {r : RegionIx} {p : Part}

/-- The ports whose copies fail at once (R53). -/
def downCopies (p : Part) (r : RegionIx) : List Port := allPorts.filter (failsAtOnce p r)

/-- The admitted write with its immediate failures. -/
def failedEntry (tag : Tag) (mask : ByteMask) (data : LineData) (line : UpAddr) (r : RegionIx) (p : Part) : Entry :=
  { newEntry tag (.write mask data) line r with
    counted := (downCopies p r).foldl addPort 0#4
    fail := (downCopies p r).foldl addPort 0#4
    reasons := (downCopies p r).map (·, .link) }

/-- The part with the write admitted and its immediate failures taken. -/
def admittedFailed (tag : Tag) (mask : ByteMask) (data : LineData) (line : UpAddr) (r : RegionIx) (p : Part) : Part :=
  failuresTaken (newEntry tag (.write mask data) line r) allPorts (created tag (.write mask data) line r p)

theorem failsAtOnce_created (op : Op) : failsAtOnce (created tag op line r p) r = failsAtOnce p r := by
  funext q
  rw [failsAtOnce, mstate_created]
  rfl

theorem leavesService_created (op : Op) (q : Port) :
    leavesService (created tag op line r p) r (portDown (created tag op line r p)) q ↔ leavesService p r (portDown p) q := by
  have hd : portDown (created tag op line r p) = portDown p := rfl
  simp only [leavesService, mstate_created, hd]

theorem countFailures_newEntry :
    (newEntry tag (.write mask data) line r).countFailures (allPorts.filter (failsAtOnce (created tag (.write mask data) line r p) r)) =
      failedEntry tag mask data line r p := by
  rw [failsAtOnce_created, countFailures_eq (List.Nodup.filter _ (by decide)) rfl]
  rfl

section
variable (hf : ∀ x ∈ p.table, x.tag ≠ tag ∧ x.line ≠ line)
include hf

theorem table_admittedFailed :
    (admittedFailed tag mask data line r p).table = p.table ++ [failedEntry tag mask data line r p] := by
  rw [← countFailures_newEntry]
  exact table_newEntry_map (.write mask data) hf _

/-- The admission of a MIRROR write: its immediate failures, and then its targets. -/
theorem createEntry_write {p' : Part} {n : Nat} (hn : n ≤ 2048) (hc : p.lineClaim ≠ some line)
    (hmode : (p.region r).mode = .mirror) (hup : ∀ q, mstate p r q = some .rejoining → portDown p q = false)
    (h : RunsTo n (taskFixTargets tag (admittedFailed tag mask data line r p)).2
      (taskFixTargets tag (admittedFailed tag mask data line r p)).1 p') :
    createEntry tag (.write mask data) line r p = p' := by
  have ho := newEntry_ownsTag (r := r) (.write mask data) hf
  have hm := newEntry_mem (tag := tag) (line := line) (r := r) (.write mask data) p
  have hmir : isMirrorEntry (created tag (.write mask data) line r p) (newEntry tag (.write mask data) line r) = true := by
    rw [isMirrorEntry, region_newEntry, region_created, if_pos rfl, hmode]
    rfl
  have hchoose : chooseFirst (newEntry tag (.write mask data) line r) (created tag (.write mask data) line r p) =
      (created tag (.write mask data) line r p,
        (memberPorts ((created tag (.write mask data) line r p).region r)).map (.immediateFailure tag) ++ [.fixTargets tag]) := by
    rw [chooseFirst, hmir]
    rfl
  obtain ⟨k, hk, hrun⟩ := runsTo_immediateFailures (ts := [.fixTargets tag]) (n := n + 1)
    (c := fun q => (memberAt ((created tag (.write mask data) line r p).region r) q).isSome)
    (findEntry_of_ownsTag ho hm) (fun q hq => hup q (by rwa [region_newEntry, mstate_created] at hq))
    (fun q hq => memberAt_isSome_of_mstate hq) (.single h) allPorts [] rfl
  rw [failuresTaken_nil] at hrun
  have hleave := works_leave ho hm (newEntry_mayLeave _ hf hc) (by rw [hchoose]; exact hrun)
  have hlen : allPorts.length = 4 := rfl
  exact settle_of_works hleave (by omega)

/-- The target choice finds the write with its failures, and lets it leave. -/
theorem taskFixTargets_admitted (hc : p.lineClaim ≠ some line) :
    taskFixTargets tag (admittedFailed tag mask data line r p) =
      if writeTargets (admittedFailed tag mask data line r p) r = 0#4
      then completeEntry (failedEntry tag mask data line r p) .portDown (admittedFailed tag mask data line r p)
      else enterWaitingSlot (failedEntry tag mask data line r p) (writeTargets (admittedFailed tag mask data line r p) r)
        (admittedFailed tag mask data line r p) := by
  have htab := table_admittedFailed (mask := mask) (data := data) (r := r) hf
  have hfind : findEntry (admittedFailed tag mask data line r p) tag = some (failedEntry tag mask data line r p) := by
    rw [← countFailures_newEntry]
    exact findEntry_failuresTaken (findEntry_of_ownsTag (newEntry_ownsTag _ hf) (newEntry_mem _ p)) allPorts
  have hleave : mayLeave (admittedFailed tag mask data line r p) (failedEntry tag mask data line r p) = true :=
    mayLeave_last htab rfl (fun x hx => (hf x hx).2) hc
  have hstatus : writeStatus (failedEntry tag mask data line r p) = .portDown :=
    writeStatus_portDown rfl fun x hx => by
      obtain ⟨q, -, rfl⟩ := List.mem_map.mp hx
      rfl
  have hregion : (failedEntry tag mask data line r p).region = r := rfl
  simp only [taskFixTargets, hfind, hleave, hstatus, hregion, Bool.not_true, Bool.false_eq_true, if_false, beq_iff_eq]

/-- With no target left the write is answered PORT_DOWN, and its freeing sets nothing off (R53). -/
theorem runsTo_noTargets (hc : p.lineClaim ≠ some line) (hr : (p.region r).state = .live)
    (h0 : writeTargets (admittedFailed tag mask data line r p) r = 0#4) :
    RunsTo 2 (taskFixTargets tag (admittedFailed tag mask data line r p)).2
      (taskFixTargets tag (admittedFailed tag mask data line r p)).1
      ((admittedFailed tag mask data line r p).finished (failedEntry tag mask data line r p) .portDown none) := by
  have hq : freesQuietly (admittedFailed tag mask data line r p) (failedEntry tag mask data line r p) := by
    obtain ⟨hd, -⟩ := newEntry_freesQuietly (r := r) (.write mask data) hf hr
    refine ⟨.inl ?_, fun x hx hxl => ?_⟩
    · have hst := (region_failuresTaken (e := newEntry tag (.write mask data) line r)
        (p := created tag (.write mask data) line r p) allPorts).1
      rw [region_newEntry, region_created, if_pos rfl] at hst
      rw [show (failedEntry tag mask data line r p).region = r from rfl, admittedFailed, hst, hr]
      simp
    · rw [table_admittedFailed hf, List.mem_append, List.mem_singleton] at hx
      rcases hx with hx | rfl
      · exact absurd hxl (hf x hx).2
      · rfl
  rw [taskFixTargets_admitted hf hc, if_pos h0, completeEntry_eq _ _ _ (by simp [failedEntry, newEntry])]
  exact runsTo_freesQuietly hq .portDown none

/-- With targets left the write waits for a slot at each (R53). -/
theorem runsTo_targets (hc : p.lineClaim ≠ some line)
    (h0 : writeTargets (admittedFailed tag mask data line r p) r ≠ 0#4) :
    RunsTo 4 (taskFixTargets tag (admittedFailed tag mask data line r p)).2
      (taskFixTargets tag (admittedFailed tag mask data line r p)).1
      (slotsAwaited (failedEntry tag mask data line r p) (writeTargets (admittedFailed tag mask data line r p) r)
        (admittedFailed tag mask data line r p)) := by
  have ho : ownsTag (admittedFailed tag mask data line r p) (failedEntry tag mask data line r p) := fun x hx ht => by
    rw [table_admittedFailed hf, List.mem_append, List.mem_singleton] at hx
    exact hx.resolve_left fun hx => (hf x hx).1 ht
  rw [taskFixTargets_admitted hf hc, if_neg h0]
  exact ⟨_, length_portsOf _, works_enterWaitingSlot _ ho⟩

end

/-- Which copies the failures leave out of service. -/
theorem mstate_admittedFailed (r' : RegionIx) (q : Port) :
    (r' = r ∧ leavesService p r (portDown p) q → mstate (admittedFailed tag mask data line r p) r' q = some .faulted) ∧
    (¬ (r' = r ∧ leavesService p r (portDown p) q) →
      mstate (admittedFailed tag mask data line r p) r' q = mstate p r' q) := by
  by_cases hr : r' = r
  · subst hr
    have hm := mstate_failuresTaken (e := newEntry tag (.write mask data) line r')
      (p := created tag (.write mask data) line r' p) allPorts q
    simp only [region_newEntry, leavesService_created, mstate_created, mem_allPorts, true_and] at hm
    exact ⟨fun h => hm.trans (if_pos h.2), fun h => hm.trans (if_neg fun hc => h ⟨rfl, hc⟩)⟩
  · refine ⟨fun h => absurd h.1 hr, fun _ => ?_⟩
    rw [admittedFailed, mstate_failuresTaken_ne (e := newEntry tag (.write mask data) line r) _ hr, mstate_created]

theorem events_admittedFailed : (admittedFailed tag mask data line r p).events =
    ((downCopies p r).map (immediateRecord p r line)).foldl postTo p.events := by
  have hrec : immediateRecord (created tag (.write mask data) line r p) r line = immediateRecord p r line :=
    funext fun q => if_congr (leavesService_created _ q) rfl rfl
  rw [downCopies, ← hrec, ← failsAtOnce_created (tag := tag) (line := line) (.write mask data)]
  rfl

theorem hasPort_writeTargets_admitted (q : Port) :
    hasPort (writeTargets (admittedFailed tag mask data line r p) r) q = true ↔
      (mstate p r q = some .inService ∨ mstate p r q = some .rejoining) ∧ portDown p q = false := by
  have h := hasPort_writeTargets_failuresTaken (e := newEntry tag (.write mask data) line r)
    (p := created tag (.write mask data) line r p) allPorts q
  simp only [region_newEntry, mstate_created] at h
  exact h

theorem inFlight_admittedFailed :
    ((admittedFailed tag mask data line r p).region r).inFlight = (p.region r).inFlight + 1 := by
  have h := (region_failuresTaken (e := newEntry tag (.write mask data) line r)
    (p := created tag (.write mask data) line r p) allPorts).2
  rwa [region_newEntry, region_created, if_pos rfl] at h

/-- What the failures have done stands to the end of the admission. -/
theorem failures_stand {p' : Part} (h : CopiesStand (admittedFailed tag mask data line r p) p') :
    (∀ r' q, (r' = r ∧ leavesService p r (portDown p) q → mstate p' r' q = some .faulted) ∧
      (¬ (r' = r ∧ leavesService p r (portDown p) q) → mstate p' r' q = mstate p r' q)) ∧
    p'.events = ((downCopies p r).map (immediateRecord p r line)).foldl postTo p.events ∧
    (∀ q, (p'.port q).queue = (p.port q).queue) ∧ p'.lists = p.lists := by
  refine ⟨fun r' q => ?_, h.events.trans events_admittedFailed, fun q => h.queue q, h.lists⟩
  rw [h.mstate]
  exact mstate_admittedFailed r' q

end

/-- A list related to another by a function's graph is its image. -/
theorem eq_map_of_forall₂ {α β : Type} {f : α → β} {R : α → β → Prop} (h : ∀ a b, R a b → b = f a) {l : List α} {bs : List β}
    (hl : List.Forall₂ R l bs) : bs = l.map f := by
  induction hl with
  | nil => rfl
  | cons hab _ ih => rw [List.map_cons, ← ih, h _ _ hab]

theorem eq_immediateRecord {p : Part} {r : RegionIx} {line : UpAddr} (q : Port) (b : EventBody)
    (h : (leavesService p r (portDown p) q →
        b = { kind := .memberEjected, port := some q, region := some r, detail := 3 }) ∧
      (¬ leavesService p r (portDown p) q →
        b = { kind := .lastReplicaError, port := some q, region := some r, detail := 3, addr := .line line })) :
    b = immediateRecord p r line q := by
  rw [immediateRecord]
  split
  · next hl => exact h.1 hl
  · next hl => exact h.2 hl

/-- Settles O8: each member's failure in turn, then the targets on links that are up, or PORT_DOWN. -/
theorem immediateFailuresOfAWrite : Obligations.ImmediateFailuresOfAWrite := by
  intro tag mask data line r failed s hu hf hc hl hr hmode hup hfailed
  obtain rfl : failed = downCopies s.part r := hfailed
  have hx := exec_admission (tag := tag) (op := .write mask data) (line := line) hu
  rw [takeRequest_live _ hu (fun x hx => (hf x hx).1) hl hr] at hx
  have hsame : sameOutside s.part (createEntry tag (.write mask data) line r s.part) :=
    sameOutside_trans (created_same ..) (settle_same (created tag (.write mask data) line r s.part, [.leave line]))
  have htargets := hasPort_writeTargets_admitted (tag := tag) (mask := mask) (data := data) (line := line) (r := r) (p := s.part)
  have htable := table_admittedFailed (mask := mask) (data := data) (r := r) hf
  by_cases h0 : writeTargets (admittedFailed tag mask data line r s.part) r = 0#4
  · rw [createEntry_write hf (by omega) hc hmode hup (runsTo_noTargets hf hc hr h0)] at hx hsame
    obtain ⟨hm, hev, hqueue, hlists⟩ := failures_stand (finished_copiesStand (admittedFailed tag mask data line r s.part) ..)
    refine ⟨_, hx, hsame, hm, fun bodies hb => by rw [eq_map_of_forall₂ eq_immediateRecord hb]; exact hev, hqueue, hlists,
      fun ⟨q, hq⟩ => ?_, fun _ => ⟨?_, rfl, ?_⟩⟩
    · have := (htargets q).mpr hq
      rw [h0, hasPort_zero] at this
      exact absurd this (by simp)
    · show (admittedFailed tag mask data line r s.part).table.filter (fun x => x.tag != tag) = s.part.table
      rw [htable, List.filter_append, List.filter_eq_self.mpr fun x hx => by simpa using (hf x hx).1]
      simp [failedEntry, newEntry]
    · rw [finished_eq, region_puts]
      refine (inFlight_freed (failedEntry tag mask data line r s.part) _).trans ?_
      rw [show (failedEntry tag mask data line r s.part).region = r from rfl, inFlight_admittedFailed]
      rfl
  · rw [createEntry_write hf (by omega) hc hmode hup (runsTo_targets hf hc h0)] at hx hsame
    obtain ⟨hm, hev, hqueue, hlists⟩ := failures_stand (slotsAwaited_copiesStand (failedEntry tag mask data line r s.part)
      (writeTargets (admittedFailed tag mask data line r s.part) r) (admittedFailed tag mask data line r s.part))
    obtain ⟨ports, hp, -, -⟩ := slotsAwaited_spec (failedEntry tag mask data line r s.part)
      (writeTargets (admittedFailed tag mask data line r s.part) r) (admittedFailed tag mask data line r s.part)
    have hfails : ∀ q, hasPort ((downCopies s.part r).foldl addPort 0#4) q = true ↔ q ∈ downCopies s.part r := fun q => by
      simp [hasPort_foldl_addPort, hasPort_zero]
    refine ⟨_, hx, hsame, hm, fun bodies hb => by rw [eq_map_of_forall₂ eq_immediateRecord hb]; exact hev, hqueue, hlists,
      fun _ => ⟨{ failedEntry tag mask data line r s.part with
          state := .waitingSlot, target := writeTargets (admittedFailed tag mask data line r s.part) r },
        ?_, rfl, rfl, rfl, rfl, rfl, htargets, fun q => ⟨hfails q, hfails q⟩, rfl, rfl, ?_, ?_⟩, fun hdn => ?_⟩
    · rw [hp]
      dsimp only
      rw [htable]
      exact map_last (fun x hx => (hf x hx).1) _
    · rw [hp]
      rfl
    · rw [hp]
      exact inFlight_admittedFailed
    · refine absurd (portSet_ext fun q => ?_) h0
      rw [hasPort_zero, ← Bool.not_eq_true]
      intro hq
      obtain ⟨hin, hqup⟩ := (htargets q).mp hq
      exact absurd (hdn q hin) (by simp [hqup])

end Sys2Proof.Machine
end

section
/-! SUPPORT. The waits that end at a lost port, as the works of a link loss (R45, R51, R52, R54, R85). -/

namespace Sys2Proof.Machine

/-! ## Turns -/

/-- The work of least rank goes first, those before it ranking higher and those behind it not lower. -/
theorem nextWork_least {p : Part} {t : Task} {pre post : List Task} (hpre : ∀ u ∈ pre, workRank p t < workRank p u)
    (hpost : ∀ u ∈ post, workRank p t ≤ workRank p u) : nextWork p (pre ++ t :: post) = some (t, pre ++ post) := by
  induction pre with
  | nil =>
    rw [List.nil_append, List.nil_append, nextWork]
    by_cases h0 : workRank p t = 0
    · simp [h0]
    · cases hn : nextWork p post with
      | none =>
        obtain rfl : post = [] := by
          cases post with
          | nil => rfl
          | cons u us => exact absurd hn (nextWork_cons_ne_none p u us)
        simp [h0]
      | some v =>
        obtain ⟨a, b, hab, -⟩ := nextWork_spec p post v.1 v.2 hn
        have hv : workRank p t ≤ workRank p v.1 := hpost v.1 (by rw [hab]; simp)
        simp [h0, hv]
  | cons u us ih =>
    have hu : workRank p t < workRank p u := hpre u (List.mem_cons_self ..)
    have h0 : workRank p u ≠ 0 := by omega
    have hle : ¬ workRank p u ≤ workRank p t := by omega
    rw [List.cons_append, nextWork, ih fun v hv => hpre v (List.mem_cons_of_mem _ hv)]
    simp [h0, hle]

theorem RunsTo.next {n : Nat} {t : Task} {ts rest : List Task} {p p' : Part} (hn : nextWork p ts = some (t, rest))
    (h : RunsTo n ((runTask t p).2 ++ rest) (runTask t p).1 p') : RunsTo (n + 1) ts p p' := by
  obtain ⟨k, hk, hw⟩ := h
  exact ⟨k + 1, by omega, .next hn hw⟩

/-! ## Entries at lost ports -/

theorem isLost_iff (p : Part) (e : Entry) :
    isLost p e = true ↔ e.state = .waitingSlot ∧ ∃ q, hasPort e.target q = true ∧ portDown p q = true := by
  simp [isLost, mem_portsOf]

/-- No entry waits at a port whose link is FAILED or OFF. -/
def noneLost (p : Part) : Prop := ∀ x ∈ p.table, isLost p x = false

theorem runTask_serveLost (p : Part) : runTask .serveLost p = taskServeLost p := rfl

theorem serveLost_idle {p : Part} (h : noneLost p) : runTask .serveLost p = (p, []) := by
  have : p.table.find? (isLost p) = none := List.find?_eq_none.mpr fun x hx => by simp [h x hx]
  rw [runTask_serveLost, taskServeLost, this]

theorem serveLost_first {p : Part} {e : Entry} {q : Port} (he : p.table.find? (isLost p) = some e)
    (hq : lostPort p e = some q) : runTask .serveLost p = ((endWait e q p).1, (endWait e q p).2 ++ [.serveLost]) := by
  rw [runTask_serveLost, taskServeLost, he]
  dsimp only
  rw [hq]

/-- The one target whose link is FAILED or OFF. -/
theorem lostPort_eq {p : Part} {e : Entry} {q : Port} (hq : hasPort e.target q = true) (hd : portDown p q = true)
    (hup : ∀ q', hasPort e.target q' = true → q' = q ∨ portDown p q' = false) : lostPort p e = some q := by
  have hmem : q ∈ portsOf e.target := (mem_portsOf ..).mpr hq
  cases hl : lostPort p e with
  | none => exact absurd hd (List.find?_eq_none.mp hl q hmem)
  | some q' =>
    have h1 : portDown p q' = true := List.find?_some hl
    have h2 : hasPort e.target q' = true := (mem_portsOf ..).mp (List.mem_of_find?_eq_some hl)
    rw [(hup q' h2).resolve_right (by simp [h1])]

/-- With nobody lost, the turn at lost ports does not come before that of any entry. -/
theorem workRank_le_serveLost {p : Part} (h : noneLost p) (t : Task) : workRank p t ≤ workRank p .serveLost := by
  have hs : workRank p .serveLost = 1 + p.table.length := by
    show 1 + p.table.findIdx (isLost p) = _
    rw [List.findIdx_eq_length.mpr h]
  have hidx : ∀ f : Entry → Bool, p.table.findIdx f ≤ p.table.length := fun f => List.findIdx_le_length
  rw [hs]
  cases t with
  | leave line => exact Nat.add_le_add_left (hidx _) 1
  | redirect tag q why => exact Nat.add_le_add_left (hidx _) 1
  | serveLost => exact Nat.add_le_add_left (hidx _) 1
  | _ => exact Nat.zero_le _

/-! ## The port's own part (R85) -/

/-- From `p` to `p0` the link at `q` is lost, and what the entries, the regions and the copy engine hold stands. -/
structure LinkLost (q : Port) (p p0 : Part) : Prop where
  table : p0.table = p.table
  regions : p0.regions = p.regions
  jobs : p0.jobs = p.jobs
  window : p0.window = p.window
  lineClaim : p0.lineClaim = p.lineClaim
  trace : p0.trace = p.trace
  down : portDown p0 q = true
  others : ∀ q', q' ≠ q → portDown p0 q' = portDown p q'

theorem dropLink_linkLost {dest : Link} (h : linkDown dest = true) (q : Port) (why : Reason) (events : List EventBody)
    (p : Part) : LinkLost q p (postAll events (dropLink q dest why p)) := by
  rw [postAll_eq_posts]
  refine ⟨rfl, rfl, rfl, rfl, rfl, rfl, ?_, fun q' hq' => ?_⟩
  · show linkDown (((p.setPort q _).port q).link) = true
    rw [port_setPort_self]
    exact h
  · show linkDown (((p.setPort q _).port q').link) = _
    rw [port_setPort_ne _ _ _ _ hq']
    rfl

section
variable {q : Port} {p p0 : Part} (h : LinkLost q p p0)
include h

theorem LinkLost.region (r : RegionIx) : p0.region r = p.region r := by simp only [Part.region, h.regions]

theorem LinkLost.mstate (r : RegionIx) (q' : Port) : mstate p0 r q' = mstate p r q' := by
  unfold Machine.mstate
  rw [h.region r]

theorem LinkLost.beside (e : Entry) : Beside e p p0 :=
  ⟨by rw [h.table], h.lineClaim, h.window, by rw [h.region], by rw [h.region]⟩

theorem LinkLost.reportWaits {r : RegionIx} {q' : Port} (hw : reportWaits p r q') : reportWaits p0 r q' := by
  intro hm
  rw [h.mstate] at hm
  unfold headHeld
  rw [h.jobs, h.window]
  exact hw hm

theorem LinkLost.copyClaimAt (q' : Port) : copyClaimAt p0 q' = copyClaimAt p q' := by
  rw [Machine.copyClaimAt, h.window, Machine.copyClaimAt]

end

/-- With no claim of the copy engine at the port, a link loss is the port's own part and the turns at lost ports (R85). -/
theorem loseLink_of_runsTo {q : Port} {dest : Link} {why : Reason} {events : List EventBody} {p p' : Part} {n : Nat}
    (hd : linkDown dest = true) (hc : copyClaimAt p q = none)
    (hr : RunsTo n [.serveLost] (postAll events (dropLink q dest why p)) p')
    (hn : n + 1 ≤ agendaBound [.claimLost q, .serveLost] (postAll events (dropLink q dest why p))) :
    loseLink q dest why events p = p' := by
  have hidle : runTask (.claimLost q) (postAll events (dropLink q dest why p)) = (postAll events (dropLink q dest why p), []) := by
    show taskClaimLost q _ = _
    rw [taskClaimLost, (dropLink_linkLost hd q why events p).copyClaimAt, hc]
  obtain ⟨k, hk, hw⟩ := RunsTo.idle rfl hidle hr
  exact runAgenda_of_works hw _ (hk.trans hn)

/-! ## The end of one wait -/

/-- The entry's line has no other entry, and no other entry is lost. -/
structure ServedAlone (e : Entry) (p : Part) : Prop where
  owns : ownsTag p e
  mem : e ∈ p.table
  waits : e.state = .waitingSlot
  alone : ∀ x ∈ p.table, x.line = e.line → x.tag = e.tag
  others : ∀ x ∈ p.table, x.tag ≠ e.tag → isLost p x = false

/-- Where the other entries and all links stand, none is lost once the entry itself is not. -/
theorem ServedAlone.noneLost {e : Entry} {p p' : Part} (h : ServedAlone e p) (hlinks : ∀ q, portDown p' q = portDown p q)
    (hothers : ∀ x ∈ p'.table, x.tag ≠ e.tag → x ∈ p.table) (hself : ∀ x ∈ p'.table, x.tag = e.tag → isLost p' x = false) :
    noneLost p' := by
  intro x hx
  by_cases ht : x.tag = e.tag
  · exact hself x hx ht
  · have : isLost p' x = isLost p x := by
      unfold isLost
      rw [funext hlinks]
    rw [this]
    exact h.others x (hothers x hx ht) ht

theorem Beside.mem_of_tag_ne {e : Entry} {p p' : Part} (h : Beside e p p') : ∀ x ∈ p'.table, x.tag ≠ e.tag → x ∈ p.table :=
  fun x hx ht => List.mem_of_mem_filter (h.others ▸ List.mem_filter.mpr ⟨hx, by simpa using ht⟩)

theorem soleWaiter_servedAlone {p p0 : Part} {e : Entry} {q : Port} (h : soleWaiter p e q) (hl : LinkLost q p p0) :
    ServedAlone e p0 ∧ lostPort p0 e = some q ∧ ∀ q', hasPort e.target q' = true → q' = q ∨ portDown p0 q' = false := by
  obtain ⟨hd, he, hs, hq, hup, -, hx⟩ := h
  have hup0 : ∀ q', hasPort e.target q' = true → q' = q ∨ portDown p0 q' = false := fun q' hq' => by
    by_cases hne : q' = q
    · exact .inl hne
    · exact .inr ((hl.others q' hne).trans ((hup q' hq').resolve_left hne))
  refine ⟨⟨?_, hl.table ▸ he, hs, fun x hm hxl => ?_, fun x hm ht => ?_⟩,
    lostPort_eq hq hl.down hup0, hup0⟩
  · rw [ownsTag, hl.table]
    exact ownsTag_of_distinct hd he
  · by_contra hne
    exact (hx x (hl.table ▸ hm) hne).1 hxl
  · rw [← Bool.not_eq_true, isLost_iff]
    rintro ⟨hxs, q', hxq, hdn⟩
    obtain ⟨hne, hqup⟩ := (hx x (hl.table ▸ hm) ht).2 hxs q' hxq
    rw [hl.others q' hne, hqup] at hdn
    simp at hdn

section
variable {e : Entry} {q : Port} {p : Part} (h : ServedAlone e p) (hq : lostPort p e = some q)
include h hq

/-- The entry's wait ends, and then the turns go on (R52). -/
theorem ServedAlone.serve {p' : Part} {n : Nat} (hr : RunsTo n ((endWait e q p).2 ++ [.serveLost]) (endWait e q p).1 p') :
    RunsTo (n + 1) [.serveLost] p p' := by
  have hlost : isLost p e = true := (isLost_iff ..).mpr ⟨h.waits, q, (mem_portsOf ..).mp (List.mem_of_find?_eq_some hq),
    List.find?_some hq⟩
  have hfind : p.table.find? (isLost p) = some e := by
    cases hf : p.table.find? (isLost p) with
    | none => exact absurd hlost (List.find?_eq_none.mp hf e h.mem)
    | some x =>
      have hxm := List.mem_of_find?_eq_some hf
      by_cases ht : x.tag = e.tag
      · rw [h.owns x hxm ht]
      · exact absurd (List.find?_some hf) (by simp [h.others x hxm ht])
  refine .single ?_
  rw [serveLost_first hfind hq]
  exact hr

end

/-- Where the line has no other entry, nobody takes it over. -/
theorem taskLeave_finished {p : Part} {e : Entry} (hl : ∀ x ∈ p.table, x.line = e.line → x.tag = e.tag) (status : RespStatus)
    (data : Option LineData) : taskLeave e.line (p.finished e status data) = (p.finished e status data, []) :=
  taskLeave_none fun x hx hxl => by
    obtain ⟨hx, ht⟩ := List.mem_filter.mp hx
    exact absurd (hl x hx hxl) (by simpa using ht)

/-- An entry that is answered frees quietly, and nobody else is lost. -/
theorem runsTo_answered {p : Part} {e : Entry} {status : RespStatus} {data : Option LineData} (hq : freesQuietly p e)
    (hn : noneLost (p.finished e status data)) :
    RunsTo 3 [.drainCheck e.region, .leave e.line, .serveLost] (p.finished e status data) (p.finished e status data) := by
  refine ⟨3, le_rfl, works_drainsNothing hq.1 (works_allIdle 2 _ rfl fun t ht => ?_)⟩
  rcases List.mem_cons.mp ht with rfl | ht
  · exact taskLeave_finished hq.2 status data
  · rw [List.mem_singleton.mp ht]
    exact serveLost_idle hn

theorem runsTo_serveLost_idle {p : Part} (h : noneLost p) : RunsTo 1 [.serveLost] p p :=
  .single (by rw [serveLost_idle h]; exact .nil p)

/-! ## What stands beside the entry -/

theorem updateEntry_beside {e : Entry} {f : Entry → Entry} (hf : ∀ x, x.tag = e.tag → (f x).tag = e.tag) (p : Part) :
    Beside e p (updateEntry e.tag f p) := ⟨updateEntry_others hf p, rfl, rfl, rfl, rfl⟩

theorem reportTaken_beside (e : Entry) (r : RegionIx) (q : Port) (why : Reason) (line : Option UpAddr) (p : Part) :
    Beside e p (reportTaken r q why line p) :=
  .of_aside (reportTaken_aside ..) (reportTaken_lineClaim ..) (reportTaken_window ..)

theorem Aside.portDown {p p' : Part} (h : Aside p p') (q : Port) : portDown p' q = portDown p q := by
  rw [Machine.portDown, h.port, Machine.portDown]

/-- The table once one entry has its new form. -/
theorem mem_updateEntry_own {p : Part} {e : Entry} {f : Entry → Entry} (ho : ownsTag p e) {x : Entry}
    (hx : x ∈ (updateEntry e.tag f p).table) (ht : x.tag = e.tag) :
    x = f e := by
  obtain ⟨y, hy, rfl⟩ := List.mem_map.mp hx
  by_cases hyt : y.tag = e.tag
  · rw [ho y hy hyt]
    simp
  · simp [hyt] at ht

/-! ## A DIRECT request (R45) -/

theorem endWait_direct {e : Entry} {q : Port} {p : Part} (hm : (p.region e.region).mode = .direct) (hs : e.state = .waitingSlot) :
    endWait e q p = (p.finished e .portDown none, [.drainCheck e.region, .leave e.line]) := by
  have hmir : isMirrorEntry p e = false := by simp [isMirrorEntry, hm]
  have hdata : (if e.kind == .read && RespStatus.portDown == .ok then e.readData else none) = none := by simp
  rw [endWait, hmir, ← finished_updateEntry (f := recordFail q .link) fun _ => id,
    show completeEntry e .portDown (updateEntry e.tag (recordFail q .link) p) = _ from
      completeEntry_eq e .portDown _ (by simp [hs]), hdata]
  rfl

section
variable {e : Entry} {q : Port} {p : Part} (h : ServedAlone e p)
include h

/-- The entry is answered, the other entries and the links standing: nothing else follows. -/
theorem ServedAlone.answered {p' : Part} (hb : Beside e p p') (hlinks : ∀ q, portDown p' q = portDown p q)
    (hd : drainsNothing p e) (status : RespStatus) (data : Option LineData) :
    RunsTo 3 [.drainCheck e.region, .leave e.line, .serveLost] (p'.finished e status data) (p'.finished e status data) := by
  refine runsTo_answered ⟨hb.drainsNothing hd, hb.alone h.alone⟩ (h.noneLost hlinks (fun x hx _ => ?_) fun x hx ht => ?_)
  · rw [hb.finished_table] at hx
    exact List.mem_of_mem_filter hx
  · have := (List.mem_filter.mp hx).2
    simp [ht] at this

theorem ServedAlone.runsTo_direct (hq : lostPort p e = some q) (hm : (p.region e.region).mode = .direct)
    (hd : drainsNothing p e) : RunsTo 4 [.serveLost] p (p.finished e .portDown none) := by
  refine h.serve hq ?_
  rw [endWait_direct hm h.waits]
  exact h.answered (.refl e p) (fun _ => rfl) hd .portDown none

end

/-! ## A MIRROR read (R51) -/

theorem balance_mem {p : Part} {l : List Port} {q : Port} (h : balance p l = some q) : q ∈ l := (balance_first h).1

/-- A read policy picks one of the eligible ports (R46 to R49). -/
theorem policyChoice_mem {p : Part} {r : Region} {l : List Port} {q : Port} (h : policyChoice p r l = some q) : q ∈ l := by
  cases hp : r.policy with
  | balance => rw [policyChoice, hp] at h; exact balance_mem h
  | preferred =>
    rw [policyChoice, hp] at h
    dsimp only at h
    split at h
    · split at h
      · next hc => exact Option.some.inj h ▸ List.contains_iff_mem.mp hc
      · exact balance_mem h
    · exact balance_mem h
  | alternate => exact ((policyChoice_alternate hp p l q).mp h).1

/-- A MIRROR read goes to a port whose link is up (R46). -/
theorem portDown_of_chooseRead {p p' : Part} {e : Entry} {q : Port} (h : chooseRead p e = some (q, p')) :
    portDown p q = false := by
  unfold chooseRead at h
  dsimp only at h
  split at h
  · simp at h
  · next x hc =>
    obtain ⟨rfl, -⟩ := Prod.mk.inj (Option.some.inj h)
    have := (List.mem_filter.mp (policyChoice_mem hc)).2
    simp only [Bool.and_eq_true, Bool.not_eq_true'] at this
    exact this.2

/-- A read whose wait has ended: no target is left, and the failure is recorded (R51). -/
def Entry.waitEnded (q : Port) (x : Entry) : Entry := { x with target := 0#4, reasons := withReason q .link x.reasons }

theorem endWait_read {p : Part} {e : Entry} (q : Port) (hm : (p.region e.region).mode = .mirror) (hk : e.kind = .read) :
    endWait e q p = (updateEntry e.tag (Entry.waitEnded q) p,
      [.report e.region q .link (some e.line), .redirect e.tag q .link]) := by
  have hmir : isMirrorEntry p e = true := by simp [isMirrorEntry, hm]
  rw [endWait, hmir, hk]
  rfl

section
variable {p : Part} {e : Entry} {q : Port} (he : findEntry p e.tag = some (e.waitEnded q)) (hs : e.state = .waitingSlot)
include he hs

theorem taskRedirect_waiting_next {next : Port} {p' : Part} (hc : chooseRead p e = some (next, p')) :
    taskRedirect e.tag q .link p = (redirected e q next p', [.giveBack next]) := by
  have hst : (e.waitEnded q).state = .waitingSlot := hs
  have hch : chooseRead p (e.waitEnded q) = some (next, p') := hc
  simp [taskRedirect, he, hst, hch, redirected]
  rfl

theorem taskRedirect_waiting_none (hc : chooseRead p e = none) :
    taskRedirect e.tag q .link p = (p.finished e .portDown none, [.drainCheck e.region, .leave e.line]) := by
  have hst : (e.waitEnded q).state = .waitingSlot := hs
  have hch : chooseRead p (e.waitEnded q) = none := hc
  have : taskRedirect e.tag q .link p = completeEntry (e.waitEnded q) .portDown p := by
    simp [taskRedirect, he, hst, hch, failureStatus]
  have hdata : (if (e.waitEnded q).kind == .read && RespStatus.portDown == .ok then (e.waitEnded q).readData else none) = none := by
    simp
  rw [this, completeEntry_eq _ _ _ (by simp [hst]), hdata, finished_congr (e := e) rfl rfl rfl]
  rfl

end

section
variable {e : Entry} {q : Port} {p : Part} (h : ServedAlone e p) (hq : lostPort p e = some q)

/-- The part once the wait of a read has ended and its report is taken (R51). -/
def readReported (e : Entry) (q : Port) (p : Part) : Part :=
  reportTaken e.region q .link (some e.line) (updateEntry e.tag (Entry.waitEnded q) p)

theorem readReported_aside (e : Entry) (q : Port) (p : Part) :
    Aside (updateEntry e.tag (Entry.waitEnded q) p) (readReported e q p) := reportTaken_aside ..

theorem readReported_beside (e : Entry) (q : Port) (p : Part) : Beside e p (readReported e q p) :=
  (updateEntry_beside (f := Entry.waitEnded q) (fun _ => id) p).trans (reportTaken_beside ..)

theorem portDown_readReported (e : Entry) (q : Port) (p : Part) (q' : Port) :
    portDown (readReported e q p) q' = portDown p q' := (readReported_aside e q p).portDown q'

include h

theorem ServedAlone.findEntry_readReported : findEntry (readReported e q p) e.tag = some (e.waitEnded q) := by
  rw [findEntry_of_table (readReported_aside e q p).table]
  exact findEntry_updateEntry (fun _ => id) (findEntry_of_ownsTag h.owns h.mem)

theorem ServedAlone.noneLost_readReported : Machine.noneLost (readReported e q p) := by
  have hb := readReported_beside e q p
  refine h.noneLost (portDown_readReported e q p) hb.mem_of_tag_ne fun x hx ht => ?_
  rw [(readReported_aside e q p).table] at hx
  rw [mem_updateEntry_own h.owns hx ht, ← Bool.not_eq_true, isLost_iff]
  rintro ⟨-, q', hq', -⟩
  exact absurd hq' (by simp [Entry.waitEnded, hasPort_zero])

include hq

/-- The report comes first, then the read's new choice, then the turns at lost ports (R51, R52). -/
theorem ServedAlone.runsTo_read {p' : Part} {n : Nat} (hm : (p.region e.region).mode = .mirror) (hk : e.kind = .read)
    (hw : reportWaits p e.region q)
    (hr : RunsTo n ((taskRedirect e.tag q .link (readReported e q p)).2 ++ [.serveLost])
      (taskRedirect e.tag q .link (readReported e q p)).1 p') : RunsTo (n + 4) [.serveLost] p p' := by
  refine h.serve hq ?_
  rw [endWait_read q hm hk]
  refine runsTo_report .link (some e.line) (p := updateEntry e.tag (Entry.waitEnded q) p) hw ?_
  have hnext : nextWork (readReported e q p) [.redirect e.tag q .link, .serveLost] =
      some (.redirect e.tag q .link, [.serveLost]) :=
    nextWork_least (pre := []) (by simp) fun u hu => by
      rw [List.mem_singleton.mp hu]
      exact workRank_le_serveLost h.noneLost_readReported _
  exact .next hnext hr

theorem ServedAlone.runsTo_read_next {next : Port} {p' : Part} (hm : (p.region e.region).mode = .mirror) (hk : e.kind = .read)
    (hw : reportWaits p e.region q) (hc : chooseRead (readReported e q p) e = some (next, p'))
    (hfree : hasFreeSlot (p'.port next) = true) : RunsTo 6 [.serveLost] p (redirected e q next p') := by
  have ha := chooseRead_aside hc
  have hup : portDown p next = false := by rw [← portDown_readReported e q]; exact portDown_of_chooseRead hc
  have hlinks : ∀ q', portDown (redirected e q next p') q' = portDown p q' := fun q' =>
    (ha.portDown q').trans (portDown_readReported e q p q')
  have hnone : Machine.noneLost (redirected e q next p') := by
    refine h.noneLost hlinks (fun x hx ht => ?_) fun x hx ht => ?_
    · obtain ⟨y, hy, rfl⟩ := List.mem_map.mp hx
      split at ht
      · next hyt => exact absurd (by simpa using hyt) ht
      · next hyt =>
        rw [if_neg hyt]
        exact (readReported_beside e q p).mem_of_tag_ne y (ha.table ▸ hy) (by simpa using hyt)
    · obtain ⟨y, hy, rfl⟩ := List.mem_map.mp hx
      split at ht
      · next hyt =>
        rw [if_pos hyt, ← Bool.not_eq_true, isLost_iff]
        rintro ⟨-, q', hq', hdn⟩
        rw [hasPort_onePort, decide_eq_true_iff] at hq'
        subst hq'
        simp [hlinks, hup] at hdn
      · next hyt => exact absurd ht (by simpa using hyt)
  refine (h.runsTo_read hq hm hk hw (n := 2) ?_)
  rw [taskRedirect_waiting_next h.findEntry_readReported h.waits hc]
  refine .idle rfl ?_ (runsTo_serveLost_idle hnone)
  rw [runTask_giveBack, taskGiveBack_free (show hasFreeSlot ((redirected e q next p').port next) = true from hfree)]

theorem ServedAlone.runsTo_read_none (hm : (p.region e.region).mode = .mirror) (hk : e.kind = .read)
    (hw : reportWaits p e.region q) (hc : chooseRead (readReported e q p) e = none) (hd : drainsNothing p e) :
    RunsTo 7 [.serveLost] p ((readReported e q p).finished e .portDown none) := by
  refine h.runsTo_read hq hm hk hw ?_
  rw [taskRedirect_waiting_none h.findEntry_readReported h.waits hc]
  exact h.answered (readReported_beside e q p) (portDown_readReported e q p) hd .portDown none

end

/-! ## A MIRROR write (R54) -/

/-- A waiting write that has lost its target at `q`, counted if the copy there is IN_SERVICE (R54). -/
def shrunk (p : Part) (q : Port) (e : Entry) : Entry :=
  { e with target := dropPort e.target q, fail := addPort e.fail q, reasons := withReason q .link e.reasons,
           counted := if mstate p e.region q = some .inService then addPort e.counted q else e.counted }

/-- The part once a write has lost its target and the report is taken (R54). -/
def writeReported (e : Entry) (q : Port) (p : Part) : Part :=
  reportTaken e.region q .link (some e.line) (updateEntry e.tag (fun _ => shrunk p q e) p)

theorem writeReported_aside (e : Entry) (q : Port) (p : Part) :
    Aside (updateEntry e.tag (fun _ => shrunk p q e) p) (writeReported e q p) := reportTaken_aside ..

theorem writeReported_beside (e : Entry) (q : Port) (p : Part) : Beside e p (writeReported e q p) :=
  (updateEntry_beside (e := e) (f := fun _ => shrunk p q e) (fun _ _ => rfl) p).trans (reportTaken_beside ..)

theorem portDown_writeReported (e : Entry) (q : Port) (p : Part) (q' : Port) :
    portDown (writeReported e q p) q' = portDown p q' := (writeReported_aside e q p).portDown q'

section
variable {e : Entry} {q : Port} {p : Part} (h : ServedAlone e p)
include h

theorem ServedAlone.endWait_write (hm : (p.region e.region).mode = .mirror) (hk : e.kind = .write) :
    endWait e q p = (updateEntry e.tag (fun _ => shrunk p q e) p,
      [.report e.region q .link (some e.line), .afterShrink e.tag]) := by
  have hmir : isMirrorEntry p e = true := by simp [isMirrorEntry, hm]
  have hup : updateEntry e.tag (fun x => recordFail q .link { x with
      target := dropPort x.target q
      counted := if mstate p e.region q == some .inService then addPort x.counted q else x.counted }) p =
        updateEntry e.tag (fun _ => shrunk p q e) p := by
    refine congrArg p.setTable (List.map_congr_left fun x hx => ?_)
    by_cases ht : x.tag = e.tag
    · rw [h.owns x hx ht]
      simp [recordFail, shrunk]
    · simp [ht]
  rw [endWait, hmir, hk, ← hup]
  rfl

theorem ServedAlone.findEntry_writeReported : findEntry (writeReported e q p) e.tag = some (shrunk p q e) := by
  rw [findEntry_of_table (writeReported_aside e q p).table]
  exact findEntry_updateEntry (f := fun _ => shrunk p q e) (fun _ _ => rfl) (findEntry_of_ownsTag h.owns h.mem)

/-- The only entry with its tag is the write without the lost target. -/
theorem ServedAlone.own_writeReported {x : Entry} (hx : x ∈ (writeReported e q p).table) (ht : x.tag = e.tag) :
    x = shrunk p q e := by
  rw [(writeReported_aside e q p).table] at hx
  exact mem_updateEntry_own (f := fun _ => shrunk p q e) h.owns hx ht

theorem ServedAlone.noneLost_writeReported (hup : ∀ q', hasPort e.target q' = true → q' = q ∨ portDown p q' = false) :
    Machine.noneLost (writeReported e q p) := by
  refine h.noneLost (portDown_writeReported e q p) (writeReported_beside e q p).mem_of_tag_ne fun x hx ht => ?_
  rw [h.own_writeReported hx ht, ← Bool.not_eq_true, isLost_iff]
  rintro ⟨-, q', hq', hdn⟩
  rw [show (shrunk p q e).target = dropPort e.target q from rfl, hasPort_dropPort] at hq'
  simp only [Bool.and_eq_true, Bool.not_eq_true', decide_eq_false_iff_not] at hq'
  have := (hup q' hq'.1).resolve_left fun hc => hq'.2 hc.symm
  rw [portDown_writeReported, this] at hdn
  simp at hdn

theorem ServedAlone.afterShrink_noTarget (hk : e.kind = .write) (h0 : (shrunk p q e).target = 0#4) :
    taskAfterShrink e.tag (writeReported e q p) =
      ((writeReported e q p).finished e (writeStatus (shrunk p q e)) none, [.drainCheck e.region, .leave e.line]) := by
  have hs : (shrunk p q e).state = .waitingSlot := h.waits
  have hread : ((shrunk p q e).kind == .read) = false := by rw [show (shrunk p q e).kind = .write from hk]; rfl
  have : taskAfterShrink e.tag (writeReported e q p) =
      completeEntry (shrunk p q e) (writeStatus (shrunk p q e)) (writeReported e q p) := by
    simp [taskAfterShrink, h.findEntry_writeReported, hs, h0]
  rw [this, completeEntry_eq _ _ _ (by simp [hs]), hread, finished_congr (e := e) rfl rfl rfl]
  rfl

theorem ServedAlone.afterShrink_target (h0 : (shrunk p q e).target ≠ 0#4) : taskAfterShrink e.tag (writeReported e q p) =
    if heldSet (writeReported e q p) e.tag = (shrunk p q e).target
    then placeMirror (shrunk p q e) (writeReported e q p) else (writeReported e q p, []) := by
  have hs : (shrunk p q e).state = .waitingSlot := h.waits
  simp [taskAfterShrink, h.findEntry_writeReported, hs, h0, placeIfComplete]

/-- A placed write waits no longer. -/
theorem ServedAlone.noneLost_placed : Machine.noneLost (placeMirror (shrunk p q e) (writeReported e q p)).1 := by
  obtain ⟨-, -, -, -, -, -, -, -, -, -, -, hports⟩ := placeMirror_same (shrunk p q e) (writeReported e q p)
  have hlinks : ∀ q', portDown (placeMirror (shrunk p q e) (writeReported e q p)).1 q' = portDown p q' := fun q' => by
    rw [portDown, (hports q').1]
    exact portDown_writeReported e q p q'
  have htable : (placeMirror (shrunk p q e) (writeReported e q p)).1.table = (writeReported e q p).table.map (fun x =>
      if x.tag = e.tag then x.placed (targetsInService (shrunk p q e) (writeReported e q p)) else x) := by
    rw [placeMirror_part]
    rfl
  refine h.noneLost hlinks (fun x hx ht => ?_) fun x hx ht => ?_
  all_goals
    rw [htable] at hx
    obtain ⟨y, hy, rfl⟩ := List.mem_map.mp hx
    by_cases hyt : y.tag = e.tag
  · rw [if_pos hyt] at ht
    exact absurd hyt ht
  · rw [if_neg hyt]
    exact (writeReported_beside e q p).mem_of_tag_ne y hy hyt
  · rw [if_pos hyt]
    simp [isLost, Entry.placed]
  · rw [if_neg hyt] at ht
    exact absurd ht hyt

section
variable (hq : lostPort p e = some q) (hm : (p.region e.region).mode = .mirror) (hk : e.kind = .write)
  (hw : reportWaits p e.region q)
include hq hm hk hw

/-- The report comes first, then what follows the loss of the target, then the turns at lost ports (R52, R54). -/
theorem ServedAlone.runsTo_write {p' : Part} {n : Nat}
    (hr : RunsTo n ((taskAfterShrink e.tag (writeReported e q p)).2 ++ [.serveLost])
      (taskAfterShrink e.tag (writeReported e q p)).1 p') : RunsTo (n + 4) [.serveLost] p p' := by
  refine h.serve hq ?_
  rw [h.endWait_write hm hk]
  exact runsTo_report .link (some e.line) (p := updateEntry e.tag (fun _ => shrunk p q e) p) hw (.cons rfl hr)

theorem ServedAlone.runsTo_write_noTarget (h0 : (shrunk p q e).target = 0#4) (hd : drainsNothing p e) :
    RunsTo 7 [.serveLost] p ((writeReported e q p).finished e (writeStatus (shrunk p q e)) none) := by
  refine h.runsTo_write hq hm hk hw ?_
  rw [h.afterShrink_noTarget hk h0]
  exact h.answered (writeReported_beside e q p) (portDown_writeReported e q p) hd _ none

theorem ServedAlone.runsTo_write_waits (hup : ∀ q', hasPort e.target q' = true → q' = q ∨ portDown p q' = false)
    (h0 : (shrunk p q e).target ≠ 0#4) (hh : heldSet (writeReported e q p) e.tag ≠ (shrunk p q e).target) :
    RunsTo 5 [.serveLost] p (writeReported e q p) := by
  refine h.runsTo_write hq hm hk hw ?_
  rw [h.afterShrink_target h0, if_neg hh]
  exact runsTo_serveLost_idle (h.noneLost_writeReported hup)

theorem ServedAlone.runsTo_write_placed (h0 : (shrunk p q e).target ≠ 0#4)
    (hh : heldSet (writeReported e q p) e.tag = (shrunk p q e).target) (hwin : p.window.map (·.addr) ≠ some e.line) :
    RunsTo 6 [.serveLost] p (placeMirror (shrunk p q e) (writeReported e q p)).1 := by
  refine h.runsTo_write hq hm hk hw (n := 2) ?_
  have hworks : (placeMirror (shrunk p q e) (writeReported e q p)).2 = [.notice e.line (isFullLine (shrunk p q e))] := rfl
  rw [h.afterShrink_target h0, if_pos hh, hworks]
  refine .idle rfl ?_ (runsTo_serveLost_idle h.noneLost_placed)
  have hwindow : (placeMirror (shrunk p q e) (writeReported e q p)).1.window = p.window := by
    rw [placeMirror_part]
    exact (writeReported_beside e q p).window
  generalize (placeMirror (shrunk p q e) (writeReported e q p)).1 = placed at hwindow
  show taskNotice e.line (isFullLine (shrunk p q e)) placed = (placed, [])
  cases hpw : p.window with
  | none => exact taskNotice_noWindow _ _ (hwindow.trans hpw)
  | some w => exact taskNotice_elsewhere _ (hwindow.trans hpw) (.inl fun hc => hwin (by rw [hpw, Option.map_some, hc]))

end

end

end Sys2Proof.Machine
end

section
/-! SUPPORT. Several waits of DIRECT requests at a lost port, and the statement about link losses (O23). -/

namespace Sys2Proof.Machine

/-! ## Several DIRECT requests (R45, R52) -/

/-- The entry waits in WAITING_SLOT with the port in its target set. -/
def waitsAt (q : Port) (e : Entry) : Bool := e.state == .waitingSlot && hasPort e.target q

/-- The answer of a request whose wait ended (R45). -/
def portDownResponse (e : Entry) : Output := .response { tag := e.tag, status := .portDown, data := none }

/-- The link at `q` is lost, those who wait there are DIRECT requests of LIVE regions, and all other links that entries wait
at are up; each line has one entry. -/
structure DirectWaits (q : Port) (p : Part) : Prop where
  distinct : tagsDistinct p
  down : portDown p q = true
  alone : ∀ e ∈ p.table, ∀ x ∈ p.table, x.line = e.line → x.tag = e.tag
  links : ∀ e ∈ p.table, e.state = .waitingSlot → ∀ q', hasPort e.target q' = true → q' = q ∨ portDown p q' = false
  direct : ∀ e ∈ p.table, waitsAt q e = true → (p.region e.region).mode = .direct ∧ (p.region e.region).state = .live

theorem region_finished (p : Part) (e : Entry) (status : RespStatus) (data : Option LineData) (r : RegionIx) :
    ((p.finished e status data).region r).mode = (p.region r).mode ∧
    ((p.finished e status data).region r).state = (p.region r).state := by
  rw [finished_eq, region_puts, freed, region_lowerInFlight]
  split
  · next h => rw [h]; exact ⟨rfl, rfl⟩
  · exact ⟨rfl, rfl⟩

theorem trace_finished_waiting {q : Port} {e : Entry} (h : waitsAt q e = true) (p : Part) :
    (p.finished e .portDown none).trace = p.trace ++ [portDownResponse e] := by
  have hs : e.state = .waitingSlot := by simpa using (Bool.and_eq_true_iff.mp h).1
  exact if_neg (by simp [hs])

section
variable {q : Port} {p : Part} (h : DirectWaits q p)
include h

theorem DirectWaits.isLost {e : Entry} (he : e ∈ p.table) : isLost p e = waitsAt q e := by
  rw [Bool.eq_iff_iff, isLost_iff, waitsAt, Bool.and_eq_true, beq_iff_eq]
  refine and_congr_right fun hs => ⟨fun ⟨q', hq', hd⟩ => ?_, fun hq => ⟨q, hq, h.down⟩⟩
  rcases h.links e he hs q' hq' with rfl | hup
  · exact hq'
  · simp [hup] at hd

/-- What holds of the waits holds of those left when one has ended. -/
theorem DirectWaits.finished (e : Entry) (status : RespStatus) (data : Option LineData) :
    DirectWaits q (p.finished e status data) where
  distinct := h.distinct.sublist ((List.filter_sublist ..).map _)
  down := h.down
  alone x hx y hy := h.alone x (List.mem_of_mem_filter hx) y (List.mem_of_mem_filter hy)
  links x hx := h.links x (List.mem_of_mem_filter hx)
  direct x hx hw := by
    obtain ⟨hm, hs⟩ := region_finished p e status data x.region
    rw [hm, hs]
    exact h.direct x (List.mem_of_mem_filter hx) hw

/-- The earliest wait ends with PORT_DOWN. -/
theorem DirectWaits.serve_first {e : Entry} (he : p.table.find? (Machine.isLost p) = some e) : runTask .serveLost p =
    (p.finished e .portDown none, [.drainCheck e.region, .leave e.line, .serveLost]) := by
  have hmem := List.mem_of_find?_eq_some he
  have hlost : Machine.isLost p e = true := List.find?_some he
  rw [h.isLost hmem] at hlost
  obtain ⟨hs, hq⟩ : e.state = .waitingSlot ∧ hasPort e.target q = true := by simpa [waitsAt] using hlost
  obtain ⟨hmode, -⟩ := h.direct e hmem hlost
  rw [serveLost_first he (lostPort_eq hq h.down (h.links e hmem hs)), endWait_direct hmode hs]
  rfl

/-- The earliest wait's entry, and the others in their order. -/
theorem DirectWaits.table_finished {e : Entry} (he : p.table.find? (Machine.isLost p) = some e) :
    ∃ as bs, p.table = as ++ e :: bs ∧ (p.finished e .portDown none).table = as ++ bs ∧ ∀ x ∈ as, waitsAt q x = false := by
  obtain ⟨-, as, bs, hsplit, has⟩ := List.find?_eq_some_iff_append.mp he
  have hd := h.distinct
  rw [tagsDistinct, hsplit, List.map_append, List.map_cons, List.nodup_middle, List.nodup_cons, ← List.map_append] at hd
  refine ⟨as, bs, hsplit, ?_, fun x hx => ?_⟩
  · have hkeep : ∀ x ∈ as ++ bs, (x.tag != e.tag) = true := fun x hx => by
      simpa using fun hc : x.tag = e.tag => hd.1 (hc ▸ List.mem_map_of_mem hx)
    show p.table.filter (fun x => x.tag != e.tag) = as ++ bs
    rw [hsplit, List.filter_append, List.filter_cons_of_neg (by simp), ← List.filter_append, List.filter_eq_self.mpr hkeep]
  · rw [← h.isLost (by rw [hsplit]; exact List.mem_append_left _ hx)]
    simpa using has x hx

theorem DirectWaits.drainCheck_idle {e : Entry} (hmem : e ∈ p.table) (hlost : waitsAt q e = true) :
    runTask (.drainCheck e.region) (p.finished e .portDown none) = (p.finished e .portDown none, []) :=
  taskDrainCheck_kept _ _ (not_drained_of_drainsNothing (.inl (by rw [(h.direct e hmem hlost).2]; simp)) _ _)

end

/-- The turn of a line that has no entry comes last. -/
theorem workRank_leave_none {p : Part} {line : UpAddr} (h : ∀ x ∈ p.table, x.line ≠ line) :
    workRank p (.leave line) = 1 + p.table.length := by
  show 1 + p.table.findIdx (leavesLine p line) = _
  rw [List.findIdx_eq_length.mpr fun x hx => ?_]
  rw [← Bool.not_eq_true, leavesLine_iff]
  exact fun hc => h x hx hc.1

theorem workRank_serveLost_some {p : Part} {e : Entry} (h : p.table.find? (isLost p) = some e) :
    workRank p .serveLost < 1 + p.table.length :=
  Nat.add_lt_add_left (List.findIdx_lt_length_of_exists ⟨e, List.mem_of_find?_eq_some h, List.find?_some h⟩) 1

/-- The waits end in admission order, the turns of their lines finding no entry. -/
theorem runsTo_directWaits {q : Port} {p : Part} (h : DirectWaits q p) (pre post : List UpAddr)
    (hl : ∀ l ∈ pre ++ post, ∀ x ∈ p.table, x.line ≠ l) : ∃ p',
    RunsTo (3 * p.table.length + pre.length + post.length + 1) (pre.map .leave ++ .serveLost :: post.map .leave) p p' ∧
    p'.trace = p.trace ++ (p.table.filter (waitsAt q)).map portDownResponse ∧
    p'.table = p.table.filter (fun e => !waitsAt q e) := by
  cases hf : p.table.find? (isLost p) with
  | none =>
    have hnone : ∀ x ∈ p.table, waitsAt q x = false := fun x hx => by
      rw [← h.isLost hx]
      simpa using List.find?_eq_none.mp hf x hx
    refine ⟨p, ⟨_, ?_, works_allIdle _ _ rfl fun t ht => ?_⟩, ?_, ?_⟩
    · simp only [List.length_append, List.length_map, List.length_cons]
      omega
    · simp only [List.mem_append, List.mem_map, List.mem_cons] at ht
      rcases ht with ⟨l, hm, rfl⟩ | rfl | ⟨l, hm, rfl⟩
      · exact taskLeave_none (hl l (List.mem_append_left _ hm))
      · exact serveLost_idle fun x hx => by rw [h.isLost hx, hnone x hx]
      · exact taskLeave_none (hl l (List.mem_append_right _ hm))
    · rw [List.filter_eq_nil_iff.mpr fun x hx => by simp [hnone x hx]]
      simp
    · exact (List.filter_eq_self.mpr fun x hx => by simp [hnone x hx]).symm
  | some e =>
    obtain ⟨as, bs, hsplit, hfin, has⟩ := h.table_finished hf
    have hmem := List.mem_of_find?_eq_some hf
    have hlost : waitsAt q e = true := by rw [← h.isLost hmem]; exact List.find?_some hf
    obtain ⟨p', hrun, htrace, htable⟩ := runsTo_directWaits (h.finished e .portDown none) [e.line] (pre ++ post) fun l hm x hx => by
      rcases List.mem_append.mp hm with hm | hm
      · rw [List.mem_singleton.mp hm]
        obtain ⟨hx, ht⟩ := List.mem_filter.mp hx
        exact fun hxl => absurd (h.alone e hmem x hx hxl) (by simpa using ht)
      · exact hl l hm x (List.mem_of_mem_filter hx)
    have hlast : ∀ l ∈ pre ++ post, workRank p .serveLost < workRank p (.leave l) := fun l hm => by
      rw [workRank_leave_none (hl l hm)]
      exact workRank_serveLost_some hf
    have hnext : nextWork p (pre.map .leave ++ .serveLost :: post.map .leave) =
        some (.serveLost, pre.map .leave ++ post.map .leave) := by
      refine nextWork_least (fun u hu => ?_) fun u hu => ?_ <;> obtain ⟨l, hm, rfl⟩ := List.mem_map.mp hu
      · exact hlast l (List.mem_append_left _ hm)
      · exact (hlast l (List.mem_append_right _ hm)).le
    refine ⟨p', ?_, ?_, ?_⟩
    · rw [← List.map_append] at hnext
      refine (RunsTo.next hnext ?_).mono (?_ : 3 * (p.finished e .portDown none).table.length + 1 + (pre ++ post).length + 1 + 1 + 1 ≤ _)
      · rw [h.serve_first hf]
        exact .idle rfl (h.drainCheck_idle hmem hlost) hrun
      · rw [hfin, hsplit]
        simp only [List.length_append, List.length_cons]
        omega
    · have hnil : as.filter (waitsAt q) = [] := List.filter_eq_nil_iff.mpr fun x hx => by simp [has x hx]
      rw [htrace, hfin, hsplit, trace_finished_waiting hlost, List.filter_append, List.filter_append, hnil,
        List.filter_cons_of_pos hlost, List.append_assoc]
      rfl
    · rw [htable, hfin, hsplit, List.filter_append, List.filter_append, List.filter_cons_of_neg (by simp [hlost])]
termination_by p.table.length
decreasing_by
  rw [hfin, hsplit]
  simp

/-! ## The statement -/

section
variable {q : Port} {dest : Link} {why : Reason} {events : List EventBody} {e : Entry} {p p0 : Part}
  (hd : linkDown dest = true) (hp0 : p0 = postAll events (dropLink q dest why p)) (hsole : soleWaiter p e q)
include hd hp0 hsole

/-- Where one entry waits, what its turn leads to is what the link loss leads to. -/
theorem loseLink_of_soleWaiter {p' : Part} {n : Nat} (hn : n ≤ 4000) (hr : RunsTo n [.serveLost] p0 p') :
    loseLink q dest why events p = p' := by
  obtain ⟨-, -, -, -, -, hc, -⟩ := hsole
  subst hp0
  exact loseLink_of_runsTo hd hc hr ((by omega : n + 1 ≤ 4096).trans (agendaBound_large _ _))

theorem soleWaiter_direct (hm : (p.region e.region).mode = .direct) (hdn : drainsNothing p e) :
    loseLink q dest why events p = p0.finished e .portDown none := by
  have hl : LinkLost q p p0 := hp0 ▸ dropLink_linkLost hd q why events p
  obtain ⟨h, hq, -⟩ := soleWaiter_servedAlone hsole hl
  exact loseLink_of_soleWaiter hd hp0 hsole (by omega)
    (h.runsTo_direct hq (by rw [hl.region]; exact hm) ((hl.beside e).drainsNothing hdn))

theorem soleWaiter_read (hm : (p.region e.region).mode = .mirror) (hk : e.kind = .read) (hw : reportWaits p e.region q) :
    (∀ next p', chooseRead (readReported e q p0) e = some (next, p') → hasFreeSlot (p'.port next) = true →
      loseLink q dest why events p = redirected e q next p') ∧
    (chooseRead (readReported e q p0) e = none → drainsNothing p e →
      loseLink q dest why events p = (readReported e q p0).finished e .portDown none) := by
  have hl : LinkLost q p p0 := hp0 ▸ dropLink_linkLost hd q why events p
  obtain ⟨h, hq, -⟩ := soleWaiter_servedAlone hsole hl
  have hm0 : (p0.region e.region).mode = .mirror := by rw [hl.region]; exact hm
  have hto := fun {p' : Part} {n : Nat} => loseLink_of_soleWaiter (p' := p') (n := n) hd hp0 hsole
  exact ⟨fun next p' hc hfree => hto (by omega) (h.runsTo_read_next hq hm0 hk (hl.reportWaits hw) hc hfree),
    fun hc hdn => hto (by omega) (h.runsTo_read_none hq hm0 hk (hl.reportWaits hw) hc ((hl.beside e).drainsNothing hdn))⟩

theorem soleWaiter_write (hm : (p.region e.region).mode = .mirror) (hk : e.kind = .write) (hw : reportWaits p e.region q) :
    ((shrunk p0 q e).target = 0#4 → drainsNothing p e →
      loseLink q dest why events p = (writeReported e q p0).finished e (writeStatus (shrunk p0 q e)) none) ∧
    ((shrunk p0 q e).target ≠ 0#4 → heldSet (writeReported e q p0) e.tag ≠ (shrunk p0 q e).target →
      loseLink q dest why events p = writeReported e q p0) ∧
    ((shrunk p0 q e).target ≠ 0#4 → heldSet (writeReported e q p0) e.tag = (shrunk p0 q e).target →
      p.window.map (·.addr) ≠ some e.line →
      loseLink q dest why events p = (placeMirror (shrunk p0 q e) (writeReported e q p0)).1) := by
  have hl : LinkLost q p p0 := hp0 ▸ dropLink_linkLost hd q why events p
  obtain ⟨h, hq, hup⟩ := soleWaiter_servedAlone hsole hl
  have hm0 : (p0.region e.region).mode = .mirror := by rw [hl.region]; exact hm
  have hw0 := hl.reportWaits hw
  have hto := fun {p' : Part} {n : Nat} => loseLink_of_soleWaiter (p' := p') (n := n) hd hp0 hsole
  exact ⟨fun h0 hdn => hto (by omega) (h.runsTo_write_noTarget hq hm0 hk hw0 h0 ((hl.beside e).drainsNothing hdn)),
    fun h0 hh => hto (by omega) (h.runsTo_write_waits hq hm0 hk hw0 hup h0 hh),
    fun h0 hh hwin => hto (by omega) (h.runsTo_write_placed hq hm0 hk hw0 h0 hh (by rw [hl.window]; exact hwin))⟩

end

/-- Where all that wait are DIRECT requests, each is answered in its turn. -/
theorem loseLink_directWaits {q : Port} {dest : Link} {why : Reason} {events : List EventBody} {p : Part}
    (hd : linkDown dest = true) (hc : copyClaimAt p q = none)
    (h : DirectWaits q (postAll events (dropLink q dest why p))) :
    (loseLink q dest why events p).trace = p.trace ++ (p.table.filter (waitsAt q)).map portDownResponse ∧
    (loseLink q dest why events p).table = p.table.filter (fun e => !waitsAt q e) := by
  have hl := dropLink_linkLost hd q why events p
  obtain ⟨p', hrun, htrace, htable⟩ := runsTo_directWaits h [] [] (by simp)
  rw [loseLink_of_runsTo hd hc hrun (by unfold agendaBound; simp only [List.length_nil]; omega), ← hl.trace, ← hl.table]
  exact ⟨htrace, htable⟩

/-- After the port's own part, the requests at it are as the statement has them before. -/
theorem DirectWaits.of_linkLost {q : Port} {p p0 : Part} (hl : LinkLost q p p0) (htags : tagsDistinct p)
    (h : ∀ e ∈ p.table, (∀ x ∈ p.table, x.line = e.line → x.tag = e.tag) ∧ (e.state = .waitingSlot →
      (∀ q', hasPort e.target q' = true → q' = q ∨ portDown p q' = false) ∧ (hasPort e.target q = true →
        (p.region e.region).mode = .direct ∧ (p.region e.region).state = .live))) : DirectWaits q p0 := by
  rw [← hl.table] at h
  refine ⟨by rw [tagsDistinct, hl.table]; exact htags, hl.down, fun e he => (h e he).1, fun e he hs q' hq' => ?_, fun e he hw => ?_⟩
  · by_cases hne : q' = q
    · exact .inl hne
    · exact .inr ((hl.others q' hne).trans ((((h e he).2 hs).1 q' hq').resolve_left hne))
  · obtain ⟨hs, hq⟩ : e.state = .waitingSlot ∧ hasPort e.target q = true := by simpa [waitsAt] using hw
    rw [hl.region]
    exact ((h e he).2 hs).2 hq

/-! ## The rows that lose a link (R80, R83, R84, R86, R90, R92) -/

theorem exec_linkError {q : Port} {s : State} (hs : s.part.porst = false)
    (hlink : (s.part.port q).link = .training ∨ (s.part.port q).link = .active ∨ (s.part.port q).link = .waking) :
    leavesPart (.linkError q) s (loseLink q .failed .link [linkFailedEvent q .link] s.part) := by
  have h : linkError q s.part = loseLink q .failed .link [linkFailedEvent q .link] s.part := by
    rcases hlink with hlink | hlink | hlink <;> simp [linkError, hlink, failLink]
  exact h ▸ onPart_running (linkError q) s hs

theorem exec_trainingExpiry {q : Port} {t0 : Nat} {s : State} (hs : s.part.porst = false)
    (hlink : (s.part.port q).link = .training) (ht : (s.part.port q).trainingSince = some t0) :
    leavesPart (.trainingTimerExpiry q) s
      (loseLink q .failed .link [linkFailedEvent q .training] { s.part with now := max s.part.now (t0 + 5000) }) := by
  have h : trainingExpiry q s.part =
      loseLink q .failed .link [linkFailedEvent q .training] (reachTime (t0 + Config.trainingMicros) s.part) := by
    simp [trainingExpiry, hlink, ht]
  exact h ▸ onPart_running (trainingExpiry q) s hs

theorem exec_wakeExpiry {q : Port} {t0 : Nat} {s : State} (hs : s.part.porst = false)
    (hlink : (s.part.port q).link = .waking) (ht : (s.part.port q).wakeSince = some t0) :
    leavesPart (.wakeTimerExpiry q) s
      (loseLink q .failed .link [{ kind := .wakeFailed, port := some q }, linkFailedEvent q .link]
        { s.part with now := max s.part.now (t0 + 1000) }) := by
  have h : wakeExpiry q s.part = loseLink q .failed .link [{ kind := .wakeFailed, port := some q }, linkFailedEvent q .link]
      (reachTime (t0 + Config.wakeMicros) s.part) := by
    simp [wakeExpiry, hlink, ht]
  exact h ▸ onPart_running (wakeExpiry q) s hs

theorem exec_responseExpiry {q : Port} {t0 d : Nat} {x : QEntry} {s : State} (hs : s.part.porst = false)
    (hlink : (s.part.port q).link = .active) (ho : oldestSent (s.part.port q) = some x) (hx : x.sentAt = some t0)
    (ht : timeoutMicros (s.part.port q).timeoutIx = some d) :
    leavesPart (.responseTimerExpiry q) s
      (loseLink q .failed .timeout [linkFailedEvent q .timeout] { s.part with now := max s.part.now (t0 + d) }) := by
  have h : responseExpiry q s.part =
      loseLink q .failed .timeout [linkFailedEvent q .timeout] (reachTime (t0 + d) s.part) := by
    simp [responseExpiry, hlink, ho, hx, ht]
  exact h ▸ onPart_running (responseExpiry q) s hs

/-- A response of the wrong form is a link error (R89, R90). -/
theorem exec_deviceResponse_wrongForm {q : Port} {k : SlotIx} {resp : DevResponse} {x : QEntry} {s : State}
    (hs : s.part.porst = false) (hlink : (s.part.port q).link = .active)
    (hx : (s.part.port q).queue.find? (fun x => x.slot == k && x.sentAt.isSome) = some x)
    (hr : responseResult x.op resp = none) :
    leavesPart (.deviceResponse q k resp) s (loseLink q .failed .link [linkFailedEvent q .link] s.part) := by
  have h : deviceResponse q k resp s.part = loseLink q .failed .link [linkFailedEvent q .link] s.part := by
    simp [deviceResponse, hlink, hx, hr, failLink]
  exact h ▸ onPart_running (deviceResponse q k resp) s hs

theorem exec_portDisable {q : Port} {seq port : Byte} {s : State} (ht : takesCommand s seq) (hp : portOf port = some q)
    (hd : servesDirect s.part q = false) (hl : holdsLastReplica s.part q = false) (hlink : (s.part.port q).link ≠ .off) :
    repliesWith (.portDisable seq port 0#8) s seq 0x21#8 .ok [] (loseLink q .off .link [] (s.part.out (.shutDown q))) :=
  repliesWith_of_run rfl ht (by simp [cmdPortDisable, cleanPort, hp, hd, hl, disablePort, hlink, done])

/-- Settles O23: the three forms of a sole wait, several DIRECT waits, and the rows that lose a link. -/
theorem linkLossEndsWaits : Obligations.LinkLossEndsWaits := by
  refine ⟨fun q dest why events e p p0 hd hp0 hsole => ⟨fun hm hdn => soleWaiter_direct hd hp0 hsole hm hdn,
      fun p1 hm hk hw hp1 => hp1 ▸ soleWaiter_read hd hp0 hsole hm hk hw, fun p1 e1 hm hk hw he1 hp1 => ?_⟩,
    fun q dest why events p hd htags hc hx => loseLink_directWaits hd hc ?_, fun q t0 s hs => ⟨exec_linkError hs, fun hl ht => ?_,
      fun hl ht => ?_, fun x d hl ho hx ht => ?_, fun x k resp hl hx hr => ?_, fun seq port ht hp hserv hlast hl => ?_⟩⟩
  · have he : shrunk p0 q e = e1 := by
      have hl : LinkLost q p p0 := hp0 ▸ dropLink_linkLost hd q why events p
      rw [he1, shrunk, hl.mstate]
    subst hp1
    rw [← he]
    exact soleWaiter_write hd hp0 hsole hm hk hw
  · exact .of_linkLost (dropLink_linkLost hd q why events p) htags hx
  · exact exec_trainingExpiry hs hl ht
  · exact exec_wakeExpiry hs hl ht
  · exact exec_responseExpiry hs hl ho hx ht
  · exact exec_deviceResponse_wrongForm hs hl hx hr
  · exact exec_portDisable ht hp hserv hlast hl

end Sys2Proof.Machine
end

section
/-! SUPPORT. What every work of an event does to the regions: a relation between parts that holds of the few changes a work can
make there holds of every work, and of a whole event. -/

namespace Sys2Proof.Machine

/-! ## The changes of the regions -/

/-- A region but for its in-flight count and its ALTERNATE pointer. -/
def Region.core (x : Region) : Region := { x with inFlight := 0, alternate := none }

/-- The relation holds of what the works of an event do to the regions: nothing but counts and pointers (R27, R49), a report
taken (R64 to R67), an abandonment for SOURCE (R74), a completion (R73), and a drained region made FREE (R38). -/
structure RegionFrame (R : Part → Part → Prop) : Prop where
  trans : ∀ {a b c}, R a b → R b c → R a c
  core : ∀ {p p'}, (∀ r, (p'.region r).core = (p.region r).core) → R p p'
  report : ∀ r q why line p, R p (takeReport r q why line p)
  takeOut : ∀ q why p, R p (takeOutRejoining q why p)
  complete : ∀ q p, R p (takeCompletion q p)
  retired : ∀ r p, drained p r = true → R p (p.retired r)

/-! ## Regions that stand -/

theorem core_lowerInFlight (r r' : RegionIx) (p : Part) : ((lowerInFlight r p).region r').core = (p.region r').core := by
  rw [region_lowerInFlight]
  split
  · next h => subst h; rfl
  · rfl

theorem core_raiseInFlight (r r' : RegionIx) (p : Part) : ((raiseInFlight r p).region r').core = (p.region r').core := by
  rw [region_raiseInFlight]
  split
  · next h => subst h; rfl
  · rfl

theorem core_chooseRead {p p' : Part} {e : Entry} {q : Port} (h : chooseRead p e = some (q, p')) (r : RegionIx) :
    (p'.region r).core = (p.region r).core := by
  unfold chooseRead at h
  dsimp only at h
  split at h
  · simp at h
  · obtain ⟨-, rfl⟩ := Prod.mk.inj (Option.some.inj h)
    split
    · rw [region_setRegion]
      split
      · next h => subst h; rfl
      · rfl
    · rfl

theorem regions_placeTxn (q : Port) (k : SlotIx) (o : Origin) (op : Op) (a : DownAddr) (p : Part) :
    (placeTxn q k o op a p).regions = p.regions := by rw [placeTxn_eq]; rfl

theorem regions_releaseHeldAt (tag : Tag) (p : Part) (q : Port) : (releaseHeldAt tag p q).regions = p.regions := by
  unfold releaseHeldAt
  dsimp only
  split <;> rfl

theorem core_dropWaiting (e : Entry) (p : Part) (r : RegionIx) : ((dropWaiting p e).region r).core = (p.region r).core := by
  have hback : (releaseHeld e.tag p).regions = p.regions := by simp [releaseHeld, allPorts, regions_releaseHeldAt]
  have hreg : (releaseHeld e.tag p).region r = p.region r := by simp only [Part.region, hback]
  rw [dropWaiting, core_lowerInFlight, region_removeEntry, hreg]

theorem regions_taskGiveBack (q : Port) (p : Part) : (taskGiveBack q p).1.regions = p.regions := by
  unfold taskGiveBack
  split
  · rfl
  · split <;> rfl

theorem regions_updateEntry (tag : Tag) (f : Entry → Entry) (p : Part) : (updateEntry tag f p).regions = p.regions := rfl

theorem regions_insertRun (q : Port) (x : Run) (p : Part) : (insertRun q x p).regions = p.regions := by
  rw [insertRun_eq]
  rfl

theorem regions_insertIfOut (e : Entry) (p : Part) (q : Port) : (insertIfOut e p q).regions = p.regions := by
  unfold insertIfOut
  split
  · exact regions_insertRun _ _ _
  · rfl

theorem regions_postEnd (ev : Option EventBody) (p : Part) : (postEnd ev p).regions = p.regions := (postEnd_stores ev p).regions

theorem regions_overtaken (w : Window) (p : Part) : (overtaken w p).2.regions = p.regions := by
  unfold overtaken
  dsimp only
  split <;> rfl

theorem regions_postMismatch (d : PortSet) (r : RegionIx) (a : UpAddr) (p : Part) :
    (postMismatch d r a p).regions = p.regions := by
  unfold postMismatch
  split <;> rfl

theorem regions_postAll (bs : List EventBody) (p : Part) : (postAll bs p).regions = p.regions := by rw [postAll_eq_posts]; rfl

theorem regions_requestCatchUp (q : Port) (p : Part) : (requestCatchUp q p).regions = p.regions := by
  unfold requestCatchUp
  split <;> rfl

theorem regions_startWake (q : Port) (p : Part) : (startWake q p).regions = p.regions := by
  unfold startWake
  dsimp only
  split <;> rfl

theorem regions_enterActive (q : Port) (p : Part) : (enterActive q p).regions = p.regions := by rw [enterActive_eq]; rfl

theorem regions_appendByte (b : Byte) (p : Part) : (appendByte b p).regions = p.regions := by
  unfold appendByte
  split <;> rfl

namespace RegionFrame

variable {R : Part → Part → Prop} (h : RegionFrame R)
include h

theorem same {p p' : Part} (hr : p'.regions = p.regions) : R p p' := h.core fun r => by simp [Part.region, hr]

theorem refl (p : Part) : R p p := h.same rfl

/-- What follows a change that leaves the regions as they are. -/
theorem after {p p' p'' : Part} (hr : R p' p'') (hs : p'.regions = p.regions) : R p p'' := h.trans (h.same hs) hr

theorem foldl {α : Type} {f : Part → α → Part} (hf : ∀ p x, R p (f p x)) : ∀ (l : List α) (p : Part), R p (l.foldl f p)
  | [], p => h.refl p
  | x :: xs, p => h.trans (hf p x) (foldl hf xs (f p x))

theorem foldl_same {α : Type} {f : Part → α → Part} (hf : ∀ p x, (f p x).regions = p.regions) (l : List α) (p : Part) :
    R p (l.foldl f p) := h.foldl (fun p x => h.same (hf p x)) l p

/-! ## Entries -/

theorem freeEntry (e : Entry) (p : Part) : R p (freeEntry e p).1 :=
  h.core fun r => core_lowerInFlight e.region r (removeEntry e.tag p)

theorem completeEntry (e : Entry) (st : RespStatus) (p : Part) : R p (completeEntry e st p).1 :=
  h.after (h.freeEntry e _) rfl

theorem finishEntry (e : Entry) (st : RespStatus) (p : Part) : R p (finishEntry e st p).1 := by
  unfold Machine.finishEntry
  split
  · exact h.freeEntry e p
  · exact h.completeEntry e st p

theorem finishWrite (tag : Tag) (p : Part) : R p (finishWrite tag p).1 := by
  unfold Machine.finishWrite
  split
  · exact h.refl p
  · split
    · exact h.finishEntry _ _ p
    · exact h.refl p

theorem enterWaitingSlot (e : Entry) (t : PortSet) (p : Part) : R p (enterWaitingSlot e t p).1 := h.same rfl

theorem chooseDirect (e : Entry) (p : Part) : R p (chooseDirect e p).1 := by
  unfold Machine.chooseDirect
  split
  · split
    · exact h.completeEntry e _ p
    · exact h.enterWaitingSlot e _ p
  · exact h.completeEntry e _ p

theorem chooseFirst (e : Entry) (p : Part) : R p (chooseFirst e p).1 := by
  unfold Machine.chooseFirst
  split
  · exact h.chooseDirect e p
  · split
    · split
      · next hc => exact h.trans (h.core (core_chooseRead hc)) (h.enterWaitingSlot e _ _)
      · exact h.completeEntry e _ p
    · exact h.refl p

theorem leave (line : UpAddr) (p : Part) : R p (taskLeave line p).1 := by
  unfold taskLeave
  split
  · exact h.refl p
  · exact h.chooseFirst _ p

theorem immediateFailure (tag : Tag) (q : Port) (p : Part) : R p (taskImmediateFailure tag q p).1 := by
  unfold taskImmediateFailure
  split
  · exact h.refl p
  · dsimp only
    split <;> exact h.same rfl

theorem fixTargets (tag : Tag) (p : Part) : R p (taskFixTargets tag p).1 := by
  unfold taskFixTargets
  split
  · exact h.refl p
  · dsimp only
    split
    · exact h.refl p
    · split
      · exact h.completeEntry _ _ p
      · exact h.enterWaitingSlot _ _ p

theorem redirect (tag : Tag) (q : Port) (why : Reason) (p : Part) : R p (taskRedirect tag q why p).1 := by
  unfold taskRedirect
  split
  · exact h.refl p
  · split
    · exact h.freeEntry _ p
    · split
      · exact h.refl p
      · split
        · next hc => exact h.trans (h.core (core_chooseRead hc)) (h.same rfl)
        · exact h.completeEntry _ _ p

/-! ## Placement and lost ports -/

theorem placeMirror (e : Entry) (p : Part) : R p (placeMirror e p).1 := by
  have hplace : ∀ p q, (placeAt e p q).regions = p.regions := fun p q => by
    unfold placeAt
    split
    · exact regions_placeTxn ..
    · rfl
  have hreport : ∀ p q, R p (placementReport e p q) := fun p q => by
    unfold placementReport
    split
    · exact h.report ..
    · exact h.refl p
  exact h.trans (h.foldl_same hplace _ p) (h.trans (h.same (regions_updateEntry _ _ _)) (h.trans (h.foldl hreport _ _)
    (h.trans (h.foldl_same (regions_insertIfOut e) _ _) (h.same (regions_updateEntry _ _ _)))))

theorem placeIfComplete (tag : Tag) (p : Part) : R p (placeIfComplete tag p).1 := by
  unfold Machine.placeIfComplete
  split
  · exact h.refl p
  · split
    · exact h.placeMirror _ p
    · exact h.refl p

theorem endWait (e : Entry) (q : Port) (p : Part) : R p (endWait e q p).1 := by
  unfold Machine.endWait
  split
  · exact h.after (h.completeEntry e _ _) rfl
  · split <;> exact h.same rfl

theorem serveLost (p : Part) : R p (taskServeLost p).1 := by
  unfold taskServeLost
  split
  · exact h.refl p
  · split
    · exact h.endWait _ _ p
    · exact h.refl p

theorem afterShrink (tag : Tag) (p : Part) : R p (taskAfterShrink tag p).1 := by
  unfold taskAfterShrink
  split
  · exact h.refl p
  · split
    · exact h.refl p
    · split
      · exact h.completeEntry _ _ p
      · exact h.placeIfComplete tag p

theorem afterWriteFailure (tag : Tag) (q : Port) (p : Part) : R p (taskAfterWriteFailure tag q p).1 := by
  unfold taskAfterWriteFailure
  split
  · exact h.refl p
  · exact h.trans (h.same (regions_insertIfOut _ p q)) (h.finishWrite tag _)

theorem hostOk (e : Entry) (q : Port) (data : Option LineData) (p : Part) : R p (hostOk e q data p).1 := by
  unfold Machine.hostOk
  dsimp only
  generalize ({ e with ack := addPort e.ack q, readData := if e.kind == .read then data else e.readData } : Entry) = e'
  split
  · exact h.after (h.finishWrite _ _) rfl
  · exact h.after (h.finishEntry _ _ _) rfl

theorem hostFailed (e : Entry) (q : Port) (why : Reason) (p : Part) : R p (hostFailed e q why p).1 := by
  unfold Machine.hostFailed
  dsimp only
  split
  · exact h.after (h.finishEntry _ _ _) rfl
  · exact h.same rfl

theorem takeHostOutcome (tag : Tag) (q : Port) (result : TxnResult) (p : Part) : R p (takeHostOutcome tag q result p).1 := by
  unfold Machine.takeHostOutcome
  split
  · exact h.refl p
  · split
    · split
      · exact h.hostOk _ q _ p
      all_goals exact h.hostFailed _ q _ p
    · exact h.refl p

/-! ## Copy engine -/

theorem leaveRunning (rest : List Job) (ev : Option EventBody) (p : Part) : R p (leaveRunning rest ev p).1 :=
  h.same (endRunning_stores rest ev p).regions

theorem leaveCatchUp (q : Port) (ev : Option EventBody) (p : Part) : R p (leaveCatchUp q ev p).1 := by
  unfold Machine.leaveCatchUp
  split
  · exact h.refl p
  · split
    · exact h.leaveRunning _ ev p
    · exact h.same (regions_postEnd ev p)

theorem taskReport (r : RegionIx) (q : Port) (why : Reason) (line : Option UpAddr) (p : Part) :
    R p (taskReport r q why line p).1 := by
  unfold Machine.taskReport
  split
  · exact h.trans (h.report ..) (h.leaveCatchUp q _ _)
  · exact h.report ..

theorem headStart (p : Part) : R p (taskHeadStart p).1 := by
  unfold taskHeadStart
  split
  · split
    · exact h.refl p
    · dsimp only
      split <;> exact h.same rfl
  all_goals exact h.refl p

theorem abandonSource (q : Port) (p : Part) : R p (abandonSource q p).1 :=
  h.trans (h.takeOut q _ p) (h.leaveRunning _ _ _)

theorem chooseSource (q : Port) (p : Part) : R p (taskChooseSource q p).1 := by
  unfold taskChooseSource
  split
  · exact h.refl p
  · split
    · exact h.abandonSource q p
    · exact h.same rfl

theorem selection (q : Port) (p : Part) : R p (taskSelection q p).1 := by
  unfold taskSelection
  split
  · exact h.same rfl
  · exact h.trans (h.complete q p) (h.leaveRunning _ _ _)

theorem lineDone (q : Port) (p : Part) : R p (taskLineDone q p).1 := by
  unfold taskLineDone
  split
  · exact h.refl p
  · next w _ =>
    have hnext : ∀ p, (nextCatchUpLine q w p).1.regions = p.regions := fun p => by
      unfold nextCatchUpLine
      split
      · split <;> rfl
      · rfl
    split
    · exact h.trans (h.same (releaseLineClaim_stores p).regions) (h.same (hnext _))
    · exact h.refl p

theorem afterSourceFailure (t s : Port) (p : Part) : R p (taskAfterSourceFailure t s p).1 := by
  unfold taskAfterSourceFailure
  split
  · exact h.refl p
  · split
    · split
      · exact h.refl p
      · split
        · exact h.abandonSource t p
        · exact h.same rfl
    · exact h.refl p

theorem compareStart (p : Part) : R p (taskCompareStart p).1 := by
  unfold taskCompareStart
  split
  · exact h.refl p
  · dsimp only
    split
    · exact h.leaveRunning _ _ p
    · exact h.same rfl

theorem recordLine (d : PortSet) (w : Window) (p : Part) : R p (recordLine d w p).1 := by
  have hcount : ∀ c r a, R p (setRunningCompare c (postMismatch d r a p)) := fun c r a => h.same (regions_postMismatch d r a p)
  unfold Machine.recordLine
  split
  · exact h.refl p
  · dsimp only
    split
    · exact hcount _ _ _
    · exact h.trans (hcount _ _ _) (h.leaveRunning _ _ _)

theorem compareProgress (p : Part) : R p (compareProgress p).1 := by
  have hline : ∀ w, R p (compareLine w p).1 := fun w => by
    unfold compareLine
    dsimp only
    split
    · exact h.refl p
    · exact h.trans (h.same (releaseLineClaim_stores p).regions) (h.recordLine _ _ _)
  unfold Machine.compareProgress
  split
  · exact h.refl p
  · split
    · split
      · exact h.refl p
      · exact hline _
    · exact h.refl p

theorem closeCheck (p : Part) : R p (taskCloseCheck p).1 := by
  unfold taskCloseCheck
  split
  · exact h.refl p
  · split <;> exact h.same rfl

theorem copyFailed (part : CopyPart) (q : Port) (why : Reason) (p : Part) : R p (taskCopyFailed part q why p).1 := by
  unfold taskCopyFailed
  split
  · exact h.refl p
  · dsimp only
    split
    · exact h.refl p
    · split <;> exact h.same rfl

theorem copyOk (part : CopyPart) (q : Port) (d : LineData) (p : Part) : R p (copyOk part q d p).1 := by
  have hdata : ∀ t w, R p (sourceData t q d w p).1 := fun t w => by
    unfold sourceData
    split
    · exact h.refl p
    · split
      · exact h.same rfl
      · split
        · exact h.same rfl
        · dsimp only
          split <;> exact h.same rfl
  unfold Machine.copyOk
  split
  · exact h.refl p
  · split
    · exact h.refl p
    · split
      · exact hdata _ _
      · exact h.refl p
      · exact h.after (h.compareProgress _) rfl
      all_goals exact h.refl p

theorem takeCopyOutcome (part : CopyPart) (q : Port) (result : TxnResult) (p : Part) :
    R p (takeCopyOutcome part q result p).1 := by
  unfold Machine.takeCopyOutcome
  split
  · exact h.copyOk part q _ p
  all_goals exact h.refl p

theorem claimLost (q : Port) (p : Part) : R p (taskClaimLost q p).1 := by
  unfold taskClaimLost
  split
  · exact h.refl p
  · exact h.same (withdrawClaimAt_stores q p).regions

theorem noticeReading (t : Port) (full : Bool) (w : Window) (p : Part) : R p (noticeReading t full w p).1 := by
  unfold Machine.noticeReading
  split
  · exact h.refl p
  · split
    · split
      · exact h.same rfl
      · exact h.same (regions_overtaken w p)
    · split
      · exact h.same (withdrawClaimAt_stores t p).regions
      · exact h.trans (h.same (regions_overtaken w p)) (h.same (withdrawClaimAt_stores t _).regions)

theorem notice (line : UpAddr) (full : Bool) (p : Part) : R p (taskNotice line full p).1 := by
  unfold taskNotice
  split
  · exact h.refl p
  · split
    · split
      · exact h.noticeReading _ full _ p
      · exact h.same (regions_overtaken _ p)
    · exact h.refl p

theorem drainCheck (r : RegionIx) (p : Part) : R p (taskDrainCheck r p).1 := by
  by_cases hd : drained p r = true
  · rw [taskDrainCheck_drained r p hd]
    exact h.retired r p hd
  · rw [taskDrainCheck_kept r p (by simpa using hd)]
    exact h.refl p

/-! ## Events -/

theorem runTask (t : Task) (p : Part) : R p (runTask t p).1 := by
  cases t with
  | leave line => exact h.leave line p
  | immediateFailure tag q => exact h.immediateFailure tag q p
  | fixTargets tag => exact h.fixTargets tag p
  | giveBack q => exact h.same (regions_taskGiveBack q p)
  | serveLost => exact h.serveLost p
  | redirect tag q why => exact h.redirect tag q why p
  | afterShrink tag => exact h.afterShrink tag p
  | afterWriteFailure tag q => exact h.afterWriteFailure tag q p
  | report r q why line => exact h.taskReport r q why line p
  | drainCheck r => exact h.drainCheck r p
  | headStart => exact h.headStart p
  | selection q => exact h.selection q p
  | chooseSource q => exact h.chooseSource q p
  | lineDone q => exact h.lineDone q p
  | afterSourceFailure t s => exact h.afterSourceFailure t s p
  | compareStart => exact h.compareStart p
  | afterCompareFailure => exact h.compareProgress p
  | closeCheck => exact h.closeCheck p
  | claimLost q => exact h.claimLost q p
  | copyFailed part q why => exact h.copyFailed part q why p
  | notice line full => exact h.notice line full p
  | posting b => exact h.same rfl

theorem settle {p : Part} {a : Act} (ha : R p a.1) : R p (settle a) :=
  h.trans ha (runAgenda_keeps h.refl (fun _ _ _ => h.trans) h.runTask _ _ _)

end RegionFrame

end Sys2Proof.Machine
end

section
/-! SUPPORT. What every command does to the regions: with the commands on regions and memberships given, a relation between parts
that holds of every work holds of every step. -/

namespace Sys2Proof.Machine

/-- The relation holds of what the works of an event do to the regions, and of what the commands on regions and memberships do
before their works: a link-loss claim (R68), REGION_STAGE (R29), a commit that passes its checks (R30), REGION_RETIRE (R35),
DETACH where no last replica is (R70), REJOIN (R71), and the two edges of PORST_N (R41, R42). -/
structure CommandFrame (R : Part → Part → Prop) : Prop extends RegionFrame R where
  linkLoss : ∀ q why p, R p (takeLinkLoss q why p)
  stage : ∀ p r x, inUse (p.region r) = false → x.state = .staged → R p (p.setRegion r x)
  commit : ∀ p r init primary, commitPasses p (p.region r) init primary → R p (madeLive r init primary p)
  retire : ∀ p r, (p.region r).state = .live → R p (retiringNow r p)
  detach : ∀ q p, holdsLastReplica p q = false → R p (allRegions.foldl (detachAt q) p)
  rejoin : ∀ q p r, R p (rejoinAt q p r)
  abandoned : ∀ p hrst bootsz mbaud now trace, R p (Part.abandoned hrst bootsz mbaud now trace)
  powerOn : ∀ p hrst bootsz mbaud now trace, R p (Part.powerOn hrst bootsz mbaud now trace)

/-- The relation holds of what the command does to the part. -/
def Command.FramedBy (R : Part → Part → Prop) (run : Command) : Prop := ∀ p, R p (run p).1

namespace CommandFrame

variable {R : Part → Part → Prop} (h : CommandFrame R)
include h

/-! ## Links and grants -/

theorem loseLink (q : Port) (dest : Link) (why : Reason) (bs : List EventBody) (p : Part) : R p (loseLink q dest why bs p) :=
  h.settle (h.same (regions_postAll bs (dropLink q dest why p)))

theorem loseLinkAt (q : Port) (dest : Link) (why : Reason) (bs : List EventBody) (t : Nat) (p : Part) :
    R p (Machine.loseLink q dest why bs (reachTime t p)) := h.after (h.loseLink q dest why bs _) rfl

theorem deviceReady (q : Port) (p : Part) : R p (deviceReady q p) := by
  unfold Machine.deviceReady
  split
  · exact h.same (regions_enterActive q p)
  · exact h.same (regions_enterActive q p)
  all_goals exact h.refl p

theorem trainingExpiry (q : Port) (p : Part) : R p (trainingExpiry q p) := by
  unfold Machine.trainingExpiry
  split
  · exact h.loseLinkAt ..
  · exact h.refl p

theorem silenceExpiry (q : Port) (p : Part) : R p (silenceExpiry q p) := by
  unfold Machine.silenceExpiry
  dsimp only
  split <;> exact h.same rfl

theorem wakeExpiry (q : Port) (p : Part) : R p (wakeExpiry q p) := by
  unfold Machine.wakeExpiry
  split
  · exact h.loseLinkAt ..
  · exact h.refl p

theorem linkError (q : Port) (p : Part) : R p (linkError q p) := by
  unfold Machine.linkError
  split
  · exact h.loseLink ..
  · exact h.loseLink ..
  · exact h.loseLink ..
  all_goals exact h.refl p

theorem responseExpiry (q : Port) (p : Part) : R p (responseExpiry q p) := by
  unfold Machine.responseExpiry
  split
  · exact h.loseLinkAt ..
  · exact h.refl p

theorem deviceResponse (q : Port) (k : SlotIx) (resp : DevResponse) (p : Part) : R p (deviceResponse q k resp p) := by
  unfold Machine.deviceResponse
  dsimp only
  split
  · exact h.refl p
  · split
    · exact h.refl p
    · split
      · exact h.same rfl
      · exact h.loseLink ..

theorem grantAct (q : Port) (k : SlotIx) (p : Part) : R p (grantAct q k p).1 := by
  unfold Machine.grantAct
  split
  · exact h.refl p
  · split
    · split
      · exact h.same ((regions_placeTxn ..).trans (regions_startWake q p))
      · exact h.refl p
    · split
      · next e _ =>
        have hheld : (holdSlot q k e.tag (copyClaimAt p q).isSome (startWake q p)).regions = p.regions := regions_startWake q p
        unfold grantDispatcher
        dsimp only
        split
        · exact h.after (h.placeIfComplete _ _) hheld
        · exact h.after (h.same (regions_placeTxn ..)) hheld
      · exact h.refl p

/-! ## Host channel and owners -/

theorem takeRequest (tag : Tag) (op : Op) (line : UpAddr) (p : Part) : R p (takeRequest tag op line p) := by
  unfold Machine.takeRequest
  split
  · exact h.refl p
  · split
    · exact h.same rfl
    · split
      · split
        · exact h.settle (h.core fun r => core_raiseInFlight _ r (p.setTable _))
        · exact h.same rfl
      · exact h.same rfl

theorem assertHrst (p : Part) : R p (assertHrst p) := by
  have hdrop : ∀ p e, R p (dropWaiting p e) := fun p e => h.core (core_dropWaiting e p)
  unfold Machine.assertHrst
  split
  · exact h.refl p
  · split
    · exact h.same rfl
    · refine h.after (p' := { p with hrst := true }) ?_ rfl
      have hfreed := h.foldl hdrop (p.table.filter unplaced) { p with hrst := true }
      exact h.settle (h.trans hfreed (h.same rfl))

theorem hostOutcome (q : Port) (p : Part) : R p (hostOutcome q p) := by
  unfold Machine.hostOutcome
  split
  · split
    · exact h.settle (h.after (h.takeHostOutcome _ _ _ _) rfl)
    · exact h.refl p
  · exact h.refl p

theorem copyOutcome (q : Port) (p : Part) : R p (copyOutcome q p) := by
  unfold Machine.copyOutcome
  split
  · split
    · exact h.settle (h.after (h.takeCopyOutcome _ _ _ _) rfl)
    · exact h.refl p
  · exact h.refl p

theorem linkLossWorks (q : Port) (why : Reason) (p : Part) : R p (linkLossWorks q why p).1 := by
  unfold Machine.linkLossWorks
  split
  · exact h.trans (h.linkLoss q why p) (h.leaveCatchUp q _ _)
  · dsimp only
    exact h.linkLoss q why p

theorem linkLossClaim (q : Port) (p : Part) : R p (linkLossClaim q p) := by
  unfold Machine.linkLossClaim
  split
  · exact h.settle (h.after (h.linkLossWorks _ _ _) rfl)
  · exact h.refl p

/-! ## Commands on regions and memberships -/

theorem cmdRegionStage (x : StageRecord) (p : Part) : R p (cmdRegionStage x p).1 := by
  unfold Machine.cmdRegionStage
  split
  · exact h.refl p
  · split
    · exact h.refl p
    · split
      · exact h.refl p
      · next hu =>
        split
        · next y hy =>
          refine h.stage p _ y (by simpa using hu) ?_
          unfold stagedRegion at hy
          split at hy
          · split at hy
            · rw [← Option.some.inj hy]
            · simp at hy
          · simp at hy
        · exact h.refl p

theorem cmdRegionCommit (region init primary reserved : Byte) (p : Part) :
    R p (cmdRegionCommit region init primary reserved p).1 := by
  unfold Machine.cmdRegionCommit
  split
  · exact h.refl p
  · split
    · next r i _ _ =>
      split
      · exact h.refl p
      · next hc =>
        show R p (commitRegion r i primary p)
        have hins := h.foldl_same (f := fun p q => insertRegion r q p) (fun p q => regions_insertRun q _ p)
        have hreq := h.foldl_same (f := fun p q => requestCatchUp q p) (fun p q => regions_requestCatchUp q p)
        exact h.trans (h.commit p r i primary ((commitRefusal_none ..).mp hc))
          (h.settle (h.trans (hins _ _) (h.after (hreq _ _) rfl)))
    · exact h.refl p

theorem cmdRegionRetire (region reserved : Byte) (p : Part) : R p (cmdRegionRetire region reserved p).1 := by
  unfold Machine.cmdRegionRetire
  split
  · exact h.refl p
  · split
    · exact h.refl p
    · next r _ =>
      split
      · exact h.refl p
      · next hl =>
        show R p (retireRegion r p)
        refine h.trans (h.retire p r (by simpa using hl)) (h.settle ?_)
        have hends : R (retiringNow r p) (endComparesOf r (retiringNow r p)).1 := by
          unfold endComparesOf
          split
          · split
            · exact h.same (endRunning_stores ..).regions
            · exact h.refl _
          · exact h.refl _
        exact h.trans hends (h.same (regions_postAll _ _))

theorem cmdDetach (port reserved : Byte) (p : Part) : R p (cmdDetach port reserved p).1 := by
  unfold Machine.cmdDetach
  split
  · exact h.refl p
  · next q _ =>
    split
    · exact h.refl p
    · next hl =>
      rw [done_fst]
      exact h.settle (h.trans (h.detach q p (by simpa using hl)) (h.leaveCatchUp q none _))

theorem cmdRejoin (port reserved : Byte) (p : Part) : R p (cmdRejoin port reserved p).1 := by
  unfold Machine.cmdRejoin
  split
  · exact h.refl p
  · next q _ =>
    split
    · have hreq := h.same (regions_requestCatchUp q (allRegions.foldl (rejoinAt q) p))
      rw [done_fst]
      refine h.settle ?_
      dsimp only
      exact h.trans (h.foldl (h.rejoin q) _ p) hreq
    · exact h.refl p

/-! ## The other management commands -/

theorem cmdPortEnable (port reserved : Byte) (p : Part) : R p (cmdPortEnable port reserved p).1 := by
  unfold Machine.cmdPortEnable
  split
  · exact h.refl p
  · split <;> exact h.same rfl

theorem cmdPortDisable (port reserved : Byte) (p : Part) : R p (cmdPortDisable port reserved p).1 := by
  unfold Machine.cmdPortDisable
  split
  · exact h.refl p
  · split
    · exact h.refl p
    · split
      · exact h.refl p
      · show R p (disablePort _ p)
        unfold disablePort
        split
        · exact h.refl p
        · exact h.after (h.loseLink _ _ _ _ _) rfl

theorem cmdPortSetup (port timeout silence weight : Byte) (p : Part) : R p (cmdPortSetup port timeout silence weight p).1 := by
  unfold Machine.cmdPortSetup
  split
  · exact h.refl p
  · split <;> exact h.same rfl

theorem cmdCompare (region : Byte) (first count : BitVec 24) (p : Part) : R p (cmdCompare region first count p).1 := by
  unfold Machine.cmdCompare
  split
  · exact h.refl p
  · split
    · exact h.refl p
    · split
      · exact h.refl p
      · dsimp only
        exact h.settle (h.same rfl)

theorem cmdJobCancel (position : Byte) (p : Part) : R p (cmdJobCancel position p).1 := by
  unfold Machine.cmdJobCancel
  split
  · exact h.refl p
  · split
    · exact h.refl p
    · show R p (cancelJob _ _ _ p)
      unfold cancelJob
      split
      · exact h.settle (h.leaveRunning _ _ p)
      · exact h.settle (h.same rfl)

theorem cmdEventFetch (n : Byte) (p : Part) : R p (cmdEventFetch n p).1 := by
  unfold Machine.cmdEventFetch
  split <;> exact h.same rfl

theorem cmdFaultClear (flags : BitVec 16) (p : Part) : R p (cmdFaultClear flags p).1 := by
  unfold Machine.cmdFaultClear
  split <;> exact h.same rfl

theorem cmdFaultMask (flags : BitVec 16) (p : Part) : R p (cmdFaultMask flags p).1 := by
  unfold Machine.cmdFaultMask
  split <;> exact h.same rfl

/-- A command that only answers. -/
theorem of_fst {run : Command} (hr : ∀ p, (run p).1 = p) : run.FramedBy R := fun p => by rw [hr p]; exact h.refl p

theorem ownerCommand (code : Byte) (d : List Byte) : (ownerCommand code d).FramedBy R := by
  unfold Machine.ownerCommand
  split
  · exact h.refl
  · exact h.refl
  · exact fun p => h.same rfl
  · exact h.cmdRegionStage _
  · exact h.cmdRegionCommit _ _ _ _
  · exact h.cmdRegionRetire _ _
  · exact h.of_fst (cmdRegionRead_fst _ _)
  · exact h.cmdPortEnable _ _
  · exact h.cmdPortDisable _ _
  · exact h.cmdPortSetup _ _ _ _
  · exact h.of_fst (cmdPortRead_fst _)
  · exact h.cmdDetach _ _
  · exact h.cmdRejoin _ _
  · exact h.of_fst (cmdDivergenceRead_fst _ _)
  · exact h.cmdCompare _ _ _
  · exact h.refl
  · exact h.cmdJobCancel _
  · exact h.cmdEventFetch _
  · exact h.cmdFaultClear _
  · exact h.cmdFaultMask _
  · exact h.refl

theorem testedCommand (code declared : Byte) (d : List Byte) : (testedCommand code declared d).FramedBy R := by
  unfold Machine.testedCommand
  split
  · exact h.refl
  · split
    · exact h.refl
    · split
      · exact h.refl
      · split
        · exact h.ownerCommand code d
        · exact h.refl

theorem takeCommand (seq code : Byte) {run : Command} (hr : run.FramedBy R) (p : Part) : R p (takeCommand seq code run p) := by
  unfold Machine.takeCommand
  split
  · exact h.refl p
  · split
    · exact h.same rfl
    · exact h.trans (hr p) (h.same rfl)

/-! ## The receiver -/

theorem takeFrame (body : List Byte) (p : Part) : R p (takeFrame body p) := by
  unfold Machine.takeFrame
  split
  · exact h.refl p
  · split
    · exact h.refl p
    · split
      · exact h.same rfl
      · exact h.takeCommand _ _ (h.testedCommand _ _ _) p

theorem receive (b : Byte) (p : Part) : R p (receive b p) := by
  unfold Machine.receive
  split
  · split <;> exact h.same rfl
  · split
    · exact h.same rfl
    · split
      · exact h.after (h.takeFrame _ _) rfl
      · split
        · exact h.same rfl
        · exact h.same (regions_appendByte b p)
  · split
    · exact h.same rfl
    · split
      · exact h.same (regions_appendByte _ p)
      · exact h.same rfl

theorem mgmtCharacter (b : Byte) (stopHigh : Bool) (p : Part) : R p (mgmtCharacter b stopHigh p) := by
  unfold Machine.mgmtCharacter
  split
  · exact h.receive b p
  · exact h.same rfl

theorem replySent (p : Part) : R p (replySent p) := by
  unfold Machine.replySent
  split <;> exact h.same rfl

/-! ## Commands and steps -/

theorem onPart {f : Part → Part} {s t : State} (hf : ∀ p, R p (f p)) (he : onPart f s = .next t) : R s.part t.part := by
  unfold Machine.onPart at he
  obtain rfl := Host.Outcome.next.inj he
  dsimp only
  split
  · exact h.refl _
  · exact hf _

theorem onFrame {seq code : Byte} {run : Command} {s t : State} (hr : run.FramedBy R)
    (he : onFrame seq code run s = .next t) : R s.part t.part := h.onPart (h.takeCommand seq code hr) he

theorem exec {c : Instr} {s t : State} (he : exec c s = .next t) : R s.part t.part := by
  cases c with
  | admission tag op line => exact h.onPart (h.takeRequest tag op line) he
  | grant q k => exact h.onPart (fun p => h.settle (h.grantAct q k p)) he
  | hostOutcome q => exact h.onPart (h.hostOutcome q) he
  | hrstNAssert => obtain rfl := Host.Outcome.next.inj he; exact h.assertHrst _
  | hrstNDeassert => obtain rfl := Host.Outcome.next.inj he; exact h.same rfl
  | porstNAssert => obtain rfl := Host.Outcome.next.inj he; exact h.abandoned ..
  | porstNDeassert bootsz mbaud =>
    obtain rfl := Host.Outcome.next.inj he
    dsimp only [releasePorst]
    split
    · exact h.powerOn ..
    · exact h.refl _
  | deviceReady q => exact h.onPart (h.deviceReady q) he
  | trainingTimerExpiry q => exact h.onPart (h.trainingExpiry q) he
  | silenceTimerExpiry q => exact h.onPart (h.silenceExpiry q) he
  | wakeTimerExpiry q => exact h.onPart (h.wakeExpiry q) he
  | linkError q => exact h.onPart (h.linkError q) he
  | deviceResponse q k resp => exact h.onPart (h.deviceResponse q k resp) he
  | responseTimerExpiry q => exact h.onPart (h.responseExpiry q) he
  | linkLossClaim q => exact h.onPart (h.linkLossClaim q) he
  | copyOutcome q => exact h.onPart (h.copyOutcome q) he
  | mgmtCharacter b stopHigh => exact h.onPart (h.mgmtCharacter b stopHigh) he
  | replySent => exact h.onPart h.replySent he
  | ident seq => exact h.onFrame (h.of_fst fun _ => rfl) he
  | status seq => exact h.onFrame (h.of_fst fun _ => rfl) he
  | setKey seq key => exact h.onFrame (run := cmdSetKey key) (fun p => h.same rfl) he
  | regionStage seq x => exact h.onFrame (h.cmdRegionStage x) he
  | regionCommit seq region init primary reserved => exact h.onFrame (h.cmdRegionCommit region init primary reserved) he
  | regionRetire seq region reserved => exact h.onFrame (h.cmdRegionRetire region reserved) he
  | regionRead seq region reserved => exact h.onFrame (h.of_fst (cmdRegionRead_fst region reserved)) he
  | portEnable seq port reserved => exact h.onFrame (h.cmdPortEnable port reserved) he
  | portDisable seq port reserved => exact h.onFrame (h.cmdPortDisable port reserved) he
  | portSetup seq port timeout silence weight => exact h.onFrame (h.cmdPortSetup port timeout silence weight) he
  | portRead seq port => exact h.onFrame (h.of_fst (cmdPortRead_fst port)) he
  | detach seq port reserved => exact h.onFrame (h.cmdDetach port reserved) he
  | rejoin seq port reserved => exact h.onFrame (h.cmdRejoin port reserved) he
  | divergenceRead seq port start => exact h.onFrame (h.of_fst (cmdDivergenceRead_fst port start)) he
  | compare seq region first count => exact h.onFrame (h.cmdCompare region first count) he
  | jobRead seq => exact h.onFrame (h.of_fst fun _ => rfl) he
  | jobCancel seq position => exact h.onFrame (h.cmdJobCancel position) he
  | eventFetch seq n => exact h.onFrame (h.cmdEventFetch n) he
  | faultClear seq flags => exact h.onFrame (h.cmdFaultClear flags) he
  | faultMask seq flags => exact h.onFrame (h.cmdFaultMask flags) he

theorem step {s t : State} (he : step s = .next t) : R s.part t.part := by
  unfold Machine.step at he
  split at he
  · next rest _ => exact h.exec (s := { s with pending := rest }) he
  · obtain rfl := Host.Outcome.next.inj he
    exact h.same rfl

end CommandFrame

end Sys2Proof.Machine
end

section
/-! SUPPORT. What link-loss claims, reports and abandonments make of the memberships, region by region, with their records (R64 to
R68, R74, R75). -/

namespace Sys2Proof.Machine

/-! ## One region after the other -/

/-- Steps that each act on one region by its memberships there and post for it: over several regions they do what each does to its
own region, and post in the order of the regions. -/
theorem foldl_byRegion {f : Part → RegionIx → Part} {next : Part → RegionIx → Port → Option MState}
    {record : Part → RegionIx → Option EventBody}
    (hstate : ∀ p r r' q, mstate (f p r) r' q = if r' = r then next p r q else mstate p r' q)
    (hposts : ∀ p r, (f p r).events = (record p r).toList.foldl postTo p.events)
    (hlocal : ∀ p p' r, (∀ q, mstate p' r q = mstate p r q) → record p' r = record p r ∧ ∀ q, next p' r q = next p r q) :
    ∀ (l : List RegionIx), l.Nodup → ∀ p, (l.foldl f p).events = (l.filterMap (record p)).foldl postTo p.events ∧
      ∀ r q, mstate (l.foldl f p) r q = if r ∈ l then next p r q else mstate p r q := fun l hl => by
  induction l with
  | nil => exact fun p => ⟨rfl, fun r q => by simp⟩
  | cons r rs ih =>
    intro p
    obtain ⟨hr, hrs⟩ := List.nodup_cons.mp hl
    have hne : ∀ r' ∈ rs, r' ≠ r := fun r' h' e => hr (e ▸ h')
    have hkept : ∀ r' ∈ rs, record (f p r) r' = record p r' ∧ ∀ q, next (f p r) r' q = next p r' q := fun r' h' =>
      hlocal p (f p r) r' fun q => by rw [hstate, if_neg (hne r' h')]
    obtain ⟨hev, hms⟩ := ih hrs (f p r)
    refine ⟨?_, fun r' q => ?_⟩
    · rw [List.foldl_cons, hev, hposts, List.filterMap_congr fun r' h' => (hkept r' h').1, ← List.foldl_append]
      congr 1
      cases hrec : record p r <;> simp [hrec]
    · rw [List.foldl_cons, hms, hstate]
      by_cases hmem : r' ∈ rs
      · rw [if_pos hmem, if_pos (List.mem_cons_of_mem r hmem), (hkept r' hmem).2]
      · by_cases he : r' = r
        · subst he
          simp [hmem]
        · simp [hmem, he]

theorem nodup_allRegions : allRegions.Nodup := by decide

/-! ## A link-loss claim (R68) -/

/-- The copy leaves by a link-loss claim: it is REJOINING, or IN_SERVICE with another one IN_SERVICE (R65, R68). -/
abbrev leavesOnLoss (p : Part) (r : RegionIx) (q : Port) : Prop :=
  mstate p r q = some .rejoining ∨ mstate p r q = some .inService ∧ ∃ x, x ≠ q ∧ mstate p r x = some .inService

/-- The record of a link-loss claim at one region (R75). -/
def lossRecord (q : Port) (why : Reason) (p : Part) (r : RegionIx) : Option EventBody :=
  if leavesOnLoss p r q
  then some { kind := .memberEjected, port := some q, region := some r, detail := reasonCode why }
  else if mstate p r q = some .inService
  then some { kind := .lastReplicaError, port := some q, region := some r, detail := reasonCode why } else none

theorem lossRecords_eq (q : Port) (why : Reason) (p : Part) : lossRecords q why p = allRegions.filterMap (lossRecord q why p) := by
  refine List.filterMap_congr fun r _ => ?_
  simp only [lossRecord, leavesOnLoss, mem_allPorts, true_and]

theorem linkLossAt_eq (q : Port) (why : Reason) (p : Part) (r : RegionIx) : linkLossAt q why p r =
    if leavesOnLoss p r q then ejectMember r q why p
    else if mstate p r q = some .inService then postLastReplica r q why none p else p := by
  unfold linkLossAt leavesOnLoss
  simp only [← otherInService_iff]
  split
  all_goals next h => simp [h]

theorem events_linkLossAt (q : Port) (why : Reason) (p : Part) (r : RegionIx) :
    (linkLossAt q why p r).events = (lossRecord q why p r).toList.foldl postTo p.events := by
  rw [linkLossAt_eq, lossRecord]
  split
  · rfl
  · split <;> rfl

theorem mstate_linkLossAt (q : Port) (why : Reason) (p : Part) (r r' : RegionIx) (q' : Port) :
    mstate (linkLossAt q why p r) r' q' =
      if r' = r then (if q' = q ∧ leavesOnLoss p r q then some .faulted else mstate p r q') else mstate p r' q' := by
  rw [linkLossAt_eq]
  by_cases hl : leavesOnLoss p r q
  · obtain ⟨st, hst⟩ : ∃ st, mstate p r q = some st := hl.elim (fun h => ⟨_, h⟩) fun h => ⟨_, h.1⟩
    rw [if_pos hl, mstate_ejectMember why hst]
    by_cases hr : r' = r <;> simp [hr, hl]
  · have hsame : mstate (if mstate p r q = some .inService then postLastReplica r q why none p else p) r' q' = mstate p r' q' := by
      split <;> rfl
    rw [if_neg hl, hsame]
    by_cases hr : r' = r <;> simp [hr, hl]

theorem leavesOnLoss_congr {p p' : Part} {r : RegionIx} (h : ∀ q, mstate p' r q = mstate p r q) (q : Port) :
    leavesOnLoss p' r q ↔ leavesOnLoss p r q := by simp only [leavesOnLoss, h]

theorem takeLinkLoss_spec (q : Port) (why : Reason) (p : Part) :
    (takeLinkLoss q why p).events = (lossRecords q why p).foldl postTo p.events ∧
    ∀ r q', mstate (takeLinkLoss q why p) r q' = if q' = q ∧ leavesOnLoss p r q then some .faulted else mstate p r q' := by
  obtain ⟨hev, hms⟩ := foldl_byRegion (mstate_linkLossAt q why) (events_linkLossAt q why)
    (fun p p' r h => ⟨by simp only [lossRecord, leavesOnLoss_congr h, h],
      fun x => by simp only [leavesOnLoss_congr h, h]⟩) allRegions nodup_allRegions p
  exact ⟨by rw [lossRecords_eq]; exact hev, fun r q' => (hms r q').trans (if_pos (mem_allRegions r))⟩

theorem takeLinkLoss_only (q : Port) (why : Reason) (p : Part) : RegionsOnly p (takeLinkLoss q why p) := by
  refine .foldl (fun p r => ?_) _ p
  rw [linkLossAt_eq]
  split
  · exact ejectMember_only ..
  · split <;> exact rfl

/-! ## Every REJOINING copy of a port (R66, R74) -/

theorem events_takeOutRejoining (q : Port) (why : Reason) (p : Part) :
    (takeOutRejoining q why p).events = (rejoinRecords q why p).foldl postTo p.events := by
  refine (foldl_byRegion (f := fun p r => if mstate p r q == some .rejoining then ejectMember r q why p else p)
    (next := fun p r q' => if q' = q ∧ mstate p r q = some .rejoining then some .faulted else mstate p r q')
    (record := fun p r => if mstate p r q = some .rejoining
      then some { kind := .memberEjected, port := some q, region := some r, detail := reasonCode why } else none)
    (fun p r r' q' => ?_) (fun p r => ?_) (fun p p' r h => ⟨by simp only [h], fun x => by simp only [h]⟩)
    allRegions nodup_allRegions p).1
  · by_cases hm : mstate p r q = some .rejoining
    · simp only [hm, beq_self_eq_true, if_true, mstate_ejectMember why hm]
      by_cases hr : r' = r <;> simp [hr]
    · simp only [beq_iff_eq, hm, if_false]
      by_cases hr : r' = r <;> simp [hr]
  · by_cases hm : mstate p r q = some .rejoining
    · simp only [hm, beq_self_eq_true, if_true]
      rfl
    · simp [hm]

end Sys2Proof.Machine
end

section
/-! SUPPORT. A trusted copy of every MIRROR region in use (R65, R70, R86): no work and no command takes the last IN_SERVICE copy
out of service. -/

namespace Sys2Proof.Machine

/-! ## Memberships under the changes of the regions -/

theorem inUse_of_core {x y : Region} (h : y.core = x.core) : inUse y = inUse x := by
  have hs : y.state = x.state := (congrArg Region.state h :)
  simp only [inUse, hs]

theorem mstate_of_core {p p' : Part} {r : RegionIx} (h : (p'.region r).core = (p.region r).core) (q : Port) :
    mstate p' r q = mstate p r q := by
  have hm : (p'.region r).members = (p.region r).members := (congrArg Region.members h :)
  simp only [mstate, memberAt, inUse_of_core h, hm]

theorem mstate_setRegion_ne {r r' : RegionIx} (p : Part) (x : Region) (h : r' ≠ r) (q : Port) :
    mstate (p.setRegion r x) r' q = mstate p r' q := by
  simp only [mstate, region_setRegion_ne _ _ _ _ h]

theorem mstate_detachAt (q : Port) (p : Part) (r r' : RegionIx) {q' : Port} (h : q' ≠ q) :
    mstate (detachAt q p r) r' q' = mstate p r' q' := by
  unfold detachAt
  split
  · rw [mstate_setMState, if_neg fun hc => h hc.2]
  · rfl

/-! ## The trusted copy -/

/-- The region has an IN_SERVICE copy (R65). -/
def hasTrusted (p : Part) (r : RegionIx) : Prop := ∃ q, mstate p r q = some .inService

/-- A report takes a copy out of service where another stays, or touches REJOINING copies only (R64 to R67). -/
theorem hasTrusted_takeReport {r' : RegionIx} {p : Part} (r : RegionIx) (q : Port) (why : Reason) (line : Option UpAddr)
    (hs : hasTrusted p r') : hasTrusted (takeReport r q why line p) r' := by
  unfold takeReport
  split
  · next hm =>
    split
    · next ho =>
      obtain ⟨y, hy, hys⟩ := (otherInService_iff p r q).mp ho
      by_cases hr : r' = r
      · subst hr
        exact ⟨y, by rw [mstate_ejectMember why hm, if_neg fun hc => hy hc.2, hys]⟩
      · obtain ⟨x, hx⟩ := hs
        exact ⟨x, by rw [mstate_ejectMember why hm, if_neg fun hc => hr hc.1, hx]⟩
    · exact hs
  · obtain ⟨x, hx⟩ := hs
    exact ⟨x, by rw [mstate_takeOutRejoining, if_neg fun hc => by simp [← hc.1, hx] at hc, hx]⟩
  all_goals exact hs

theorem hasTrusted_takeOutRejoining {r : RegionIx} {p : Part} (q : Port) (why : Reason) (hs : hasTrusted p r) :
    hasTrusted (takeOutRejoining q why p) r := by
  obtain ⟨x, hx⟩ := hs
  exact ⟨x, by rw [mstate_takeOutRejoining, if_neg fun hc => by simp [← hc.1, hx] at hc, hx]⟩

theorem hasTrusted_takeCompletion {r : RegionIx} {p : Part} (q : Port) (hs : hasTrusted p r) :
    hasTrusted (takeCompletion q p) r := by
  obtain ⟨x, hx⟩ := hs
  exact ⟨x, by rw [mstate_takeCompletion, if_neg fun hc => by simp [← hc.1, hx] at hc, hx]⟩

theorem hasTrusted_takeLinkLoss {r : RegionIx} {p : Part} (q : Port) (why : Reason) (hs : hasTrusted p r) :
    hasTrusted (takeLinkLoss q why p) r := by
  obtain ⟨-, hms⟩ := takeLinkLoss_spec q why p
  obtain ⟨x, hx⟩ := hs
  by_cases hl : x = q ∧ leavesOnLoss p r q
  · obtain ⟨rfl, hm | ⟨-, y, hy, hys⟩⟩ := hl
    · simp [hx] at hm
    · exact ⟨y, by rw [hms, if_neg fun hc => hy hc.1, hys]⟩
  · exact ⟨x, by rw [hms, if_neg hl, hx]⟩

theorem hasTrusted_rejoinAt {r' : RegionIx} {p : Part} (q : Port) (r : RegionIx) (hs : hasTrusted p r') :
    hasTrusted (rejoinAt q p r) r' := by
  obtain ⟨x, hx⟩ := hs
  refine ⟨x, ?_⟩
  unfold rejoinAt
  split
  · next hm =>
    dsimp only
    rw [mstate_setTable, mstate_setMState, if_neg ?_, hx]
    rintro ⟨rfl, rfl⟩
    simp [hx] at hm
  · exact hx

/-- With no last replica on the port every region keeps a trusted copy elsewhere (R70). -/
theorem hasTrusted_detach {q : Port} {r : RegionIx} {p : Part} (hl : holdsLastReplica p q = false) (hs : hasTrusted p r) :
    hasTrusted (allRegions.foldl (detachAt q) p) r := by
  have hkept : ∀ (l : List RegionIx) (p : Part) (y : Port), y ≠ q → mstate (l.foldl (detachAt q) p) r y = mstate p r y := fun l => by
    induction l with
    | nil => exact fun _ _ _ => rfl
    | cons r' rs ih => exact fun p y hy => (ih _ y hy).trans (mstate_detachAt q p r' r hy)
  obtain ⟨y, hy, hys⟩ : ∃ y, y ≠ q ∧ mstate p r y = some .inService := by
    obtain ⟨x, hx⟩ := hs
    by_cases hxq : x = q
    · subst hxq
      have hnot : isLastReplica p r x = false := by simpa using List.any_eq_false.mp hl r (mem_allRegions r)
      exact (otherInService_iff p r x).mp (by simpa [isLastReplica, hx] using hnot)
    · exact ⟨x, hxq, hx⟩
  exact ⟨y, (hkept _ p y hy).trans hys⟩

/-- A commit that passes its checks makes a trusted copy of a MIRROR region: every copy with TRUST, the primary with COPY (R30, R32,
R33). -/
theorem hasTrusted_madeLive {r : RegionIx} {init : Init} {primary : Byte} {p : Part}
    (h : commitPasses p (p.region r) init primary) (hm : (p.region r).mode = .mirror) : hasTrusted (madeLive r init primary p) r := by
  obtain ⟨-, ⟨-, -, -, hcount, -, -⟩, -, -, hprimary⟩ := h
  obtain ⟨m, hmem, hstate⟩ : ∃ m ∈ (p.region r).members, ∀ m' : Member, m'.port = m.port →
      firstState p (p.region r).mode init primary m' = some .inService := by
    cases init with
    | trust =>
      obtain ⟨m, hmem⟩ := List.exists_mem_of_length_pos (l := (p.region r).members) (by have := hcount hm; omega)
      exact ⟨m, hmem, fun m' _ => by simp [firstState, hm]⟩
    | copy =>
      obtain ⟨m, hmem, hport⟩ := hprimary rfl
      exact ⟨m, hmem, fun m' he => by simp [firstState, hm, he, hport]⟩
  obtain ⟨m', hm'⟩ : ∃ m', memberAt (p.region r) m.port = some m' :=
    Option.isSome_iff_exists.mp (by simpa [memberAt] using ⟨m, hmem, rfl⟩)
  have hat : memberAt (committed p (p.region r) init primary) m.port =
      some { m' with state := firstState p (p.region r).mode init primary m' } := by
    have := memberAt_map (g := fun m => { m with state := firstState p (p.region r).mode init primary m }) (fun _ => rfl)
      { p.region r with state := .live, alternate := none, inFlight := 0 } m.port
    rw [show memberAt { p.region r with state := .live, alternate := none, inFlight := 0 } m.port = some m' from hm'] at this
    exact this
  refine ⟨m.port, ?_⟩
  have hu : inUse (committed p (p.region r) init primary) = true := rfl
  simp only [mstate, madeLive, region_setRegion_self, hu, if_true, hat, Option.bind_some]
  exact hstate m' (memberAt_port hm')

/-! ## Every step -/

/-- No MIRROR region comes into use, and those that stay in use keep a trusted copy. -/
theorem lastReplicaKept_of {p p' : Part} (hp : lastReplicaKept p)
    (h : ∀ r, inUse (p'.region r) = true → (p'.region r).mode = .mirror →
      hasTrusted p' r ∨ inUse (p.region r) = true ∧ (p.region r).mode = .mirror ∧ (hasTrusted p r → hasTrusted p' r)) :
    lastReplicaKept p' := fun r hu hm => (h r hu hm).elim id fun ⟨hu, hm, hk⟩ => hk (hp r hu hm)

/-- The regions in use and their modes stand, and no trusted copy is lost. -/
theorem Aside.lastReplicaKept {p p' : Part} (ha : Aside p p') (hk : ∀ r, hasTrusted p r → hasTrusted p' r)
    (hp : lastReplicaKept p) : lastReplicaKept p' :=
  lastReplicaKept_of hp fun r hu hm => .inr ⟨ha.inUse r ▸ hu, ha.mode r ▸ hm, hk r⟩

/-- One region is replaced by one that is not in use, or that has a trusted copy if it is a MIRROR region. -/
theorem lastReplicaKept_setRegion {p : Part} {r : RegionIx} {x : Region} (hp : lastReplicaKept p)
    (hx : inUse x = true → x.mode = .mirror → hasTrusted (p.setRegion r x) r) : lastReplicaKept (p.setRegion r x) :=
  lastReplicaKept_of hp fun r' hu hm => by
    by_cases hr : r' = r
    · subst hr
      rw [region_setRegion_self] at hu hm
      exact .inl (hx hu hm)
    · rw [region_setRegion_ne _ _ _ _ hr] at hu hm
      exact .inr ⟨hu, hm, fun ⟨q, hq⟩ => ⟨q, by rw [mstate_setRegion_ne _ _ hr, hq]⟩⟩

theorem lastReplicaKept_frame : CommandFrame (fun p p' => lastReplicaKept p → lastReplicaKept p') where
  trans h h' hp := h' (h hp)
  core h hp := lastReplicaKept_of hp fun r hu hm => .inr
    ⟨inUse_of_core (h r) ▸ hu, (congrArg Region.mode (h r)).symm.trans hm, fun ⟨q, hq⟩ => ⟨q, by rw [mstate_of_core (h r), hq]⟩⟩
  report r q why line p := (takeReport_aside r q why line p).lastReplicaKept fun _ => hasTrusted_takeReport r q why line
  takeOut q why p := (takeOutRejoining_aside q why p).lastReplicaKept fun _ => hasTrusted_takeOutRejoining q why
  complete q p := (takeCompletion_aside q p).lastReplicaKept fun _ => hasTrusted_takeCompletion q
  retired r p _ hp := lastReplicaKept_setRegion (x := Region.cleared) hp fun hu => by simp [inUse, Region.cleared] at hu
  linkLoss q why p := (takeLinkLoss_aside q why p).lastReplicaKept fun _ => hasTrusted_takeLinkLoss q why
  stage p r x _ hx hp := lastReplicaKept_setRegion hp fun hu => by simp [inUse, hx] at hu
  commit p r init primary h hp := lastReplicaKept_setRegion hp fun _ hm => hasTrusted_madeLive h hm
  retire p r hl hp := lastReplicaKept_setRegion hp fun _ hm => by
    obtain ⟨q, hq⟩ := hp r (by simp [inUse, hl]) hm
    refine ⟨q, ?_⟩
    rw [← hq]
    simp [mstate, memberAt, inUse, hl]
  detach q p hl := (Aside.foldl (detachAt_aside q) allRegions p).lastReplicaKept fun _ => hasTrusted_detach hl
  rejoin q p r hp := lastReplicaKept_of hp fun r' hu hm => by
    have hreg : ∃ p0, Aside p p0 ∧ (rejoinAt q p r).region r' = p0.region r' := by
      unfold rejoinAt
      split
      · exact ⟨_, setMState_aside r q .rejoining p, rfl⟩
      · exact ⟨p, .refl p, rfl⟩
    obtain ⟨p0, ha, he⟩ := hreg
    rw [he] at hu hm
    exact .inr ⟨ha.inUse r' ▸ hu, ha.mode r' ▸ hm, hasTrusted_rejoinAt q r⟩
  abandoned p hrst bootsz mbaud now trace _ r hu := by rw [region_abandoned] at hu; simp [inUse, Region.cleared] at hu
  powerOn p hrst bootsz mbaud now trace _ r hu hm := by
    rw [inUse_powerOn hu, region_powerOn] at hm
    simp [Region.boot] at hm

/-- Settles O54: reports and link-loss claims leave the last replica in service, DETACH is refused for it, a commit makes a trusted
copy, and nothing else takes a copy out of service. -/
theorem lastReplicaKept_spec : Obligations.LastReplicaKept := fun _ _ hp h => lastReplicaKept_frame.step h hp

end Sys2Proof.Machine
end

section
/-! SUPPORT. The statements about failure reports and link-loss claims (O13, O24). -/

namespace Sys2Proof.Machine

/-! ## A failure report (R64 to R67) -/

theorem takeReport_ejects {p : Part} {r : RegionIx} {q : Port} (why : Reason) (line : Option UpAddr)
    (hm : mstate p r q = some .inService) (ho : ∃ x, x ≠ q ∧ mstate p r x = some .inService) :
    takeReport r q why line p = ejectMember r q why p := by
  simp [takeReport, hm, (otherInService_iff p r q).mpr ho]

theorem takeReport_lastReplica {p : Part} {r : RegionIx} {q : Port} (why : Reason) (line : Option UpAddr)
    (hm : mstate p r q = some .inService) (hl : ∀ x, x ≠ q → mstate p r x ≠ some .inService) :
    takeReport r q why line p = postLastReplica r q why line p := by
  have ho : ¬ otherInService p r q = true := fun hc => by
    obtain ⟨x, hx, hxs⟩ := (otherInService_iff p r q).mp hc
    exact hl x hx hxs
  simp [takeReport, hm, ho]

theorem takeReport_rejoining {p : Part} {r : RegionIx} {q : Port} (why : Reason) (line : Option UpAddr)
    (hm : mstate p r q = some .rejoining) : takeReport r q why line p = takeOutRejoining q why p := by
  simp [takeReport, hm]

theorem takeReport_out {p : Part} {r : RegionIx} {q : Port} (why : Reason) (line : Option UpAddr)
    (hi : mstate p r q ≠ some .inService) (hr : mstate p r q ≠ some .rejoining) : takeReport r q why line p = p := by
  unfold takeReport
  split
  · next h => exact absurd h hi
  · next h => exact absurd h hr
  all_goals rfl

/-- A report makes a copy FAULTED or leaves it as it is (R64 to R67). -/
theorem mstate_takeReport (r : RegionIx) (q : Port) (why : Reason) (line : Option UpAddr) (p : Part) (r' : RegionIx) (q' : Port) :
    mstate (takeReport r q why line p) r' q' = some .faulted ∨ mstate (takeReport r q why line p) r' q' = mstate p r' q' := by
  unfold takeReport
  split
  · next hm =>
    split
    · rw [mstate_ejectMember why hm]
      split
      · exact .inl rfl
      · exact .inr rfl
    · exact .inr rfl
  · rw [mstate_takeOutRejoining]
    split
    · exact .inl rfl
    · exact .inr rfl
  all_goals exact .inr rfl

/-! ## A link-loss claim and the port's job (R68) -/

theorem hasRejoining_iff (p : Part) (q : Port) : hasRejoining p q = true ↔ ∃ r, mstate p r q = some .rejoining := by
  simp [hasRejoining, mem_allRegions]

theorem linkLossWorks_quiet {q : Port} {p : Part} (why : Reason) (h : ∀ r, mstate p r q ≠ some .rejoining) :
    linkLossWorks q why p = (takeLinkLoss q why p, []) := by
  have hn : ¬ hasRejoining p q = true := fun hc => by
    obtain ⟨r, hr⟩ := (hasRejoining_iff p q).mp hc
    exact h r hr
  rw [linkLossWorks, if_neg hn]

/-- The port's job, where it waits, is abandoned for TARGET, and nothing starts (R68). -/
theorem settle_linkLossWorks_waiting {q : Port} {p : Part} (why : Reason) (h : ∃ r, mstate p r q = some .rejoining)
    (hh : headHeld p) (hs : ∀ j ∈ p.jobs, isCatchUp q j = true → j.started = false) (hj : p.jobs.any (isCatchUp q) = true) :
    settle (linkLossWorks q why p) = post (copyAbortedEvent q .target)
      { takeLinkLoss q why p with jobs := p.jobs.filter (fun j => !isCatchUp q j) } := by
  have honly := takeLinkLoss_only q why p
  rw [linkLossWorks, if_pos ((hasRejoining_iff p q).mpr h)]
  generalize takeLinkLoss q why p = A at honly
  obtain ⟨j, hf⟩ : ∃ j, p.jobs.find? (isCatchUp q) = some j := Option.isSome_iff_exists.mp (by simpa using hj)
  have hjs : j.started = false := hs j (List.mem_of_find?_eq_some hf) (List.find?_some hf)
  have hleave : leaveCatchUp q (some (copyAbortedEvent q .target)) A =
      (post (copyAbortedEvent q .target) { A with jobs := p.jobs.filter (fun j => !isCatchUp q j) }, [.headStart]) := by
    rw [leaveCatchUp, honly.jobs, hf]
    simp only [hjs, jobsWithout, honly.jobs]
    rfl
  have hheld : headHeld (post (copyAbortedEvent q .target) { A with jobs := p.jobs.filter (fun j => !isCatchUp q j) }) :=
    headHeld_filter (p := p) (f := fun j => !isCatchUp q j) honly.window rfl
      (fun x hx hxs => by by_contra hc; exact absurd hxs (by simp [hs x hx (by simpa using hc)])) hh
  rw [hleave]
  exact settle_one .headStart _ _ (taskHeadStart_held hheld)

/-- Settles O13: the four cases of a report with what each does to the memberships; then a link-loss claim, its records, and the
port's waiting job. -/
theorem failureReports : Obligations.FailureReports := by
  refine ⟨fun r q why line p => ⟨fun hm ho => ?_, fun hm hl => takeReport_lastReplica why line hm hl, fun hm => ?_,
    takeReport_out why line, fun hw => ?_⟩, fun q why p => ?_⟩
  · rw [takeReport_ejects why line hm ho]
    exact ⟨rfl, mstate_ejectMember why hm⟩
  · rw [takeReport_rejoining why line hm]
    exact ⟨(takeOutRejoining_only q why p).lists, events_takeOutRejoining q why p, mstate_takeOutRejoining q why p⟩
  · exact settle_of_runsTo (runsTo_report why line hw (.nil _)) (by omega)
  · obtain ⟨hev, hms⟩ := takeLinkLoss_spec q why p
    exact ⟨hms, hev, fun h => by rw [linkLossWorks_quiet why h, settle_nil],
      fun h hh hs hj => settle_linkLossWorks_waiting why h hh hs hj⟩

/-! ## The claim is taken (log 19) -/

/-- The part with its link-loss claims reduced to `rest`. -/
def withLossClaims (rest : List (Port × Reason)) (p : Part) : Part := { p with lossClaims := rest }

@[simp] theorem mstate_withLossClaims (rest : List (Port × Reason)) (p : Part) (r : RegionIx) (q : Port) :
    mstate (withLossClaims rest p) r q = mstate p r q := rfl

@[simp] theorem lossRecords_withLossClaims (rest : List (Port × Reason)) (p : Part) (q : Port) (why : Reason) :
    lossRecords q why (withLossClaims rest p) = lossRecords q why p := rfl

theorem exec_linkLossClaim {q : Port} {why : Reason} {rest : List (Port × Reason)} {s : State} (hs : s.part.porst = false)
    (ht : takeFirst (fun c => c.1 == q) s.part.lossClaims = some ((q, why), rest)) :
    leavesPart (.linkLossClaim q) s (settle (linkLossWorks q why (withLossClaims rest s.part))) := by
  have hrun := onPart_running (linkLossClaim q) s hs
  rwa [show linkLossClaim q s.part = settle (linkLossWorks q why (withLossClaims rest s.part)) by
    simp [linkLossClaim, ht, withLossClaims]] at hrun

/-- From `p` to `p'` no copy on the port comes to be REJOINING, and only a REJOINING one comes into service. -/
def NoneEnters (q : Port) (p p' : Part) : Prop :=
  ∀ r, (mstate p' r q = some .rejoining → mstate p r q = some .rejoining) ∧
    (mstate p' r q = some .inService → mstate p r q = some .inService ∨ mstate p r q = some .rejoining)

/-- The copies on the port are FAULTED, gone or what they were. -/
theorem NoneEnters.of_cases {q : Port} {p p' : Part}
    (h : ∀ r, mstate p' r q = some .faulted ∨ mstate p' r q = none ∨ mstate p' r q = mstate p r q) : NoneEnters q p p' := fun r => by
  rcases h r with h | h | h
  · simp [h]
  · simp [h]
  · rw [h]; exact ⟨id, .inl⟩

/-- No work of an event brings a copy on the port into the rebuild, or into service but from there. -/
theorem noneEnters_frame (q : Port) : RegionFrame (NoneEnters q) where
  trans {a b c} h h' r := by
    obtain ⟨hr, hi⟩ := h r
    obtain ⟨hr', hi'⟩ := h' r
    exact ⟨fun hc => hr (hr' hc), fun hc => (hi' hc).elim hi fun hb => .inr (hr hb)⟩
  core h := .of_cases fun r => .inr (.inr (mstate_of_core (h r) q))
  report r q' why line p := .of_cases fun r' => (mstate_takeReport r q' why line p r' q).imp id .inr
  takeOut q' why p := .of_cases fun r => by
    rw [mstate_takeOutRejoining]
    split
    · exact .inl rfl
    · exact .inr (.inr rfl)
  complete q' p r := by
    rw [mstate_takeCompletion]
    split
    · next h =>
      obtain ⟨rfl, hm⟩ := h
      refine ⟨fun _ => hm, fun _ => .inr hm⟩
    · exact ⟨id, .inl⟩
  retired r p _ := .of_cases fun r' => by
    rw [mstate_retired]
    split
    · exact .inr (.inl rfl)
    · exact .inr (.inr rfl)

theorem linkLossWorks_same (q : Port) (why : Reason) (p : Part) : sameOutside (takeLinkLoss q why p) (linkLossWorks q why p).1 := by
  rw [linkLossWorks]
  split
  · exact leaveCatchUp_same _ _ _
  · dsimp only
    exact sameOutside_refl _

theorem linkLossWorks_enters (q : Port) (why : Reason) (p : Part) : NoneEnters q (takeLinkLoss q why p) (linkLossWorks q why p).1 := by
  rw [linkLossWorks]
  split
  · exact (noneEnters_frame q).leaveCatchUp q _ _
  · dsimp only
    exact (noneEnters_frame q).refl _

theorem takeLinkLoss_same (q : Port) (why : Reason) (p : Part) : sameOutside p (takeLinkLoss q why p) := by
  refine foldl_same _ (fun p r => ?_) _ p
  rw [linkLossAt_eq]
  split
  · exact ejectMember_same _ _ _ _
  · split
    · exact post_same _ _
    · exact sameOutside_refl p

theorem settle_linkLossWorks_same (q : Port) (why : Reason) (p : Part) :
    sameOutside (takeLinkLoss q why p) (settle (linkLossWorks q why p)) :=
  sameOutside_trans (linkLossWorks_same q why p) (settle_same _)

/-- After the claim and all it sets off, a copy on the port is not REJOINING, and one still in service was the last. -/
theorem mstate_settle_linkLossWorks (q : Port) (why : Reason) (p : Part) (r : RegionIx) :
    mstate (settle (linkLossWorks q why p)) r q ≠ some .rejoining ∧
      (mstate (settle (linkLossWorks q why p)) r q = some .inService →
        mstate p r q = some .inService ∧ ∀ x, x ≠ q → mstate p r x ≠ some .inService) := by
  obtain ⟨-, hms⟩ := takeLinkLoss_spec q why p
  obtain ⟨hrejoins, hserves⟩ := (noneEnters_frame q).settle (linkLossWorks_enters q why p) r
  have hgone : mstate (takeLinkLoss q why p) r q ≠ some .rejoining := by
    rw [hms]
    split
    · simp
    · next h => exact fun hc => h ⟨rfl, .inl hc⟩
  refine ⟨fun hc => hgone (hrejoins hc), fun hc => ?_⟩
  have hkept := (hserves hc).resolve_right hgone
  rw [hms] at hkept
  split at hkept
  · simp at hkept
  · next h => exact ⟨hkept, fun x hxq hxs => h ⟨rfl, .inr ⟨hkept, x, hxq, hxs⟩⟩⟩

/-- The claim's records are posted before those of the works it sets off. -/
theorem settle_linkLossWorks_posts (q : Port) (why : Reason) (p : Part) :
    postsFirst p.events (settle (linkLossWorks q why p)).events (lossRecords q why p) := by
  obtain ⟨hev, -⟩ := takeLinkLoss_spec q why p
  obtain ⟨-, -, -, -, -, -, -, -, -, hsummary, hqueue, -⟩ := settle_linkLossWorks_same q why p
  have hposts := postsFirst_posts (lossRecords q why p) p.events
  rw [← hev] at hposts
  exact postsFirst_mono hposts hqueue hsummary

/-- With nothing REJOINING on the port, the claim sets off no work. -/
theorem settle_linkLossWorks_quiet {q : Port} {p : Part} (why : Reason) (h : ∀ r, mstate p r q ≠ some .rejoining) :
    settle (linkLossWorks q why p) = takeLinkLoss q why p :=
  (congrArg settle (linkLossWorks_quiet why h)).trans (settle_nil _)

/-- The whole claim, told of the part it starts from. -/
theorem settle_linkLossWorks_spec (q : Port) (why : Reason) (p : Part) :
    sameOutside p (settle (linkLossWorks q why p)) ∧
      (∀ r, mstate (settle (linkLossWorks q why p)) r q ≠ some .rejoining ∧
        (mstate (settle (linkLossWorks q why p)) r q = some .inService →
          mstate p r q = some .inService ∧ ∀ x, x ≠ q → mstate p r x ≠ some .inService)) ∧
      postsFirst p.events (settle (linkLossWorks q why p)).events (lossRecords q why p) ∧
      ((∀ r, mstate p r q ≠ some .rejoining) →
        (∀ r q', mstate (settle (linkLossWorks q why p)) r q' =
          if q' = q ∧ mstate p r q = some .inService ∧ (∃ x, x ≠ q ∧ mstate p r x = some .inService)
          then some .faulted else mstate p r q') ∧
        (settle (linkLossWorks q why p)).events = (lossRecords q why p).foldl postTo p.events ∧
        (settle (linkLossWorks q why p)).ports = p.ports ∧ (settle (linkLossWorks q why p)).lists = p.lists ∧
        (settle (linkLossWorks q why p)).table = p.table ∧ (settle (linkLossWorks q why p)).jobs = p.jobs ∧
        (settle (linkLossWorks q why p)).window = p.window) := by
  refine ⟨sameOutside_trans (takeLinkLoss_same q why p) (settle_linkLossWorks_same q why p),
    mstate_settle_linkLossWorks q why p, settle_linkLossWorks_posts q why p, fun hquiet => ?_⟩
  obtain ⟨hev, hms⟩ := takeLinkLoss_spec q why p
  have honly := takeLinkLoss_only q why p
  have haside := takeLinkLoss_aside q why p
  rw [settle_linkLossWorks_quiet why hquiet]
  exact ⟨fun r q' => (hms r q').trans (if_congr (and_congr_right fun _ => or_iff_right (hquiet r)) rfl rfl), hev,
    haside.ports, honly.lists, haside.table, honly.jobs, honly.window⟩

/-- Settles O24: the claim takes out every copy that may leave, and none of the works it sets off brings one back. -/
theorem linkLossClaimTaken : Obligations.LinkLossClaimTaken := by
  intro q why rest s hs ht
  have hspec := settle_linkLossWorks_spec q why (withLossClaims rest s.part)
  simp only [mstate_withLossClaims, lossRecords_withLossClaims] at hspec
  exact ⟨_, exec_linkLossClaim hs ht, hspec⟩

end Sys2Proof.Machine
end

section
/-! SUPPORT. Claims of the copy engine at ports that are down (O30). -/

namespace Sys2Proof.Machine

/-! ## A link loss and the outcomes of COPY transactions -/

theorem copyInFlight_posts (bs : List EventBody) (p : Part) : copyInFlight (postAll bs p) = copyInFlight p := by
  rw [postAll_eq_posts]
  rfl

/-- A queue that is emptied lowers the sum over the ports by what it counted. -/
theorem sum_allPorts_emptied {f g : Port → Nat} (q : Port) (h0 : g q = 0) (hne : ∀ x, x ≠ q → g x = f x) :
    (allPorts.map g).sum + f q = (allPorts.map f).sum := by
  have hsum : ∀ f : Port → Nat, (allPorts.map f).sum = ∑ x, f x := fun f => by simp [allPorts, Fin.sum_univ_four, add_assoc]
  rw [hsum, hsum, ← Finset.sum_erase_add _ f (Finset.mem_univ q), ← Finset.sum_erase_add _ g (Finset.mem_univ q), h0, add_zero]
  exact congrArg (· + f q) (Finset.sum_congr rfl fun x hx => hne x (Finset.ne_of_mem_erase hx))

theorem copyInFlight_dropLink (q : Port) (dest : Link) (why : Reason) (p : Part) :
    copyInFlight (dropLink q dest why p) = copyInFlight p := by
  have hqueue : ∀ x, ((dropLink q dest why p).port x).queue = if x = q then [] else (p.port x).queue := fun x => by
    show ((p.setPort q _).port x).queue = _
    rw [port_setPort]
    split <;> rfl
  have hfailed : (failedOutcomes q why (p.port q)).countP (fun h => isCopy h.origin) =
      (p.port q).queue.countP (fun t => isCopy t.origin) := by
    rw [failedOutcomes, List.countP_map]
    rfl
  have hports := sum_allPorts_emptied (f := fun x => (p.port x).queue.countP (fun t => isCopy t.origin))
    (g := fun x => ((dropLink q dest why p).port x).queue.countP (fun t => isCopy t.origin)) q
    (by simp [hqueue]) fun x hx => by simp [hqueue, hx]
  have hhanded : (dropLink q dest why p).handed = p.handed ++ failedOutcomes q why (p.port q) := rfl
  rw [copyInFlight, copyInFlight, ← hports, hhanded, List.countP_append, hfailed]
  ring

/-! ## The claim at the lost port ends -/

theorem copyClaimAt_some {p : Part} {w : Window} {q : Port} {c : Claim} (hw : p.window = some w) (h : copyClaimAt p q = some c) :
    c ∈ w.claims ∧ c.port = q := by
  rw [copyClaimAt, hw] at h
  have hfind : w.claims.find? (fun c => c.port == q) = some c := h
  exact ⟨List.mem_of_find?_eq_some hfind, by simpa using List.find?_some hfind⟩

/-- A link loss at `q`, and the claim the engine held there withdrawn: `p0` is what is left of `p`. -/
structure ClaimEnded (q : Port) (w : Window) (p p0 : Part) : Prop where
  table : p0.table = p.table
  regions : p0.regions = p.regions
  jobs : p0.jobs = p.jobs
  lineClaim : p0.lineClaim = p.lineClaim
  window : p0.window = some { w with claims := w.claims.filter (fun x => x.port != q) }
  inFlight : copyInFlight p0 = copyInFlight p
  noneLost : noneLost p0

section
variable {q : Port} {dest : Link} {why : Reason} {events : List EventBody} {c : Claim} {w : Window} {p p0 : Part}
  (hd : linkDown dest = true) (hw : p.window = some w)
  (hp0 : p0 = { postAll events (dropLink q dest why p) with
    window := some { w with claims := w.claims.filter (fun x => x.port != q) } })
include hd hp0

theorem claimEnded_of_dropLink
    (hup : ∀ e ∈ p.table, e.state = .waitingSlot → ∀ q', hasPort e.target q' = true → q' ≠ q ∧ portDown p q' = false) :
    ClaimEnded q w p p0 := by
  obtain ⟨htable, hregions, hjobs, -, hclaim, -, -, hothers⟩ := dropLink_linkLost hd q why events p
  have hin := (copyInFlight_posts events (dropLink q dest why p)).trans (copyInFlight_dropLink q dest why p)
  subst hp0
  refine ⟨htable, hregions, hjobs, hclaim, rfl, hin, fun x hx => ?_⟩
  rw [← Bool.not_eq_true, isLost_iff]
  rintro ⟨hs, q', hq', hdown⟩
  obtain ⟨hne, hq'up⟩ := hup x (htable ▸ hx) hs q' hq'
  exact absurd ((hothers q' hne).symm.trans hdown) (by simp [hq'up])

include hw

/-- The pass-over count that the withdrawal clears went with the link. -/
theorem claimLost_of_dropLink (hc : copyClaimAt p q = some c) :
    runTask (.claimLost q) (postAll events (dropLink q dest why p)) = (p0, [.copyFailed c.part q .link]) := by
  have hlost := dropLink_linkLost hd q why events p
  have hwin := hlost.window.trans hw
  have hpass : ((postAll events (dropLink q dest why p)).port q).passOver = 0 := by
    rw [postAll_eq_posts]
    show ((p.setPort q _).port q).passOver = 0
    rw [port_setPort_self]
  have hany : w.claims.any (fun c => c.port == q) = true := by
    obtain ⟨hmem, hport⟩ := copyClaimAt_some hw hc
    exact List.any_eq_true.mpr ⟨c, hmem, by simp [hport]⟩
  have hclaim := (hlost.copyClaimAt q).trans hc
  subst hp0
  generalize postAll events (dropLink q dest why p) = P at *
  have hclear : ∀ v, clearPassOver q (P.setWindow v) = P.setWindow v := fun v => by
    have hself : ({ (P.setWindow v).port q with passOver := 0 } : PortState) = (P.setWindow v).port q := by
      rw [← hpass]
      rfl
    rw [clearPassOver, hself, setPort_self]
  show taskClaimLost q P = _
  rw [taskClaimLost, hclaim]
  dsimp only
  rw [withdrawClaimAt, hwin]
  dsimp only
  rw [if_pos hany, hclear]
  rfl

/-- What the failure of the claim leads to is what the link loss leads to. -/
theorem loseLink_of_claimFailed {p' : Part} {n : Nat} (hc : copyClaimAt p q = some c) (hn : n ≤ 4000)
    (hr : RunsTo n [.copyFailed c.part q .link, .serveLost] p0 p') : loseLink q dest why events p = p' :=
  settle_of_runsTo (RunsTo.step rfl (claimLost_of_dropLink hd hw hp0 hc) hr) (by omega)

end

section
variable {q : Port} {w : Window} {p p0 : Part} (h : ClaimEnded q w p p0)
include h

theorem ClaimEnded.region (r : RegionIx) : p0.region r = p.region r := by simp only [Part.region, h.regions]

theorem ClaimEnded.mstate (r : RegionIx) (q' : Port) : mstate p0 r q' = mstate p r q' := by
  unfold Machine.mstate
  rw [h.region r]

theorem ClaimEnded.noneHeld (hn : claimHoldsNone p) : claimHoldsNone p0 := by
  rw [claimHoldsNone, h.table, h.lineClaim]
  exact hn

/-- The window keeps any job from starting. -/
theorem ClaimEnded.reportWaits {r : RegionIx} {q' : Port} (hw : reportWaits p r q') (v : Window) :
    reportWaits { p0 with window := some v } r q' := fun hm =>
  ⟨.inr rfl, fun j hj => (hw ((h.mstate r q').symm.trans hm)).2 j (h.jobs ▸ hj)⟩

theorem ClaimEnded.window_sole {c : Claim} (hc : copyClaimAt p q = some c) (hw : p.window = some w) (hs : w.claims = [c]) :
    p0.window = some { w with claims := [] } := by
  obtain ⟨-, hport⟩ := copyClaimAt_some hw hc
  rw [h.window, hs, List.filter_cons_of_neg (by simp [hport])]
  rfl

end

/-! ## The engine's works with the turns at lost ports behind them -/

theorem Offstage.portDown {p p' : Part} (h : Offstage p p') (q : Port) : portDown p' q = portDown p q := by
  rw [Machine.portDown, h.port q]
  rfl

theorem Offstage.noneLost {p p' : Part} (h : Offstage p p') (hn : noneLost p) : noneLost p' := fun x hx => by
  have := hn x (h.table ▸ hx)
  rwa [isLost, funext h.portDown]

/-- The last job's end: nothing of the engine is left (R120). -/
def engineLeft (b : EventBody) (p : Part) : Part := { post b p with jobs := [], window := none, lineClaim := none }

theorem drainChecked_live {r : RegionIx} {p : Part} (h : (p.region r).state = .live) : drainChecked r p = p := by
  rw [drainChecked, if_neg]
  simp [h]

/-- The last job leaves a LIVE region's window: what follows does nothing. -/
theorem runsTo_lastJobLeaves {u : Task} {P A : Part} {b : EventBody} {w : Window} (h0 : workRank P u = 0)
    (hu : runTask u P = leaveRunning [] (some b) A) (hw : A.window = some w) (hc : w.claims = []) (hin : copyInFlight A = 0)
    (hn : claimHoldsNone A) (hlive : (A.region w.region).state = .live) (hlost : noneLost A) :
    RunsTo 5 [u, .serveLost] P (engineLeft b A) := by
  have hends : jobEnded [] (some b) A = engineLeft b A :=
    jobEnded_quiet [] b (fun w' hw' => by obtain rfl := Option.some.inj (hw.symm.trans hw'); exact hc) hin
  rw [leaveRunning_eq, hw, hends] at hu
  refine RunsTo.stepLt h0 ?_ hu ⟨_, le_rfl, works_allIdle _ _ rfl fun v hv => ?_⟩
  · cases A.lineClaim <;> simp
  · simp only [Option.map_some, Option.toList_some, List.mem_append, List.mem_cons, List.not_mem_nil, or_false] at hv
    rcases hv with (rfl | rfl | hv) | rfl
    · refine taskDrainCheck_kept w.region (engineLeft b A) (Bool.eq_false_iff.mpr fun hd => ?_)
      obtain ⟨hretiring, -⟩ := (drained_iff _ _).mp hd
      exact absurd (hlive.symm.trans hretiring) (by simp)
    · exact taskHeadStart_noJob (p := engineLeft b A) rfl
    · exact runTask_leave_noneWaits (p := engineLeft b A) hn v hv
    · exact serveLost_idle (p := engineLeft b A) hlost

section
variable {q t : Port} {w : Window} {p : Part} (hw : p.window = some w) (hlost : noneLost p)
include hw hlost

section
variable (hcl : w.claims = []) (hin : copyInFlight p = 0) (hn : claimHoldsNone p)
  (hlive : (p.region w.region).state = .live)
include hcl hin hn hlive

/-- The target's copies leave the rebuild, and with them its job, the last one (R66, R129). -/
theorem runsTo_jobAbandoned {u : Task} {b : EventBody} (why : Reason) (h0 : workRank p u = 0)
    (hu : runTask u p = leaveRunning [] (some b) (takeOutRejoining t why p)) :
    RunsTo 5 [u, .serveLost] p (engineLeft b (takeOutRejoining t why p)) := by
  have honly := takeOutRejoining_only t why p
  have haside := takeOutRejoining_aside t why p
  refine runsTo_lastJobLeaves h0 hu (honly.window.trans hw) hcl (honly.inFlight.trans hin) ?_
    ((haside.state _).trans hlive) (haside.offstage.noneLost hlost)
  rw [claimHoldsNone, honly.table, honly.lineClaim]
  exact hn

theorem runsTo_abandonSource_lost {u : Task} (hjobs : jobsWithout t p = []) (h0 : workRank p u = 0)
    (hu : runTask u p = abandonSource t p) :
    RunsTo 5 [u, .serveLost] p (engineLeft (copyAbortedEvent t .source) (takeOutRejoining t .source p)) := by
  rw [abandonSource, hjobs] at hu
  exact runsTo_jobAbandoned hw hlost hcl hin hn hlive .source h0 hu

end

variable (hj : w.job = .catchUp t) (hp : w.phase ≠ .closing) (hc : w.cancelled = false)
include hj hp hc

/-- A line started again with another source (R126, R129). -/
theorem runsTo_restart_lost {src : Port} (hm : mstate p w.region q ≠ some .inService)
    (ha : w.addr = lineAddr (p.region w.region) w.extent w.lineNo) (hb : balance p (usableSources p t w.region) = some src) :
    RunsTo 3 [.afterSourceFailure t q, .serveLost] p
      { p with window := some (lineWindow p t src w.region w.extent w.lineNo w.overtake) } := by
  have hchoose := chooseSource_restarted (p := { p with window := some w.restarted }) rfl hj ha hb
  exact RunsTo.step rfl (afterSourceFailure_restart hw hj hp hc hm)
    (RunsTo.step rfl hchoose (runsTo_serveLost_idle fun x hx => hlost x hx))

/-- The source is the last replica, or there is no other (R129). -/
theorem runsTo_sourceLost_lost (hcl : w.claims = []) (hin : copyInFlight p = 0) (hn : claimHoldsNone p)
    (hjobs : jobsWithout t p = []) (hlive : (p.region w.region).state = .live)
    (hm : mstate p w.region q = some .inService ∨ balance p (usableSources p t w.region) = none) :
    RunsTo 6 [.afterSourceFailure t q, .serveLost] p
      (engineLeft (copyAbortedEvent t .source) (takeOutRejoining t .source p)) := by
  by_cases hi : mstate p w.region q = some .inService
  · exact (runsTo_abandonSource_lost hw hlost hcl hin hn hlive hjobs rfl
      (afterSourceFailure_lastReplica hw hj hp hc hi)).mono (by omega)
  · have hb := hm.resolve_left hi
    have hwin : (engineAt p.jobs (some w.restarted) p).window = some w.restarted := rfl
    have hnone : balance (engineAt p.jobs (some w.restarted) p)
        (usableSources (engineAt p.jobs (some w.restarted) p) t w.restarted.region) = none := hb
    have habandon := runsTo_abandonSource_lost (u := .chooseSource t) hwin hlost hcl hin hn hlive hjobs rfl
      (taskChooseSource_noSource hwin hnone)
    rw [takeOutRejoining_beside] at habandon
    generalize takeOutRejoining t .source p = A at habandon ⊢
    exact RunsTo.step rfl (afterSourceFailure_restart hw hj hp hc hi) habandon

end

/-! ## A compare line that is read again -/

section
variable {w : Window} {p : Part} (hw : p.window = some w) (hj : w.job = .compare) (hp : w.phase ≠ .closing)
include hw

theorem compareProgress_waits (h : w.claims ≠ [] ∨ copyInFlight p ≠ 0) : runTask .afterCompareFailure p = (p, []) := by
  show compareProgress p = _
  rw [compareProgress, hw]
  dsimp only
  rw [if_neg]
  simp only [Bool.and_eq_true, List.isEmpty_iff, beq_iff_eq]
  exact fun ⟨⟨_, hc⟩, hin⟩ => h.elim (· hc) (· hin)

theorem startLine_sameLine : startLine .compare w.region w.extent w.lineNo p =
    (p.setWindow (some { lineBegun .compare p w.region w.extent w.lineNo with overtake := w.overtake }), []) := by
  simp [startLine, hw, lineBegun]

/-- The line is read again from the copies that can be read, its overtake count kept (R126). -/
theorem compareStart_again {c : CompareJob} (hc : runningCompare p = some c) (hr : c.region = w.region)
    (he : c.nextExtent = w.extent) (hk : c.nextLine = w.lineNo) (h2 : 2 ≤ (readablePorts p w.region).length) :
    runTask .compareStart p =
      ({ p with window := some (compareWindow p w.region w.extent w.lineNo w.overtake) }, []) := by
  show taskCompareStart p = _
  rw [taskCompareStart, hc]
  dsimp only
  rw [hr, he, hk, if_neg (by omega), startLine_sameLine hw]
  rfl

include hj hp

theorem copyFailed_compareRead (q : Port) (why : Reason) : runTask (.copyFailed .compareRead q why) p =
    (p.setWindow (some { w with reread := true }), [.report w.region q why (some w.addr), .afterCompareFailure]) := by
  simp [runTask, taskCopyFailed, hw, hj, hp]

theorem compareProgress_reread (hc : w.claims = []) (hin : copyInFlight p = 0) (hr : w.reread = true) :
    runTask .afterCompareFailure p = (p, [.compareStart]) := by
  show compareProgress p = _
  rw [compareProgress, hw]
  simp [hj, hp, hc, hin, hr]

end

theorem runningCompare_congr {p p' : Part} (h : p'.jobs = p.jobs) : runningCompare p' = runningCompare p := by
  rw [runningCompare, runningJob, h]
  rfl

/-- A report takes out no compare job. -/
theorem runningCompare_reportTaken {p : Part} {c : CompareJob} (hc : runningCompare p = some c) (r : RegionIx) (q : Port)
    (why : Reason) (line : Option UpAddr) : runningCompare (reportTaken r q why line p) = some c := by
  obtain ⟨js, hj⟩ := runningCompare_head hc
  obtain ⟨events, he⟩ := reportTaken_eq r q why line p
  have hhead : ∃ js', (reportTaken r q why line p).jobs = { kind := .compare c, started := true } :: js' := by
    rw [he, hj]
    dsimp only
    split
    · exact ⟨_, List.filter_cons_of_pos (by simp [isCatchUp])⟩
    · exact ⟨js, rfl⟩
  obtain ⟨js', hj'⟩ := hhead
  simp [runningCompare, runningJob, hj']

/-! ## The clauses of the statement -/

section
variable {q : Port} {dest : Link} {why : Reason} {events : List EventBody} {c : Claim} {w : Window} {p p0 : Part}
  (hd : linkDown dest = true) (hw : p.window = some w) (hp : w.phase ≠ .closing) (hc : copyClaimAt p q = some c)
  (hp0 : p0 = { postAll events (dropLink q dest why p) with
    window := some { w with claims := w.claims.filter (fun x => x.port != q) } })
  (he : ClaimEnded q w p p0)
include hd hw hp hc hp0 he

/-- A source read claimed at the lost port (R129). -/
theorem sourceClaimEnds {t : Port} {p1 : Part} (hn : claimHoldsNone p) (hj : w.job = .catchUp t) (hs : w.claims = [c])
    (hpart : c.part = .sourceRead) (hcan : w.cancelled = false) (hwaits : reportWaits p w.region q)
    (hp1 : p1 = reportTaken w.region q .link (some w.addr) p0) :
    (∀ src, mstate p1 w.region q ≠ some .inService → w.addr = lineAddr (p.region w.region) w.extent w.lineNo →
      balance p1 (usableSources p1 t w.region) = some src → loseLink q dest why events p =
        { p1 with window := some (lineWindow p1 t src w.region w.extent w.lineNo w.overtake) }) ∧
    (mstate p1 w.region q = some .inService ∨ balance p1 (usableSources p1 t w.region) = none →
      copyInFlight p = 0 → p.jobs = [{ kind := .catchUp t, started := true }] → (p.region w.region).state = .live →
      loseLink q dest why events p = engineLeft (copyAbortedEvent t .source) (takeOutRejoining t .source p1)) := by
  have hwin := he.window_sole hc hw hs
  have hrep : Reported p0 p1 := hp1 ▸ reportTaken_reported ..
  have hw1 := hrep.window.trans hwin
  have hlost1 := hrep.aside.offstage.noneLost he.noneLost
  have hwaits0 : reportWaits p0 w.region q := fun hm =>
    ⟨.inr (by rw [hwin]; rfl), fun j hjm => (hwaits ((he.mstate _ _).symm.trans hm)).2 j (he.jobs ▸ hjm)⟩
  have hloses : ∀ {p'}, RunsTo 32 [.afterSourceFailure t q, .serveLost] p1 p' → loseLink q dest why events p = p' := fun hr =>
    loseLink_of_claimFailed hd hw hp0 hc (n := 35) (by omega) (by
      rw [hpart]
      exact RunsTo.step rfl (copyFailed_sourceRead hwin hj hp q .link) (runsTo_report .link (some w.addr) hwaits0 (hp1 ▸ hr)))
  refine ⟨fun src hm ha hb => hloses ?_, fun hm hin hjobs hlive => hloses ?_⟩
  · have ha1 : w.addr = lineAddr (p1.region w.region) w.extent w.lineNo := by
      rw [ha, lineAddr, lineAddr, hrep.aside.base, he.region]
    exact (runsTo_restart_lost hw1 hlost1 hj hp hcan hm ha1 hb).mono (by omega)
  · have hlive1 : (p1.region w.region).state = .live := by rw [hrep.aside.state, he.region, hlive]
    exact (runsTo_sourceLost_lost hw1 hlost1 hj hp hcan rfl ((hrep.inFlight.trans he.inFlight).trans hin)
      (hrep.noneHeld (he.noneHeld hn)) (hrep.jobsWithout (he.jobs.trans hjobs)) hlive1 hm).mono (by omega)

/-- A copy write claimed at the lost port: the target leaves the rebuild (R66). -/
theorem targetClaimEnds (hn : claimHoldsNone p) (hj : w.job = .catchUp q) (hs : w.claims = [c]) (hpart : c.part = .targetWrite)
    (hm : mstate p w.region q = some .rejoining) (hin : copyInFlight p = 0)
    (hjobs : p.jobs = [{ kind := .catchUp q, started := true }]) (hlive : (p.region w.region).state = .live) :
    loseLink q dest why events p = engineLeft (copyAbortedEvent q .target) (takeOutRejoining q .link p0) := by
  have hwin := he.window_sole hc hw hs
  have hm0 := (he.mstate w.region q).trans hm
  have hjobs0 := he.jobs.trans hjobs
  have hnone := (Reported.refl p0).jobsWithout hjobs0
  have hu : runTask (.report w.region q .link (some w.addr)) p0 =
      leaveRunning [] (some (copyAbortedEvent q .target)) (takeOutRejoining q .link p0) := by
    have honly := takeOutRejoining_only q .link p0
    have hnone' : jobsWithout q (takeOutRejoining q .link p0) = [] := by rw [jobsWithout, honly.jobs]; exact hnone
    show taskReport w.region q .link (some w.addr) p0 = _
    rw [taskReport, if_pos (by simp [hm0]), takeReport_rejoining _ _ hm0, leaveCatchUp, honly.jobs, hjobs0, hnone']
    simp [isCatchUp]
  refine loseLink_of_claimFailed hd hw hp0 hc (n := 6) (by omega) ?_
  rw [hpart]
  exact RunsTo.step rfl (copyFailed_targetWrite hwin hj hp q .link) (runsTo_jobAbandoned hwin he.noneLost rfl
    (he.inFlight.trans hin) (he.noneHeld hn) ((congrArg Region.state (he.region _)).trans hlive) .link rfl hu)

/-- A compare read claimed at the lost port (R131). -/
theorem compareClaimEnds {p1 : Part} {claims : List Claim} (hj : w.job = .compare) (hpart : c.part = .compareRead)
    (hwaits : reportWaits p w.region q) (hclaims : claims = w.claims.filter (fun x => x.port != q))
    (hp1 : p1 = reportTaken w.region q .link (some w.addr)
      { p0 with window := some { w with claims := claims, reread := true } }) :
    (claims ≠ [] ∨ copyInFlight p ≠ 0 → loseLink q dest why events p = p1) ∧
    ∀ x, claims = [] → copyInFlight p = 0 → runningCompare p = some x → x.region = w.region → x.nextExtent = w.extent →
      x.nextLine = w.lineNo → 2 ≤ (readablePorts p1 w.region).length → loseLink q dest why events p =
        { p1 with window := some (compareWindow p1 w.region w.extent w.lineNo w.overtake) } := by
  subst hclaims
  have hrep : Reported (p0.setWindow (some { w with claims := w.claims.filter (fun x => x.port != q), reread := true })) p1 :=
    hp1 ▸ reportTaken_reported ..
  have hlost1 := hrep.aside.offstage.noneLost he.noneLost
  have hin1 : copyInFlight p1 = copyInFlight p := hrep.inFlight.trans he.inFlight
  have hloses : ∀ {p'}, RunsTo 32 [.afterCompareFailure, .serveLost] p1 p' → loseLink q dest why events p = p' := fun hr =>
    loseLink_of_claimFailed hd hw hp0 hc (n := 35) (by omega) (by
      rw [hpart]
      exact RunsTo.step rfl (copyFailed_compareRead he.window hj hp q .link)
        (runsTo_report .link (some w.addr) (he.reportWaits hwaits _) (hp1 ▸ hr)))
  refine ⟨fun h => hloses ?_, fun x hcl hin hx hr hext hline h2 => hloses ?_⟩
  · rw [← hin1] at h
    exact RunsTo.stepLt rfl (by omega) (compareProgress_waits hrep.window h) (runsTo_serveLost_idle hlost1)
  · have hx0 : runningCompare
        (p0.setWindow (some { w with claims := w.claims.filter (fun x => x.port != q), reread := true })) = some x :=
      (runningCompare_congr he.jobs).trans hx
    have hx1 : runningCompare p1 = some x := hp1 ▸ runningCompare_reportTaken hx0 ..
    exact RunsTo.stepLt rfl (by omega) (compareProgress_reread hrep.window hj hp hcl (hin1.trans hin) rfl)
      (RunsTo.step (n := 1) rfl (compareStart_again hrep.window hx1 hr hext hline h2)
        (runsTo_serveLost_idle fun y hy => hlost1 y hy))

end

/-- The window with the data of its line, read from `q`. -/
def Window.fetched (q : Port) (d : LineData) (w : Window) : Window := { w with data := [(q, d)] }

/-- The data of a source read, with the target's port down: the claim that would be made ends at once. -/
theorem targetDown_clause {q t : Port} {h : Handed} {d : LineData} {w : Window} {s : State} {p : Part}
    (ht : OutcomeTaken q h s p) (ho : h.origin = .copy .sourceRead) (hres : h.result = .ok (some d)) (hw : p.window = some w)
    (hj : w.job = .catchUp t) (hp : w.phase ≠ .closing) (hcl : w.claims = []) (hcan : w.cancelled = false)
    (hre : w.reread = false) (hm : mstate p w.region q = some .inService) (hdown : portDown p t = true)
    (hmt : mstate p w.region t = some .rejoining) (hin : copyInFlight p = 0) (hn : claimHoldsNone p)
    (hjobs : p.jobs = [{ kind := .catchUp t, started := true }]) (hlive : (p.region w.region).state = .live) :
    leavesPart (.copyOutcome q) s (engineLeft (copyAbortedEvent t .target) (takeOutRejoining t .link p)) := by
  have hdata : takeCopyOutcome .sourceRead q h.result p =
      (p.setWindow (some (w.fetched q d)), [.copyFailed .targetWrite t .link]) := by
    rw [hres]
    simp [takeCopyOutcome, copyOk, sourceData, Window.fetched, hw, hp, hj, hcan, hre, hm, hdown]
  have hfind : (p.setWindow (some (w.fetched q d))).jobs.find? (isCatchUp t) =
      some { kind := .catchUp t, started := true } := by simp [hjobs, isCatchUp]
  have hrun := runsTo_abandonTarget (p := p.setWindow (some (w.fetched q d))) (r := w.region) (line := some w.addr)
    rfl hcl hin hn ((Reported.refl p).jobsWithout hjobs) .link hmt hfind rfl
  have hbeside : takeOutRejoining t .link (p.setWindow (some (w.fetched q d))) =
      engineAt p.jobs (some (w.fetched q d)) (takeOutRejoining t .link p) :=
    takeOutRejoining_beside t .link p p.jobs _
  have hlive' := ((takeOutRejoining_aside t .link p).state w.region).trans hlive
  rw [hbeside] at hrun
  refine ht.leaves ho ?_
  rw [hdata]
  generalize takeOutRejoining t .link p = A at hrun hlive' ⊢
  have hleft : drainChecked w.region (engineLeft (copyAbortedEvent t .target) A) = engineLeft (copyAbortedEvent t .target) A :=
    drainChecked_live hlive'
  rw [← hleft]
  exact RunsTo.stepLt rfl (by omega) (copyFailed_targetWrite (w := w.fetched q d) rfl hj hp t .link) hrun

/-- Settles O30: the claim's end is the port's own part and the failure that follows it, for each of the three claims; then
the copy write that is not claimed. -/
theorem engineClaimEnds : Obligations.EngineClaimEnds := by
  refine ⟨fun q dest why events c w p p0 hd hw hp hc hn hup hp0 => ?_, fun q t h rest d w p s hs htake ho hres hw hj hp hcl hcan
    hre hm hdown hmt hrest hin hn hjobs hlive => ?_⟩
  · have he := claimEnded_of_dropLink hd hp0 hup
    exact ⟨fun t p1 hj hsole hpart hcan hwaits hp1 => sourceClaimEnds hd hw hp hc hp0 he hn hj hsole hpart hcan hwaits hp1,
      targetClaimEnds hd hw hp hc hp0 he hn,
      fun p1 claims hj hpart hwaits hclaims hp1 => compareClaimEnds hd hw hp hc hp0 he hj hpart hwaits hclaims hp1⟩
  · have ht : OutcomeTaken q h s p := ⟨hs, rest, htake, hrest⟩
    have hms : ∀ r x, mstate p r x = mstate s.part r x := fun r x => by rw [mstate, ht.region]; rfl
    have hdown' : portDown p t = true := by rw [hrest]; exact hdown
    exact targetDown_clause ht ho hres (ht.window.trans hw) hj hp hcl hcan hre ((hms _ _).trans hm) hdown'
      ((hms _ _).trans hmt) hin hn hjobs hlive

end Sys2Proof.Machine
end

section
/-! SUPPORT. What the works of an event can do to a port: return its pass-over count to 0, give held slots back, and place a
transaction in a held slot. -/

namespace Sys2Proof.Machine

/-! ## The changes of a port -/

/-- One change that a work of an event makes to a port: the engine's claim withdrawn (R96), held slots given back (R13), a
transaction entering a held slot (R55, R87). -/
inductive PortChange : PortState → PortState → Prop where
  | passOverCleared (x : PortState) : PortChange x { x with passOver := 0 }
  | slotsBack (f : SlotIx × Tag → Bool) (x : PortState) : PortChange x { x with held := x.held.filter f }
  | placed {t : QEntry} {x : PortState} (h : t.slot ∈ x.held.map (·.1)) :
      PortChange x { x with queue := x.queue ++ [t], held := x.held.filter (fun h => h.1 != t.slot), silenceSince := none }

/-- From `p` to `p'` each port has undergone such changes, and no others. -/
def PortsWorked (p p' : Part) : Prop := ∀ q, Relation.ReflTransGen PortChange (p.port q) (p'.port q)

namespace PortsWorked

theorem of_ports {p p' : Part} (h : p'.ports = p.ports) : PortsWorked p p' := fun q => by
  rw [show p'.port q = p.port q by simp only [Part.port, h]]

theorem refl (p : Part) : PortsWorked p p := .of_ports rfl

theorem trans {a b c : Part} (h : PortsWorked a b) (h' : PortsWorked b c) : PortsWorked a c := fun q => (h q).trans (h' q)

/-- What follows a change that leaves the ports as they are. -/
theorem after {p p' p'' : Part} (h : Aside p p') (h' : PortsWorked p' p'') : PortsWorked p p'' := (of_ports h.ports).trans h'

theorem setPort {p : Part} {q : Port} {x : PortState} (h : PortChange (p.port q) x) : PortsWorked p (p.setPort q x) := fun q' => by
  rw [port_setPort]
  split
  · next e => exact e ▸ .single h
  · exact .refl

theorem foldl {α : Type} {f : Part → α → Part} (h : ∀ p x, PortsWorked p (f p x)) :
    ∀ (l : List α) (p : Part), PortsWorked p (l.foldl f p)
  | [], p => refl p
  | x :: xs, p => (h p x).trans (foldl h xs (f p x))

end PortsWorked

theorem Aside.worked {p p' : Part} (h : Aside p p') : PortsWorked p p' := .of_ports h.ports

/-! ## Entries -/

theorem finishEntry_worked (e : Entry) (st : RespStatus) (p : Part) : PortsWorked p (finishEntry e st p).1 := by
  unfold finishEntry
  split <;> exact .of_ports rfl

theorem finishWrite_worked (tag : Tag) (p : Part) : PortsWorked p (finishWrite tag p).1 := by
  unfold finishWrite
  split
  · exact .refl p
  · split
    · exact finishEntry_worked _ _ p
    · exact .refl p

theorem chooseDirect_worked (e : Entry) (p : Part) : PortsWorked p (chooseDirect e p).1 := by
  unfold chooseDirect
  split
  · split <;> exact .of_ports rfl
  · exact .of_ports rfl

theorem chooseFirst_worked (e : Entry) (p : Part) : PortsWorked p (chooseFirst e p).1 := by
  unfold chooseFirst
  split
  · exact chooseDirect_worked e p
  · split
    · split
      · next hc => exact .after (chooseRead_aside hc) (.of_ports rfl)
      · exact .of_ports rfl
    · exact .refl p

theorem taskLeave_worked (line : UpAddr) (p : Part) : PortsWorked p (taskLeave line p).1 := by
  unfold taskLeave
  split
  · exact .refl p
  · exact chooseFirst_worked _ p

theorem taskImmediateFailure_worked (tag : Tag) (q : Port) (p : Part) : PortsWorked p (taskImmediateFailure tag q p).1 := by
  unfold taskImmediateFailure
  split
  · exact .refl p
  · dsimp only
    split <;> exact .of_ports rfl

theorem taskFixTargets_worked (tag : Tag) (p : Part) : PortsWorked p (taskFixTargets tag p).1 := by
  unfold taskFixTargets
  split
  · exact .refl p
  · dsimp only
    split
    · exact .refl p
    · split <;> exact .of_ports rfl

theorem taskRedirect_worked (tag : Tag) (q : Port) (why : Reason) (p : Part) : PortsWorked p (taskRedirect tag q why p).1 := by
  unfold taskRedirect
  split
  · exact .refl p
  · split
    · exact .of_ports rfl
    · split
      · exact .refl p
      · split
        · next hc => exact .after (chooseRead_aside hc) (.of_ports rfl)
        · exact .of_ports rfl

theorem taskAfterWriteFailure_worked (tag : Tag) (q : Port) (p : Part) : PortsWorked p (taskAfterWriteFailure tag q p).1 := by
  unfold taskAfterWriteFailure
  split
  · exact .refl p
  · exact .after (insertIfOut_aside _ p q) (finishWrite_worked tag _)

/-! ## Slots -/

theorem taskGiveBack_worked (q : Port) (p : Part) : PortsWorked p (taskGiveBack q p).1 := by
  unfold taskGiveBack
  split
  · exact .refl p
  · split
    · exact .setPort (.slotsBack _ _)
    · exact .refl p

theorem placeAt_worked (e : Entry) (p : Part) (q : Port) : PortsWorked p (placeAt e p q) := by
  unfold placeAt
  split
  · next k hk =>
    rw [placeTxn_eq]
    exact (PortsWorked.setPort (.placed (List.mem_map_of_mem (f := (·.1)) (heldSlot_mem hk)))).trans (.of_ports rfl)
  · exact .refl p

theorem placeMirror_worked (e : Entry) (p : Part) : PortsWorked p (placeMirror e p).1 := by
  rw [placeMirror_eq]
  have hreport := Aside.foldl (placementReport_aside e) allPorts
  have hinsert := Aside.foldl (insertIfOut_aside e) allPorts
  have hentry : ∀ f p, PortsWorked p (updateEntry e.tag f p) := fun _ _ => .of_ports rfl
  exact (PortsWorked.foldl (placeAt_worked e) _ p).trans ((hentry _ _).trans
    (.after (hreport _) (.after (hinsert _) (hentry _ _))))

theorem placeIfComplete_worked (tag : Tag) (p : Part) : PortsWorked p (placeIfComplete tag p).1 := by
  unfold placeIfComplete
  split
  · exact .refl p
  · split
    · exact placeMirror_worked _ p
    · exact .refl p

/-! ## Lost ports -/

theorem endWait_worked (e : Entry) (q : Port) (p : Part) : PortsWorked p (endWait e q p).1 := by
  unfold endWait
  split
  · exact .of_ports rfl
  · split <;> exact .of_ports rfl

theorem taskServeLost_worked (p : Part) : PortsWorked p (taskServeLost p).1 := by
  unfold taskServeLost
  split
  · exact .refl p
  · split
    · exact endWait_worked _ _ p
    · exact .refl p

theorem taskAfterShrink_worked (tag : Tag) (p : Part) : PortsWorked p (taskAfterShrink tag p).1 := by
  unfold taskAfterShrink
  split
  · exact .refl p
  · split
    · exact .refl p
    · split
      · exact .of_ports rfl
      · exact placeIfComplete_worked tag p

/-! ## Copy engine -/

theorem withdrawClaimAt_worked (q : Port) (p : Part) : PortsWorked p (withdrawClaimAt q p) := by
  unfold withdrawClaimAt
  split
  · split
    · exact .after (setWindow_aside p _) (.setPort (.passOverCleared _))
    · exact .refl p
  · exact .refl p

theorem leaveRunning_worked (rest : List Job) (ev : Option EventBody) (p : Part) : PortsWorked p (leaveRunning rest ev p).1 :=
  (PortsWorked.foldl (fun p q => withdrawClaimAt_worked q p) allPorts p).trans (.after (releaseLineClaim_aside _)
    (.after (postEnd_aside ev _) (.of_ports rfl)))

theorem leaveCatchUp_worked (q : Port) (ev : Option EventBody) (p : Part) : PortsWorked p (leaveCatchUp q ev p).1 := by
  unfold leaveCatchUp
  split
  · exact .refl p
  · split
    · exact leaveRunning_worked _ ev p
    · exact .after (postEnd_aside ev p) (.of_ports rfl)

theorem taskReport_worked (r : RegionIx) (q : Port) (why : Reason) (line : Option UpAddr) (p : Part) :
    PortsWorked p (taskReport r q why line p).1 := by
  unfold taskReport
  split
  · exact .after (takeReport_aside _ _ _ _ p) (leaveCatchUp_worked _ _ _)
  · exact (takeReport_aside _ _ _ _ p).worked

theorem taskDrainCheck_worked (r : RegionIx) (p : Part) : PortsWorked p (taskDrainCheck r p).1 := by
  rw [taskDrainCheck_fst]
  exact .of_ports (ports_drainChecked r p)

theorem taskHeadStart_worked (p : Part) : PortsWorked p (taskHeadStart p).1 := by
  unfold taskHeadStart
  split
  · split
    · exact .refl p
    · dsimp only
      split <;> exact .of_ports rfl
  all_goals exact .refl p

theorem abandonSource_worked (q : Port) (p : Part) : PortsWorked p (abandonSource q p).1 :=
  .after (takeOutRejoining_aside q _ p) (leaveRunning_worked _ _ _)

theorem taskChooseSource_worked (q : Port) (p : Part) : PortsWorked p (taskChooseSource q p).1 := by
  unfold taskChooseSource
  split
  · exact .refl p
  · split
    · exact abandonSource_worked q p
    · exact .of_ports rfl

theorem taskSelection_worked (q : Port) (p : Part) : PortsWorked p (taskSelection q p).1 := by
  unfold taskSelection
  split
  · exact .of_ports rfl
  · exact .after (takeCompletion_aside q p) (leaveRunning_worked _ _ _)

theorem taskAfterSourceFailure_worked (t s : Port) (p : Part) : PortsWorked p (taskAfterSourceFailure t s p).1 := by
  unfold taskAfterSourceFailure
  split
  · exact .refl p
  · split
    · split
      · exact .refl p
      · split
        · exact abandonSource_worked t p
        · exact .of_ports rfl
    · exact .refl p

theorem taskCompareStart_worked (p : Part) : PortsWorked p (taskCompareStart p).1 := by
  unfold taskCompareStart
  split
  · exact .refl p
  · dsimp only
    split
    · exact leaveRunning_worked _ _ p
    · exact .of_ports rfl

theorem recordLine_worked (d : PortSet) (w : Window) (p : Part) : PortsWorked p (recordLine d w p).1 := by
  unfold recordLine
  split
  · exact .refl p
  · dsimp only
    have hcounted := fun (r : RegionIx) (a : UpAddr) (j : List Job) => (postMismatch_aside d r a p).trans (jobs_aside _ j)
    split
    · exact (hcounted _ _ _).worked
    · exact .after (hcounted _ _ _) (leaveRunning_worked _ _ _)

theorem compareLine_worked (w : Window) (p : Part) : PortsWorked p (compareLine w p).1 := by
  unfold compareLine
  dsimp only
  split
  · exact .refl p
  · exact .after (releaseLineClaim_aside p) (recordLine_worked _ w _)

theorem compareProgress_worked (p : Part) : PortsWorked p (compareProgress p).1 := by
  unfold compareProgress
  split
  · exact .refl p
  · split
    · split
      · exact .refl p
      · exact compareLine_worked _ p
    · exact .refl p

theorem taskClaimLost_worked (q : Port) (p : Part) : PortsWorked p (taskClaimLost q p).1 := by
  unfold taskClaimLost
  split
  · exact .refl p
  · exact withdrawClaimAt_worked q p

theorem noticeReading_worked (t : Port) (full : Bool) (w : Window) (p : Part) : PortsWorked p (noticeReading t full w p).1 := by
  unfold noticeReading
  split
  · exact .refl p
  · split
    · split
      · exact .of_ports rfl
      · exact .after (overtaken_aside w p) (.of_ports rfl)
    · split
      · exact (withdrawClaimAt_worked t p).trans (.of_ports rfl)
      · exact .after (overtaken_aside w p) ((withdrawClaimAt_worked t _).trans (.of_ports rfl))

theorem taskNotice_worked (line : UpAddr) (full : Bool) (p : Part) : PortsWorked p (taskNotice line full p).1 := by
  unfold taskNotice
  split
  · exact .refl p
  · split
    · split
      · exact noticeReading_worked _ full _ p
      · exact .after (overtaken_aside _ p) (.of_ports rfl)
    · exact .refl p

/-! ## Events -/

/-- No work of an event does anything else to a port. -/
theorem runTask_worked (t : Task) (p : Part) : PortsWorked p (runTask t p).1 := by
  cases t with
  | leave line => exact taskLeave_worked line p
  | immediateFailure tag q => exact taskImmediateFailure_worked tag q p
  | fixTargets tag => exact taskFixTargets_worked tag p
  | giveBack q => exact taskGiveBack_worked q p
  | serveLost => exact taskServeLost_worked p
  | redirect tag q why => exact taskRedirect_worked tag q why p
  | afterShrink tag => exact taskAfterShrink_worked tag p
  | afterWriteFailure tag q => exact taskAfterWriteFailure_worked tag q p
  | report r q why line => exact taskReport_worked r q why line p
  | drainCheck r => exact taskDrainCheck_worked r p
  | headStart => exact taskHeadStart_worked p
  | selection q => exact taskSelection_worked q p
  | chooseSource q => exact taskChooseSource_worked q p
  | lineDone q => exact (taskLineDone_aside q p).worked
  | afterSourceFailure t s => exact taskAfterSourceFailure_worked t s p
  | compareStart => exact taskCompareStart_worked p
  | afterCompareFailure => exact compareProgress_worked p
  | closeCheck => exact (taskCloseCheck_aside p).worked
  | claimLost q => exact taskClaimLost_worked q p
  | copyFailed part q why => exact (taskCopyFailed_aside part q why p).worked
  | notice line full => exact taskNotice_worked line full p
  | posting b => exact (post_aside b p).worked

theorem settle_worked (a : Act) : PortsWorked a.1 (settle a) :=
  runAgenda_keeps PortsWorked.refl (fun _ _ _ => PortsWorked.trans) runTask_worked _ _ _

/-! ## Empty ports -/

/-- No slot of the port is taken, nobody is passed over there, and its silence timer is stopped. -/
structure PortState.Empty (x : PortState) : Prop where
  queue : x.queue = []
  held : x.held = []
  passOver : x.passOver = 0
  silence : x.silenceSince = none

/-- A port without held slots receives no transaction from a work. -/
theorem PortChange.empty {x y : PortState} (h : PortChange x y) (hx : x.Empty) : y.Empty := by
  obtain ⟨hq, hh, hp, hs⟩ := hx
  cases h with
  | passOverCleared => exact ⟨hq, hh, rfl, hs⟩
  | slotsBack => exact ⟨hq, by simp [hh], hp, hs⟩
  | placed h => simp [hh] at h

theorem PortsWorked.empty {p p' : Part} (h : PortsWorked p p') {q : Port} (hq : (p.port q).Empty) : (p'.port q).Empty :=
  Relation.ReflTransGen.head_induction_on (motive := fun x _ => x.Empty → (p'.port q).Empty) (h q) id
    (fun hc _ ih hx => ih (hc.empty hx)) hq

end Sys2Proof.Machine
end

section
/-! SUPPORT. Links that go down, and the statements about ready reports, link errors, timers and responses (R80 to R92). -/

namespace Sys2Proof.Machine

/-! ## A link loss (R85) -/

/-- The port a link loss leaves: its settings stay. -/
def PortState.lost (dest : Link) (x : PortState) : PortState :=
  { x with link := dest, queue := [], held := [], trainingSince := none, wakeSince := none, silenceSince := none, passOver := 0 }

theorem port_dropLink (q : Port) (dest : Link) (why : Reason) (p : Part) : (dropLink q dest why p).port q = (p.port q).lost dest :=
  port_setPort_self p q _

theorem port_dropLink_ne {q q' : Port} (dest : Link) (why : Reason) (p : Part) (h : q' ≠ q) :
    (dropLink q dest why p).port q' = p.port q' := port_setPort_ne p q q' _ h

/-- The whole event of a link loss: what it does at the port and hands over, its own records first (log 5); the time and the
management port stand. -/
structure LosesLink (q : Port) (dest : Link) (why : Reason) (bs : List EventBody) (p p' : Part) : Prop where
  lost : portLost p p' q dest why
  posts : postsFirst p.events p'.events bs
  now : p'.now = p.now
  mgmt : p'.mgmt = p.mgmt

theorem loseLink_spec (q : Port) (dest : Link) (why : Reason) (bs : List EventBody) (p : Part) :
    LosesLink q dest why bs p (loseLink q dest why bs p) := by
  have hport := port_dropLink q dest why p
  have hothers := fun q' => port_dropLink_ne (q := q) (q' := q') dest why p
  have hempty : (((dropLink q dest why p).posts bs).port q).Empty := by
    rw [port_posts, hport]
    exact ⟨rfl, rfl, rfl, rfl⟩
  have hsame := settle_same ((dropLink q dest why p).posts bs, [.claimLost q, .serveLost])
  have hleft := (settle_worked ((dropLink q dest why p).posts bs, [.claimLost q, .serveLost])).empty hempty
  have hposts : postsFirst p.events ((dropLink q dest why p).posts bs).events bs := postsFirst_posts bs p.events
  rw [loseLink, postAll_eq_posts]
  generalize settle ((dropLink q dest why p).posts bs, [.claimLost q, .serveLost]) = p' at hsame hleft
  obtain ⟨-, -, -, -, hnow, hhanded, hclaims, hmgmt, -, hsummary, hqueue, hports⟩ := hsame
  obtain ⟨hlink, htraining, hwake, htimeout, hsilence, hweight⟩ := hports q
  simp only [port_posts, hport, PortState.lost] at hlink htraining hwake htimeout hsilence hweight
  refine ⟨⟨hlink, hleft.queue, hleft.held, hleft.passOver, htraining, hwake, hleft.silence, htimeout, hsilence, hweight,
    hhanded, hclaims, fun q' hq' => ?_⟩, postsFirst_mono hposts hqueue hsummary, hnow, hmgmt⟩
  have := hports q'
  rwa [port_posts, hothers q' hq'] at this

/-- A row whose effect is a link loss. -/
theorem answers_loseLink {c : Instr} {s : State} {q : Port} {dest : Link} {why : Reason} {bs : List EventBody} {p : Part}
    (h : leavesPart c s (loseLink q dest why bs p)) :
    ∃ t, exec c s = .next t ∧ portLost p t.part q dest why ∧ postsFirst p.events t.part.events bs ∧
      t.part.now = p.now ∧ t.part.mgmt = p.mgmt := by
  obtain ⟨hlost, hposts, hnow, hmgmt⟩ := loseLink_spec q dest why bs p
  exact ⟨_, h, hlost, hposts, hnow, hmgmt⟩

/-! ## Ready reports and link errors (R80, R81, R83, R84) -/

/-- A port as it enters ACTIVE, with the condition of its silence timer read from the port before (R82). -/
theorem activated_eq (now : Nat) (x : PortState) : x.activated now = { x with
    link := .active, trainingSince := none, wakeSince := none,
    queue := x.queue.map (fun t => if t.sentAt.isNone then { t with sentAt := some now } else t),
    silenceSince := if x.silence ≠ 0 ∧ occupancy x = 0 then some now else none } := by
  simp [PortState.activated, restartSilence, occupancy, markSent]

/-- A ready report ends TRAINING, with PORT_LINK_UP, or WAKING, without an event (R80, R81, R83). -/
theorem deviceReady_up {q : Port} {p : Part} (h : (p.port q).link = .training ∨ (p.port q).link = .waking) :
    deviceReady q p = { p.setPort q ((p.port q).activated p.now) with
      events := if (p.port q).link = .training then postTo p.events { kind := .portLinkUp, port := some q } else p.events
      trace := p.trace ++ ((p.port q).queue.filter (fun x => x.sentAt.isNone)).map
        (fun x => Output.send q x.slot x.op x.addr) } := by
  rcases h with h | h <;> simp only [deviceReady, h, enterActive_eq] <;> rfl

theorem deviceReady_ignored {q : Port} {p : Part} (ht : (p.port q).link ≠ .training) (hw : (p.port q).link ≠ .waking) :
    deviceReady q p = p := by
  unfold deviceReady
  split
  · next h => exact absurd h ht
  · next h => exact absurd h hw
  all_goals rfl

theorem linkError_ignored {q : Port} {p : Part}
    (h : (p.port q).link = .drowsy ∨ (p.port q).link = .off ∨ (p.port q).link = .failed) : linkError q p = p := by
  rcases h with h | h | h <;> simp [linkError, h]

/-- Settles O20: the link enters ACTIVE with its PENDING entries sent, or is lost, or nothing happens, by its state. -/
theorem readyReportsAndLinkErrors : Obligations.ReadyReportsAndLinkErrors := by
  refine ⟨fun q s hs => ⟨fun hlink => ?_, fun ht hw => onPart_idle (deviceReady_ignored ht hw)⟩,
    fun q s hs => ⟨fun hlink => answers_loseLink (exec_linkError hs hlink), fun hlink => onPart_idle (linkError_ignored hlink)⟩⟩
  have hup := onPart_running (deviceReady q) s hs
  rw [deviceReady_up hlink] at hup
  exact ⟨_, hup, (port_setPort_self ..).trans (activated_eq ..), fun q' hq' => port_setPort_ne _ _ _ _ hq', rfl, rfl, rfl, rfl,
    rfl, rfl, rfl, rfl⟩

/-! ## Timers (R80, R82, R83, R92) -/

theorem silenceExpiry_idle {q : Port} {p : Part} (h : (p.port q).silenceSince = none) : silenceExpiry q p = p := by
  simp [silenceExpiry, h]

/-- The silence timer runs out: the link goes to sleep (R82, R100). -/
theorem silenceExpiry_sleeps {q : Port} {t0 d : Nat} {p : Part} (ht : (p.port q).silenceSince = some t0)
    (hd : silenceMicros (p.port q).silence = some d) :
    silenceExpiry q p = { p.setPort q { p.port q with link := .drowsy, silenceSince := none } with
      now := max p.now (t0 + d), trace := p.trace ++ [.powerDown q] } := by
  simp [silenceExpiry, ht, hd, reachTime, Part.setPort, Part.out]

theorem trainingExpiry_idle {q : Port} {p : Part} (h : (p.port q).link ≠ .training ∨ (p.port q).trainingSince = none) :
    trainingExpiry q p = p := by
  unfold trainingExpiry
  split
  · next hl ht => simp [hl, ht] at h
  · rfl

theorem wakeExpiry_idle {q : Port} {p : Part} (h : (p.port q).link ≠ .waking ∨ (p.port q).wakeSince = none) :
    wakeExpiry q p = p := by
  unfold wakeExpiry
  split
  · next hl ht => simp [hl, ht] at h
  · rfl

/-- A response timer measures nothing on a link that is not ACTIVE, without a SENT entry, and with timeout index 0 (R92). -/
theorem responseExpiry_idle {q : Port} {p : Part} (h : (p.port q).link ≠ .active ∨ oldestSent (p.port q) = none ∨
    timeoutMicros (p.port q).timeoutIx = none) : responseExpiry q p = p := by
  unfold responseExpiry
  split
  · next hl ho ht =>
    rcases h with h | h | h
    · exact absurd hl h
    · simp [h] at ho
    · simp [h] at ht
  · rfl

/-- Settles O21: the sleep of an idle link, the three expiries that lose a link, and the timers that measure nothing. -/
theorem timerExpiries : Obligations.TimerExpiries := fun q _ s hs =>
  ⟨fun _ ht hd => silenceExpiry_sleeps ht hd ▸ onPart_running (silenceExpiry q) s hs,
    fun h => onPart_idle (silenceExpiry_idle h),
    fun hl ht => answers_loseLink (exec_trainingExpiry hs hl ht),
    fun h => onPart_idle (trainingExpiry_idle h),
    fun hl ht => answers_loseLink (exec_wakeExpiry hs hl ht),
    fun h => onPart_idle (wakeExpiry_idle h),
    fun _ _ hl ho hx ht => answers_loseLink (exec_responseExpiry hs hl ho hx ht),
    fun h => onPart_idle (responseExpiry_idle h)⟩

/-! ## Responses (R89, R90) -/

/-- A response that names a SENT entry and suits its kind is taken (R89). -/
theorem deviceResponse_taken {q : Port} {k : SlotIx} {resp : DevResponse} {x : QEntry} {result : TxnResult} {p : Part}
    (hlink : (p.port q).link = .active) (hx : (p.port q).queue.find? (fun x => x.slot == k && x.sentAt.isSome) = some x)
    (hr : responseResult x.op resp = some result) : deviceResponse q k resp p =
      { p.setPort q (restartSilence p.now { p.port q with queue := (p.port q).queue.filter (fun y => y.slot != k) }) with
        handed := p.handed ++ [{ port := q, origin := x.origin, result := result }] } := by
  have hslot : x.slot = k := by
    have hfound := List.find?_some hx
    simp only [Bool.and_eq_true, beq_iff_eq] at hfound
    exact hfound.1
  simp [deviceResponse, hlink, hx, hr, takeResponse, hslot]

/-- Any other response is discarded (R90). -/
theorem deviceResponse_discarded {q : Port} {k : SlotIx} {resp : DevResponse} {p : Part}
    (h : (p.port q).link ≠ .active ∨ ∀ x ∈ (p.port q).queue, x.slot = k → x.sentAt = none) : deviceResponse q k resp p = p := by
  rcases h with h | h
  · simp [deviceResponse, h]
  · have hnone : (p.port q).queue.find? (fun x => x.slot == k && x.sentAt.isSome) = none := by
      refine List.find?_eq_none.mpr fun x hx hc => ?_
      simp only [Bool.and_eq_true, beq_iff_eq] at hc
      simp [h x hx hc.1] at hc
    simp [deviceResponse, hnone]

/-- Settles O22: the response is taken, loses the link, or is discarded. -/
theorem deviceResponseByForm : Obligations.DeviceResponseByForm := fun q k resp s hs =>
  ⟨fun _ hlink hx =>
    ⟨fun _ hr => deviceResponse_taken hlink hx hr ▸ onPart_running (deviceResponse q k resp) s hs,
      fun hr => answers_loseLink (exec_deviceResponse_wrongForm hs hlink hx hr)⟩,
    fun h => onPart_idle (deviceResponse_discarded h)⟩

end Sys2Proof.Machine
end

section
/-! SUPPORT. The statements about PORT_ENABLE, PORT_DISABLE and PORT_SETUP (R79, R86, R97). -/

namespace Sys2Proof.Machine

/-- A payload with a reserved byte set, or with no port, names no port (R171). -/
theorem cleanPort_none {port reserved : Byte} (h : reserved ≠ 0#8 ∨ portOf port = none) : cleanPort port reserved = none := by
  unfold cleanPort
  split
  · next hz => exact h.resolve_left (not_not_intro (beq_iff_eq.mp hz))
  · rfl

theorem cleanPort_some {port reserved : Byte} {q : Port} (hz : reserved = 0#8) (hp : portOf port = some q) :
    cleanPort port reserved = some q := by simp [cleanPort, hz, hp]

theorem portDown_iff (p : Part) (q : Port) : portDown p q = true ↔ (p.port q).link = .off ∨ (p.port q).link = .failed := by
  simp [portDown, linkDown, or_comm]

/-- Settles O43: the reserved byte and the port, then the link state. -/
theorem portEnableChecksAndEffect : Obligations.PortEnableChecksAndEffect := by
  refine fun seq port reserved s h => ⟨fun hbad => ?_, fun q hz hp => ⟨fun hdown => ?_, fun hoff hfailed => ?_⟩⟩
  · exact repliesWith_of_run rfl h (by simp [cmdPortEnable, cleanPort_none hbad, refuse])
  · have hdown := (portDown_iff s.part q).mpr hdown
    exact repliesWith_of_run rfl h (by
      simp [cmdPortEnable, cleanPort_some hz hp, hdown, done, enablePort, Part.setPort, Part.out])
  · have hup : portDown s.part q = false := by simpa using mt (portDown_iff s.part q).mp (not_or_intro hoff hfailed)
    exact repliesWith_of_run rfl h (by simp [cmdPortEnable, cleanPort_some hz hp, hup, refuse])

/-! ## PORT_SETUP (R97) -/

theorem settingsFit_iff (timeout silence weight : Byte) : settingsFit timeout silence weight = true ↔
    timeout.toNat ≤ 5 ∧ silence.toNat ≤ 4 ∧ 1 ≤ weight.toNat ∧ weight.toNat ≤ 15 := by
  simp only [settingsFit, Bool.and_eq_true, decide_eq_true_eq, and_assoc]

/-- The port with its new settings (R82, R97). -/
theorem setUpPort_eq (now timeout silence weight : Nat) (x : PortState) : setUpPort now timeout silence weight x = { x with
    timeoutIx := timeout, silence := silence, weight := weight,
    silenceSince := if x.silence = silence then x.silenceSince
      else if x.link = .active ∧ silence ≠ 0 ∧ occupancy x = 0 then some now else none } := by
  by_cases h : x.silence = silence
  · simp [setUpPort, h]
  · simp [setUpPort, h, restartSilence, occupancy, and_assoc]

theorem cmdPortSetup_refused {port timeout silence weight : Byte}
    (h : portOf port = none ∨ settingsFit timeout silence weight = false) (p : Part) :
    cmdPortSetup port timeout silence weight p = (p, .badValue, []) := by
  unfold cmdPortSetup
  split
  · rfl
  · next hp => simp [h.resolve_left (by simp [hp]), refuse]

/-- PORT_SETUP is refused without a port or with a setting out of range, and carried out otherwise (R97). -/
theorem portSetup_replies {seq port timeout silence weight : Byte} {s : State} (h : takesCommand s seq) :
    (portOf port = none ∨ settingsFit timeout silence weight = false →
      refusesWith (.portSetup seq port timeout silence weight) s seq 0x22#8 .badValue) ∧
    ∀ q, portOf port = some q → settingsFit timeout silence weight = true →
      repliesWith (.portSetup seq port timeout silence weight) s seq 0x22#8 .ok []
        (s.part.setPort q (setUpPort s.part.now timeout.toNat silence.toNat weight.toNat (s.part.port q))) :=
  ⟨fun hbad => repliesWith_of_run rfl h (cmdPortSetup_refused hbad s.part),
    fun _ hp hfit => repliesWith_of_run rfl h (by simp [cmdPortSetup, hp, hfit, done])⟩

/-- Settles O44: PORT_DISABLE's checks in their order and the link loss; PORT_SETUP's ranges and settings. -/
theorem portDisableAndSetup : Obligations.PortDisableAndSetup := by
  refine ⟨fun seq port reserved s h => ⟨fun hbad => ?_, fun q hz hp => ⟨fun hd => ?_, fun hd hl => ?_, fun hd hl =>
      ⟨fun hoff => ?_, fun hoff => ?_⟩⟩⟩, fun seq port timeout silence weight s h => ⟨fun hbad => ?_,
        fun q hp htimeout hsilence hweight hweight' => ?_⟩⟩
  · exact repliesWith_of_run rfl h (by simp [cmdPortDisable, cleanPort_none hbad, refuse])
  · exact repliesWith_of_run rfl h (by simp [cmdPortDisable, cleanPort_some hz hp, hd, refuse])
  · exact repliesWith_of_run rfl h (by simp [cmdPortDisable, cleanPort_some hz hp, hd, hl, refuse])
  · exact repliesWith_of_run rfl h (by simp [cmdPortDisable, cleanPort_some hz hp, hd, hl, disablePort, hoff, done])
  · obtain ⟨hlost, -, hnow, hmgmt⟩ := loseLink_spec q .off .link [] (s.part.out (.shutDown q))
    subst hz
    exact ⟨_, exec_portDisable h hp hd hl hoff, hlost, hnow, hmgmt⟩
  · refine (portSetup_replies h).1 (hbad.imp_right fun hrange => ?_)
    have hnot : ¬ settingsFit timeout silence weight = true := by
      rw [settingsFit_iff]
      rcases hrange with hr | hr | rfl | hr
      · omega
      · omega
      · simp
      · omega
    simpa using hnot
  · have hfit := (settingsFit_iff timeout silence weight).mpr ⟨htimeout, hsilence, hweight, hweight'⟩
    have hzero : silence.toNat ≠ 0 ↔ silence ≠ 0#8 := by simp [← BitVec.toNat_inj]
    have := (portSetup_replies h).2 q hp hfit
    simpa only [setUpPort_eq, hzero] using this

end Sys2Proof.Machine
end

section
/-! SUPPORT. The shape of a divergence list, and the extents it covers, under insertion, coalescing and removal (R103 to R112). -/

namespace Sys2Proof.Machine

/-! ## Runs apart (R103) -/

theorem runApart_irrefl (a : Run) : ¬ runApart a a := by
  rintro (h | ⟨-, h⟩)
  · exact lt_irrefl _ h
  · rw [Run.stop] at h
    omega

theorem runApart_trans {a b c : Run} (h : runApart a b) (h' : runApart b c) : runApart a c := by
  obtain h | ⟨hr, h⟩ := h
  · obtain h' | ⟨hr', -⟩ := h'
    · exact .inl (h.trans h')
    · exact .inl (hr' ▸ h)
  · obtain h' | ⟨hr', h'⟩ := h'
    · exact .inl (hr ▸ h')
    · refine .inr ⟨hr.trans hr', ?_⟩
      rw [Run.stop] at h' ⊢
      rw [Run.stop] at h
      omega

theorem runBefore_iff (a b : Run) : runBefore a b = true ↔ a.region < b.region ∨ a.region = b.region ∧ a.first < b.first := by
  simp [runBefore]

theorem runBefore_of_apart {a b : Run} (h : runApart a b) : runBefore a b = true :=
  (runBefore_iff a b).mpr (h.imp_right fun ⟨hr, hs⟩ => ⟨hr, by rw [Run.stop] at hs; omega⟩)

/-- A run that comes before another one in the list order does not stand behind it. -/
theorem not_runApart_of_before {a b : Run} (h : runBefore a b = true) : ¬ runApart b a := by
  rintro (hlt | ⟨hr, hs⟩)
  · rcases (runBefore_iff a b).mp h with h | ⟨h, -⟩
    · exact lt_asymm h hlt
    · exact lt_irrefl _ (h ▸ hlt)
  · rcases (runBefore_iff a b).mp h with h | ⟨-, h⟩
    · exact lt_irrefl _ (hr ▸ h)
    · rw [Run.stop] at hs
      omega

/-- A run that neither overlaps nor touches a range stands before or behind it (R106). -/
theorem apart_of_not_meets {r x : Run} (h : ¬ runMeets r x = true) : runApart x r ∨ runApart r x := by
  rw [runMeets_iff] at h
  rcases lt_trichotomy x.region r.region with hr | hr | hr
  · exact .inl (.inl hr)
  · by_cases hs : x.stop < r.first
    · exact .inl (.inr ⟨hr, hs⟩)
    · refine .inr (.inr ⟨hr.symm, ?_⟩)
      by_contra hs'
      exact h ⟨hr.symm, by omega, by omega⟩
  · exact .inr (.inl hr)

/-! ## A run put at its place (R108) -/

theorem placeRun_eq_orderedInsert (x : Run) (l : List Run) :
    placeRun x l = l.orderedInsert (fun a b => runBefore a b = true) x := by
  induction l with
  | nil => rfl
  | cons r rs ih => rw [placeRun, List.orderedInsert, ih]

theorem placeRun_perm (x : Run) (l : List Run) : (placeRun x l).Perm (x :: l) := by
  rw [placeRun_eq_orderedInsert]
  exact List.perm_orderedInsert _ x l

theorem mem_placeRun_iff {x y : Run} {l : List Run} : y ∈ placeRun x l ↔ y = x ∨ y ∈ l := by
  rw [(placeRun_perm x l).mem_iff, List.mem_cons]

theorem length_placeRun (x : Run) (l : List Run) : (placeRun x l).length = l.length + 1 := (placeRun_perm x l).length_eq

theorem placeRun_pairwise {x : Run} {l : List Run} (hl : l.Pairwise runApart) (hx : ∀ y ∈ l, runApart x y ∨ runApart y x) :
    (placeRun x l).Pairwise runApart := by
  induction l with
  | nil => simp [placeRun]
  | cons r rs ih =>
    obtain ⟨hr, hrs⟩ := List.pairwise_cons.mp hl
    rw [placeRun]
    split
    · next hb =>
      have hxr : runApart x r := (hx r (List.mem_cons_self ..)).resolve_right (not_runApart_of_before hb)
      refine List.pairwise_cons.mpr ⟨fun y hy => ?_, hl⟩
      rcases List.mem_cons.mp hy with rfl | hy
      · exact hxr
      · exact runApart_trans hxr (hr y hy)
    · next hb =>
      have hrx : runApart r x := (hx r (List.mem_cons_self ..)).resolve_left fun h => hb (runBefore_of_apart h)
      refine List.pairwise_cons.mpr ⟨fun y hy => ?_, ih hrs fun y hy => hx y (List.mem_cons_of_mem r hy)⟩
      rcases mem_placeRun_iff.mp hy with rfl | hy
      · exact hrx
      · exact hr y hy

/-! ## A range merged with the runs it meets (R107) -/

theorem region_foldl_runJoin (l : List Run) (x : Run) : (l.foldl runJoin x).region = x.region := by
  induction l generalizing x with
  | nil => rfl
  | cons r rs ih => exact ih (runJoin x r)

theorem lt_first_foldl_runJoin {n : Nat} (l : List Run) (x : Run) :
    n < (l.foldl runJoin x).first ↔ n < x.first ∧ ∀ y ∈ l, n < y.first := by
  induction l generalizing x with
  | nil => simp
  | cons r rs ih =>
    rw [List.foldl_cons, ih, show (runJoin x r).first = min x.first r.first from rfl, lt_min_iff, List.forall_mem_cons, and_assoc]

theorem stop_foldl_runJoin_lt {n : Nat} (l : List Run) (x : Run) :
    (l.foldl runJoin x).stop < n ↔ x.stop < n ∧ ∀ y ∈ l, y.stop < n := by
  induction l generalizing x with
  | nil => simp
  | cons r rs ih => rw [List.foldl_cons, ih, stop_runJoin, max_lt_iff, List.forall_mem_cons, and_assoc]

/-- The merged run covers the range and the runs it meets, and no other extent (R107). -/
theorem mem_foldl_runJoin {x : Run} {l : List Run} (h : ∀ y ∈ l, runMeets y x = true) (n : Nat) :
    (l.foldl runJoin x).first ≤ n ∧ n < (l.foldl runJoin x).stop ↔
      (x.first ≤ n ∧ n < x.stop) ∨ ∃ y ∈ l, y.first ≤ n ∧ n < y.stop := by
  have hfirst := not_congr (lt_first_foldl_runJoin (n := n) l x)
  have hstop := not_congr (stop_foldl_runJoin_lt (n := n + 1) l x)
  simp only [not_lt, not_and_or, not_forall, exists_prop, Nat.succ_le_iff] at hfirst hstop
  rw [hfirst, hstop]
  constructor
  · rintro ⟨hf, hs⟩
    by_cases hxf : x.first ≤ n
    · by_cases hxs : n < x.stop
      · exact .inl ⟨hxf, hxs⟩
      · obtain ⟨y, hy, hys⟩ := hs.resolve_left hxs
        obtain ⟨-, hm, -⟩ := (runMeets_iff y x).mp (h y hy)
        exact .inr ⟨y, hy, by omega, hys⟩
    · obtain ⟨y, hy, hyf⟩ := hf.resolve_left hxf
      obtain ⟨-, -, hm⟩ := (runMeets_iff y x).mp (h y hy)
      exact .inr ⟨y, hy, hyf, by omega⟩
  · rintro (⟨hf, hs⟩ | ⟨y, hy, hf, hs⟩)
    · exact ⟨.inl hf, .inl hs⟩
    · exact ⟨.inr ⟨y, hy, hf⟩, .inr ⟨y, hy, hs⟩⟩

/-- A run that stands apart from the range and from the runs the range meets stands apart from the merged run. -/
theorem apart_foldl_runJoin {x z : Run} {l : List Run} (hz : ¬ runMeets z x = true) (h : ∀ y ∈ l, runMeets y x = true)
    (ha : ∀ y ∈ l, runApart y z ∨ runApart z y) : runApart (l.foldl runJoin x) z ∨ runApart z (l.foldl runJoin x) := by
  have hreg := region_foldl_runJoin l x
  rcases apart_of_not_meets hz with (hr | ⟨hr, hs⟩) | (hr | ⟨hr, hs⟩)
  · exact .inl (.inl (hreg ▸ hr))
  · refine .inl (.inr ⟨hreg.trans hr, (stop_foldl_runJoin_lt l x).mpr ⟨hs, fun y hy => ?_⟩⟩)
    obtain ⟨hyr, hm, -⟩ := (runMeets_iff y x).mp (h y hy)
    rcases ha y hy with (hlt | ⟨-, hlt⟩) | (hlt | ⟨-, hlt⟩)
    · exact absurd (hyr.trans hr) (ne_of_lt hlt)
    · exact hlt
    · exact absurd (hyr.trans hr) (ne_of_gt hlt)
    · rw [Run.stop] at hlt
      omega
  · exact .inr (.inl (hreg ▸ hr))
  · refine .inr (.inr ⟨hr.trans hreg.symm, (lt_first_foldl_runJoin l x).mpr ⟨hs, fun y hy => ?_⟩⟩)
    obtain ⟨hyr, -, hm⟩ := (runMeets_iff y x).mp (h y hy)
    rcases ha y hy with (hlt | ⟨-, hlt⟩) | (hlt | ⟨-, hlt⟩)
    · exact absurd (hyr.trans hr.symm) (ne_of_lt hlt)
    · rw [Run.stop] at hs
      omega
    · exact absurd (hyr.trans hr.symm) (ne_of_gt hlt)
    · exact hlt

/-! ## Insertion with room (R106) -/

/-- Two runs of one list stand one before the other. -/
theorem apart_of_mem {l : List Run} (hl : l.Pairwise runApart) {y z : Run} (hy : y ∈ l) (hz : z ∈ l) (hne : y ≠ z) :
    runApart y z ∨ runApart z y :=
  have : Std.Symm fun a b => runApart a b ∨ runApart b a := ⟨fun _ _ => Or.symm⟩
  (hl.imp (S := fun a b => runApart a b ∨ runApart b a) .inl).forall hy hz hne

theorem mergeRun_pairwise {x : Run} {l : List Run} (hl : l.Pairwise runApart) : (mergeRun x l).Pairwise runApart := by
  refine placeRun_pairwise (hl.filter _) fun z hz => ?_
  obtain ⟨hz, hzx⟩ := List.mem_filter.mp hz
  have hzx : ¬ runMeets z x = true := by simpa using hzx
  refine apart_foldl_runJoin hzx (fun y hy => (List.mem_filter.mp hy).2) fun y hy => ?_
  obtain ⟨hy, hyx⟩ := List.mem_filter.mp hy
  exact apart_of_mem hl hy hz fun he => hzx (he ▸ hyx)

/-- A merge takes one run or more away and brings one (R107). -/
theorem length_mergeRun {x : Run} {l : List Run} (h : ∃ y ∈ l, runMeets y x = true) : (mergeRun x l).length ≤ l.length := by
  have hsum := l.length_eq_length_filter_add (fun r => runMeets r x)
  have hpos : 0 < (l.filter (fun r => runMeets r x)).length := List.length_filter_pos_iff.mpr h
  rw [mergeRun, length_placeRun]
  omega

theorem covered_mergeRun (x : Run) (l : List Run) (r : RegionIx) (n : Nat) :
    covered (mergeRun x l) r n ↔ covered l r n ∨ x.region = r ∧ x.first ≤ n ∧ n < x.stop := by
  have hjoin := mem_foldl_runJoin (x := x) (l := l.filter (fun r => runMeets r x)) (fun y hy => (List.mem_filter.mp hy).2) n
  have hreg := region_foldl_runJoin (l.filter (fun r => runMeets r x)) x
  simp only [covered, mergeRun, mem_placeRun_iff, exists_eq_or_imp, hjoin, hreg, List.mem_filter]
  constructor
  · rintro (⟨hr, h | ⟨y, ⟨hy, hm⟩, h⟩⟩ | ⟨y, ⟨hy, -⟩, h⟩)
    · exact .inr ⟨hr, h⟩
    · exact .inl ⟨y, hy, ((runMeets_iff y x).mp hm).1.trans hr, h⟩
    · exact .inl ⟨y, hy, h⟩
  · rintro (⟨y, hy, hr, h⟩ | ⟨hr, h⟩)
    · by_cases hm : runMeets y x = true
      · exact .inl ⟨((runMeets_iff y x).mp hm).1.symm.trans hr, .inr ⟨y, ⟨hy, hm⟩, h⟩⟩
      · exact .inr ⟨y, ⟨hy, by simpa using hm⟩, hr, h⟩
    · exact .inl ⟨hr, .inl h⟩

theorem insertOpen_pairwise {x : Run} {l : List Run} (hl : l.Pairwise runApart) : (insertOpen x l).Pairwise runApart := by
  unfold insertOpen
  split
  · exact hl
  · split
    · exact mergeRun_pairwise hl
    · next hm => exact placeRun_pairwise hl fun y hy => apart_of_not_meets fun h => hm (List.any_eq_true.mpr ⟨y, hy, h⟩)

theorem length_insertOpen (x : Run) (l : List Run) : (insertOpen x l).length ≤ l.length + 1 := by
  unfold insertOpen
  split
  · omega
  · split
    · next hm => exact (length_mergeRun (List.any_eq_true.mp hm)).trans (Nat.le_succ _)
    · exact (length_placeRun x l).le

theorem length_insertOpen_meets {x : Run} {l : List Run} (h : ∃ y ∈ l, runMeets y x = true) :
    (insertOpen x l).length ≤ l.length := by
  unfold insertOpen
  split
  · exact le_rfl
  · rw [if_pos (List.any_eq_true.mpr h)]
    exact length_mergeRun h

theorem runCovers_iff (r x : Run) : runCovers r x = true ↔ r.region = x.region ∧ r.first ≤ x.first ∧ x.stop ≤ r.stop := by
  simp [runCovers, and_assoc]

/-- A run that covers a range meets it. -/
theorem runMeets_of_covers {r x : Run} (h : runCovers r x = true) : runMeets r x = true := by
  obtain ⟨hr, hf, hs⟩ := (runCovers_iff r x).mp h
  have hx : x.first ≤ x.stop := Nat.le_add_right ..
  exact (runMeets_iff r x).mpr ⟨hr, hf.trans hx, hx.trans hs⟩

/-- With room exactly the range becomes covered (R106 to R108). -/
theorem covered_insertOpen (x : Run) (l : List Run) (r : RegionIx) (n : Nat) :
    covered (insertOpen x l) r n ↔ covered l r n ∨ x.region = r ∧ x.first ≤ n ∧ n < x.stop := by
  unfold insertOpen
  split
  · next h =>
    obtain ⟨y, hy, hc⟩ := List.any_eq_true.mp h
    obtain ⟨hyr, hyf, hys⟩ := (runCovers_iff y x).mp hc
    refine (or_iff_left_of_imp ?_).symm
    rintro ⟨hr, hf, hs⟩
    exact ⟨y, hy, hyr.trans hr, hyf.trans hf, hs.trans_le hys⟩
  · split
    · exact covered_mergeRun x l r n
    · simp only [covered, mem_placeRun_iff, exists_eq_or_imp]
      exact or_comm

/-- An insertion brings no run of another region. -/
theorem region_insertOpen {x y : Run} {l : List Run} (h : y ∈ insertOpen x l) :
    y.region = x.region ∨ ∃ z ∈ l, z.region = y.region := by
  unfold insertOpen at h
  split at h
  · exact .inr ⟨y, h, rfl⟩
  · split at h
    · rcases mem_placeRun_iff.mp h with rfl | hy
      · exact .inl (region_foldl_runJoin ..)
      · exact .inr ⟨y, (List.mem_filter.mp hy).1, rfl⟩
    · rcases mem_placeRun_iff.mp h with rfl | hy
      · exact .inl rfl
      · exact .inr ⟨y, hy, rfl⟩

/-! ## The pair that is joined (R109) -/

/-- The candidates are the pairs of runs of one region, one behind the other. -/
theorem mem_candidatePairs {a b : Run} {l : List Run} : (a, b) ∈ candidatePairs l ↔ isPair l a b := by
  induction l with
  | nil => simp [candidatePairs, isPair]
  | cons c cs ih =>
    cases cs with
    | nil =>
      refine iff_of_false (by simp [candidatePairs]) ?_
      rintro ⟨-, pre, post, h⟩
      have := congrArg List.length h
      simp at this
      omega
    | cons d ds =>
      have hcons : isPair (c :: d :: ds) a b ↔ (c.region = d.region ∧ a = c ∧ b = d) ∨ isPair (d :: ds) a b := by
        constructor
        · rintro ⟨hr, pre, post, h⟩
          cases pre with
          | nil =>
            obtain ⟨rfl, rfl, -⟩ : c = a ∧ d = b ∧ ds = post := by simpa using h
            exact .inl ⟨hr, rfl, rfl⟩
          | cons e es => exact .inr ⟨hr, es, post, (List.cons.inj h).2⟩
        · rintro (⟨hr, rfl, rfl⟩ | ⟨hr, pre, post, h⟩)
          · exact ⟨hr, [], ds, rfl⟩
          · exact ⟨hr, c :: pre, post, by rw [h]; rfl⟩
      rw [hcons, ← ih, candidatePairs]
      split
      · next hr => simp [beq_iff_eq.mp hr]
      · next hr => simp [beq_iff_eq.not.mp hr]

/-- The three keys of R109, one after the other. -/
theorem pairBefore_iff (x y : Run × Run) : pairBefore x y = true ↔
    runGap x.1 x.2 < runGap y.1 y.2 ∨ runGap x.1 x.2 = runGap y.1 y.2 ∧
      (x.1.region < y.1.region ∨ x.1.region = y.1.region ∧ x.1.first < y.1.first) := by
  simp [pairBefore]

/-- Where the second pair does not come before the first, nor the third before the second, the third is not before the first. -/
theorem not_pairBefore_trans {x y z : Run × Run} (h : ¬ pairBefore y x = true) (h' : ¬ pairBefore z y = true) :
    ¬ pairBefore z x = true := by
  rw [pairBefore_iff, Fin.lt_def, Fin.ext_iff] at *
  omega

theorem not_pairBefore_of_before {x y : Run × Run} (h : pairBefore x y = true) : ¬ pairBefore y x = true := by
  rw [pairBefore_iff, Fin.lt_def, Fin.ext_iff] at *
  omega

/-- The better of the best pair so far and one candidate more. -/
def betterPair (best : Option (Run × Run)) (x : Run × Run) : Option (Run × Run) :=
  match best with
  | none => some x
  | some y => if pairBefore x y then some x else some y

theorem bestPair_eq (l : List Run) : bestPair l = (candidatePairs l).foldl betterPair none := rfl

/-- From a first candidate on, the pair found is one of the candidates, and none comes before it. -/
theorem foldl_betterPair (l : List (Run × Run)) (y : Run × Run) : ∃ best, l.foldl betterPair (some y) = some best ∧
    best ∈ y :: l ∧ ∀ x ∈ y :: l, ¬ pairBefore x best = true := by
  induction l generalizing y with
  | nil => exact ⟨y, rfl, List.mem_cons_self .., by simpa using fun h => not_pairBefore_of_before h h⟩
  | cons x xs ih =>
    by_cases hb : pairBefore x y = true
    · obtain ⟨best, hbest, hmem, hleast⟩ := ih x
      refine ⟨best, by rwa [List.foldl_cons, betterPair, if_pos hb], List.mem_cons_of_mem y hmem, ?_⟩
      exact List.forall_mem_cons.mpr
        ⟨not_pairBefore_trans (hleast x (List.mem_cons_self ..)) (not_pairBefore_of_before hb), hleast⟩
    · obtain ⟨best, hbest, hmem, hleast⟩ := ih y
      obtain ⟨hy, hxs⟩ := List.forall_mem_cons.mp hleast
      refine ⟨best, by rwa [List.foldl_cons, betterPair, if_neg hb], ?_, ?_⟩
      · exact (List.mem_cons.mp hmem).elim (fun h => h ▸ List.mem_cons_self ..)
          fun h => List.mem_cons_of_mem y (List.mem_cons_of_mem x h)
      · exact List.forall_mem_cons.mpr ⟨hy, List.forall_mem_cons.mpr ⟨not_pairBefore_trans hy hb, hxs⟩⟩

/-- The pair that is joined comes first by the three keys (R109). -/
theorem firstPair_of_bestPair {l : List Run} {a b : Run} (h : bestPair l = some (a, b)) : firstPair l a b := by
  rw [bestPair_eq] at h
  cases hc : candidatePairs l with
  | nil => simp [hc] at h
  | cons y ys =>
    obtain ⟨best, hbest, hmem, hleast⟩ := foldl_betterPair ys y
    obtain rfl : best = (a, b) := Option.some.inj (hbest.symm.trans (by rwa [hc] at h))
    rw [← hc] at hmem hleast
    refine ⟨mem_candidatePairs.mp hmem, fun c d hcd => ?_⟩
    have hnot := hleast (c, d) (mem_candidatePairs.mpr hcd)
    simp only [pairBefore_iff, runGap, Nat.sub_sub, Fin.lt_def, Fin.ext_iff] at hnot
    simp only [Run.stop, Fin.lt_def, Fin.ext_iff]
    omega

/-- A full list offers a pair: there are 16 regions, and a list without a pair holds at most one run of each (R108). -/
theorem length_le_of_no_pair {l : List Run} (hl : l.Pairwise runApart) (h : candidatePairs l = []) : l.length ≤ 16 := by
  have hlt : l.Pairwise fun a b => a.region < b.region := by
    induction l with
    | nil => exact .nil
    | cons a as ih =>
      obtain ⟨ha, has⟩ := List.pairwise_cons.mp hl
      cases as with
      | nil => simp
      | cons b bs =>
        rw [candidatePairs] at h
        split at h
        · simp at h
        · next hr =>
          have hbs := ih has h
          have hab : a.region < b.region := (ha b (List.mem_cons_self ..)).resolve_right fun hc => hr (by simp [hc.1])
          refine List.pairwise_cons.mpr ⟨fun y hy => ?_, hbs⟩
          rcases List.mem_cons.mp hy with rfl | hy
          · exact hab
          · exact hab.trans ((List.pairwise_cons.mp hbs).1 y hy)
  have hnodup : (l.map (·.region)).Nodup := List.pairwise_map.mpr (hlt.imp ne_of_lt)
  simpa using hnodup.length_le_card

/-- A full list has a best pair (R108). -/
theorem exists_bestPair {l : List Run} (hl : l.Pairwise runApart) (hfull : 64 ≤ l.length) : ∃ a b, bestPair l = some (a, b) := by
  cases hc : candidatePairs l with
  | nil =>
    have := length_le_of_no_pair hl hc
    omega
  | cons y ys =>
    obtain ⟨⟨a, b⟩, hbest, -, -⟩ := foldl_betterPair ys y
    exact ⟨a, b, by rw [bestPair_eq, hc]; exact hbest⟩

/-! ## Coalescing (R109) -/

/-- The run from the first extent of one run to the last of another. -/
def runSpan (a b : Run) : Run := { region := a.region, first := a.first, count := b.stop - a.first }

/-- In a list in order the two runs of a pair are replaced by one run at the place of the first (R109). -/
theorem joinPair_eq {pre post : List Run} {a b : Run} (hl : (pre ++ a :: b :: post).Pairwise runApart) :
    joinPair a b (pre ++ a :: b :: post) = pre ++ runSpan a b :: post := by
  obtain ⟨-, hab, hpre⟩ := List.pairwise_append.mp hl
  obtain ⟨ha, hb⟩ := List.pairwise_cons.mp hab
  obtain ⟨hb, -⟩ := List.pairwise_cons.mp hb
  have hne : ∀ {y z : Run}, runApart y z → y ≠ z := fun h he => runApart_irrefl _ (he ▸ h)
  have hprea : ∀ y ∈ pre, y ≠ a := fun y hy => hne (hpre y hy a (by simp))
  have hpreb : ∀ y ∈ pre, y ≠ b := fun y hy => hne (hpre y hy b (by simp))
  have hposta : ∀ y ∈ post, y ≠ a := fun y hy => (hne (ha y (by simp [hy]))).symm
  have hpostb : ∀ y ∈ post, y ≠ b := fun y hy => (hne (hb y hy)).symm
  have hjoin : ∀ m : List Run, (∀ y ∈ m, y ≠ a) → (∀ y ∈ m, y ≠ b) → joinPair a b m = m := fun m hma hmb => by
    rw [joinPair, List.filter_eq_self.mpr fun y hy => by simpa using hmb y hy]
    exact (List.map_congr_left fun y hy => if_neg (by simpa using hma y hy)).trans (List.map_id m)
  have happend : ∀ m m' : List Run, joinPair a b (m ++ m') = joinPair a b m ++ joinPair a b m' := by simp [joinPair]
  have hpair : joinPair a b [a, b] = [runSpan a b] := by
    simp [joinPair, runSpan, hne (ha b (List.mem_cons_self ..))]
  rw [show a :: b :: post = [a, b] ++ post from rfl, happend, happend, hjoin pre hprea hpreb, hpair, hjoin post hposta hpostb]
  rfl

theorem covered_append (l l' : List Run) (r : RegionIx) (n : Nat) :
    covered (l ++ l') r n ↔ covered l r n ∨ covered l' r n := by
  simp only [covered, List.mem_append, or_and_right, exists_or]

theorem covered_cons (y : Run) (l : List Run) (r : RegionIx) (n : Nat) :
    covered (y :: l) r n ↔ (y.region = r ∧ y.first ≤ n ∧ n < y.stop) ∨ covered l r n := by
  simp only [covered, List.mem_cons, exists_eq_or_imp]

section
variable {pre post : List Run} {a b : Run}

theorem stop_runSpan (h : runApart a b) (hr : a.region = b.region) : (runSpan a b).stop = b.stop := by
  have hlt : a.stop < b.first := (h.resolve_left fun hc => lt_irrefl _ (hr ▸ hc)).2
  simp only [runSpan, Run.stop] at hlt ⊢
  omega

theorem spanned_pairwise (hl : (pre ++ a :: b :: post).Pairwise runApart) (hr : a.region = b.region) :
    (pre ++ runSpan a b :: post).Pairwise runApart := by
  obtain ⟨hp, hab, hpre⟩ := List.pairwise_append.mp hl
  obtain ⟨ha, hb⟩ := List.pairwise_cons.mp hab
  obtain ⟨hb, hpost⟩ := List.pairwise_cons.mp hb
  have hstop := stop_runSpan (ha b (List.mem_cons_self ..)) hr
  have hspan : ∀ y ∈ post, runApart (runSpan a b) y := fun y hy =>
    (hb y hy).imp (fun h => hr ▸ h) fun ⟨h, hs⟩ => ⟨hr.trans h, hstop ▸ hs⟩
  refine List.pairwise_append.mpr ⟨hp, List.pairwise_cons.mpr ⟨hspan, hpost⟩, fun y hy z hz => ?_⟩
  rcases List.mem_cons.mp hz with rfl | hz
  · exact hpre y hy a (List.mem_cons_self ..)
  · exact hpre y hy z (by simp [hz])

/-- The gap's extents become covered, and no others (R109). -/
theorem covered_spanned (h : runApart a b) (hr : a.region = b.region) (r : RegionIx) (n : Nat) :
    covered (pre ++ runSpan a b :: post) r n ↔
      covered (pre ++ a :: b :: post) r n ∨ a.region = r ∧ a.stop ≤ n ∧ n < b.first := by
  have hspan : ((runSpan a b).region = r ∧ (runSpan a b).first ≤ n ∧ n < (runSpan a b).stop) ↔
      (a.region = r ∧ a.first ≤ n ∧ n < a.stop) ∨ (b.region = r ∧ b.first ≤ n ∧ n < b.stop) ∨
        (a.region = r ∧ a.stop ≤ n ∧ n < b.first) := by
    have hlt : a.stop < b.first := (h.resolve_left fun hc => lt_irrefl _ (hr ▸ hc)).2
    rw [stop_runSpan h hr, ← hr, ← and_or_left, ← and_or_left, show (runSpan a b).first = a.first from rfl]
    refine and_congr_right fun _ => ?_
    simp only [Run.stop] at hlt ⊢
    omega
  simp only [covered_append, covered_cons, hspan, or_assoc, or_comm, or_left_comm]

end

/-- A run of a joined list is of a region of the list. -/
theorem region_joinPair {a b y : Run} {l : List Run} (h : y ∈ joinPair a b l) : ∃ z ∈ l, z.region = y.region := by
  obtain ⟨z, hz, rfl⟩ := List.mem_map.mp h
  refine ⟨z, (List.mem_filter.mp hz).1, ?_⟩
  split
  · next he => rw [beq_iff_eq.mp he]
  · rfl

/-! ## An insertion (R106, R108) -/

/-- A run of the list overlaps or touches the range (R106). -/
abbrev meetsRun (x : Run) (l : List Run) : Prop := ∃ y ∈ l, y.region = x.region ∧ y.first ≤ x.stop ∧ x.first ≤ y.stop

theorem any_runMeets_iff {x : Run} {l : List Run} : l.any (fun r => runMeets r x) = true ↔ meetsRun x l := by
  simp only [List.any_eq_true, runMeets_iff]

/-- With a run that meets the range, or with room, the list is not coalesced (R106). -/
theorem insertedRuns_open {x : Run} {l : List Run} (h : l.length < 64 ∨ meetsRun x l) :
    insertedRuns x l = insertOpen x l := by
  rw [insertedRuns, if_pos]
  rw [Bool.or_eq_true, any_runMeets_iff, decide_eq_true_iff]
  exact h.symm

/-- At a full list of runs apart from the range the first pair is joined, and the range inserted then (R108, R109). -/
theorem insertedRuns_full {x : Run} {l : List Run} (hl : l.Pairwise runApart) (hfull : 64 ≤ l.length)
    (h : ¬ meetsRun x l) : ∃ a b pre post, bestPair l = some (a, b) ∧ firstPair l a b ∧ a.region = b.region ∧
      l = pre ++ a :: b :: post ∧ insertedRuns x l = insertOpen x (pre ++ runSpan a b :: post) := by
  obtain ⟨a, b, hb⟩ := exists_bestPair hl hfull
  have hfirst := firstPair_of_bestPair hb
  obtain ⟨hr, pre, post, rfl⟩ := hfirst.1
  refine ⟨a, b, pre, post, hb, hfirst, hr, rfl, ?_⟩
  rw [insertedRuns, if_neg, hb, ← joinPair_eq hl]
  rw [Bool.or_eq_true, any_runMeets_iff, decide_eq_true_iff]
  exact fun hc => hc.elim h fun hc => absurd hfull (Nat.not_le.mpr hc)

/-- An insertion keeps the list's shape (R103). -/
theorem insertedRuns_sound (x : Run) {l : List Run} (h : listSound l) : listSound (insertedRuns x l) := by
  obtain ⟨hlen, hl⟩ := h
  by_cases hopen : l.length < 64 ∨ meetsRun x l
  · rw [insertedRuns_open hopen]
    refine ⟨?_, insertOpen_pairwise hl⟩
    rcases hopen with hroom | hm
    · exact (length_insertOpen x l).trans hroom
    · exact (length_insertOpen_meets (by simpa only [runMeets_iff] using hm)).trans hlen
  · obtain ⟨hfull, hm⟩ := not_or.mp hopen
    obtain ⟨a, b, pre, post, -, -, hr, rfl, hins⟩ := insertedRuns_full hl (Nat.not_lt.mp hfull) hm
    rw [hins]
    refine ⟨(length_insertOpen ..).trans ?_, insertOpen_pairwise (spanned_pairwise hl hr)⟩
    simpa [Config.runCapacity, Nat.add_assoc] using hlen

/-- An insertion brings no run of another region. -/
theorem region_insertedRuns {x y : Run} {l : List Run} (h : y ∈ insertedRuns x l) :
    y.region = x.region ∨ ∃ z ∈ l, z.region = y.region := by
  unfold insertedRuns at h
  split at h
  · exact region_insertOpen h
  · split at h
    · refine (region_insertOpen h).imp_right fun ⟨z, hz, hzy⟩ => ?_
      obtain ⟨w, hw, hwz⟩ := region_joinPair hz
      exact ⟨w, hw, hwz.trans hzy⟩
    · exact region_insertOpen h

/-! ## A removal (R112) -/

/-- Each run that a removal leaves comes from a run of the list, of its region and beginning no later. -/
theorem mem_removeFromList {r : RegionIx} {e : Nat} {y : Run} {l : List Run} (h : y ∈ removeFromList r e l) :
    ∃ z ∈ l, z.region = y.region ∧ z.first ≤ y.first := by
  induction l with
  | nil => simp [removeFromList] at h
  | cons x xs ih =>
    have hself : ∀ {m : List Run}, y ∈ m → ∃ z ∈ m, z.region = y.region ∧ z.first ≤ y.first := fun hm => ⟨y, hm, rfl, le_rfl⟩
    have htail : (∃ z ∈ xs, z.region = y.region ∧ z.first ≤ y.first) → ∃ z ∈ x :: xs, z.region = y.region ∧ z.first ≤ y.first :=
      fun ⟨z, hz, hzy⟩ => ⟨z, List.mem_cons_of_mem x hz, hzy⟩
    rw [removeFromList] at h
    split at h
    · split at h
      · exact htail (hself h)
      · rcases List.mem_cons.mp h with rfl | h
        · exact ⟨x, List.mem_cons_self .., rfl, Nat.le_succ _⟩
        · exact htail (hself h)
    · rcases List.mem_cons.mp h with rfl | h
      · exact hself (List.mem_cons_self ..)
      · exact htail (ih h)

/-- A removal keeps the list's shape (R103). -/
theorem removeFromList_sound (r : RegionIx) (e : Nat) {l : List Run} (h : listSound l) : listSound (removeFromList r e l) := by
  suffices hshape : (removeFromList r e l).length ≤ l.length ∧ (removeFromList r e l).Pairwise runApart from
    ⟨hshape.1.trans h.1, hshape.2⟩
  obtain ⟨-, hl⟩ := h
  induction l with
  | nil => exact ⟨le_rfl, .nil⟩
  | cons x xs ih =>
    obtain ⟨hx, hxs⟩ := List.pairwise_cons.mp hl
    obtain ⟨hlen, hapart⟩ := ih hxs
    rw [removeFromList]
    split
    · split
      · exact ⟨Nat.le_succ _, hxs⟩
      · next hc =>
        refine ⟨le_rfl, List.pairwise_cons.mpr ⟨fun y hy => (hx y hy).imp_right fun ⟨hr, hs⟩ => ⟨hr, ?_⟩, hxs⟩⟩
        simp only [Run.stop] at hs ⊢
        omega
    · refine ⟨Nat.succ_le_succ hlen, List.pairwise_cons.mpr ⟨fun y hy => ?_, hapart⟩⟩
      obtain ⟨z, hz, hzr, hzf⟩ := mem_removeFromList hy
      exact (hx z hz).imp (fun h => hzr ▸ h) fun ⟨hr, hs⟩ => ⟨hr.trans hzr, hs.trans_le hzf⟩

/-! ## The statement -/

/-- Settles O32: the list with the range inserted is `insertedRuns`; it covers what `insertOpen` covers, at a full list over the
joined pair, and the record is `coalescedRecord`. -/
theorem insertionAndCoalescing : Obligations.InsertionAndCoalescing := by
  rintro q x p p' l rfl rfl hsound
  have hlist := insertRun_divList q x p
  have heq := insertRun_eq q x p
  have hevents : (insertRun q x p).events = (coalescedRecord q x (p.divList q)).toList.foldl postTo p.events := by
    rw [heq]
    rfl
  rw [hlist]
  refine ⟨insertedRuns_sound x hsound, ?_, fun hc => ?_, fun hopen => ⟨?_, fun r n => ?_⟩, fun hfull hm => ?_, hevents⟩
  · rw [heq]
    rfl
  · have hm : meetsRun x (p.divList q) := by
      obtain ⟨y, hy, hcov⟩ := hc
      exact ⟨y, hy, (runMeets_iff y x).mp (runMeets_of_covers ((runCovers_iff y x).mpr hcov))⟩
    have hany : (p.divList q).any (fun r => runCovers r x) = true := by simpa only [List.any_eq_true, runCovers_iff] using hc
    rw [heq, insertedRuns_open (.inr hm), insertOpen, if_pos hany, coalescedRecord, if_pos (.inr hm), setDivList_self]
    rfl
  · rw [hevents, coalescedRecord, if_pos hopen]
    rfl
  · rw [insertedRuns_open hopen]
    exact covered_insertOpen x _ r n
  · have hnot : ¬ meetsRun x (p.divList q) := fun ⟨y, hy, h⟩ => hm y hy h
    obtain ⟨a, b, pre, post, hbest, hfirst, hr, hl, hins⟩ := insertedRuns_full hsound.2 hfull hnot
    refine ⟨a, b, hfirst, ?_, fun r n => ?_⟩
    · rw [hevents, coalescedRecord, if_neg (not_or.mpr ⟨Nat.not_lt.mpr hfull, hnot⟩), hbest]
      rfl
    · have hab : runApart a b := by
        have hapart := hl ▸ hsound.2
        exact (List.pairwise_cons.mp (List.pairwise_append.mp hapart).2.1).1 b (List.mem_cons_self ..)
      rw [hins, covered_insertOpen, covered_spanned hab hr, ← hl, or_assoc]
      exact or_congr_right or_comm

end Sys2Proof.Machine
end

section
/-! SUPPORT. What the works of an event do to memberships and divergence lists: the few changes a work can make there, one after
the other. -/

namespace Sys2Proof.Machine

/-! ## The changes of copies and lists -/

/-- One change of memberships and divergence lists: none at all, a copy that leaves service or stays out of it (R64, R70, R71, R73),
a completion without runs left (R73), an entry that was not in use replaced (R29, R34), a drained region made FREE and purged
(R38, R115), an insertion for a copy out of service (R104), a removal (R112), and the lists emptied (R117). -/
inductive CopyChange : Part → Part → Prop where
  | stands {p p' : Part} (hm : ∀ r q, mstate p' r q = mstate p r q) (hl : p'.lists = p.lists) : CopyChange p p'
  | keptOut {st : MState} (r : RegionIx) (q : Port) (p : Part) (h : isStale (some st)) : CopyChange p (setMState r q st p)
  | completed {r : RegionIx} {q : Port} {p : Part} (h : hasRunOf p q r = false) : CopyChange p (setMState r q .inService p)
  | entered {r : RegionIx} {p : Part} (x : Region) (h : inUse (p.region r) = false) : CopyChange p (p.setRegion r x)
  | retired (r : RegionIx) (p : Part) : CopyChange p (p.retired r)
  | inserted {q : Port} {x : Run} {p : Part} (h : isStale (mstate p x.region q)) : CopyChange p (insertRun q x p)
  | removed (q : Port) (r : RegionIx) (e : Nat) (p : Part) : CopyChange p (removeExtent q r e p)
  | emptied {p p' : Part} (h : ∀ q, p'.divList q = []) : CopyChange p p'

/-- From `p` to `p'` memberships and lists have undergone such changes, and no others. -/
def CopiesChanged : Part → Part → Prop := Relation.ReflTransGen CopyChange

namespace CopiesChanged

theorem one {p p' : Part} (h : CopyChange p p') : CopiesChanged p p' := .single h

theorem refl (p : Part) : CopiesChanged p p := Relation.ReflTransGen.refl

theorem trans {a b c : Part} (h : CopiesChanged a b) (h' : CopiesChanged b c) : CopiesChanged a c :=
  Relation.ReflTransGen.trans h h'

/-- Regions stand but for counts and pointers, and lists stand. -/
theorem core {p p' : Part} (hr : ∀ r, (p'.region r).core = (p.region r).core) (hl : p'.lists = p.lists) : CopiesChanged p p' :=
  .one (.stands (fun r q => mstate_of_core (hr r) q) hl)

/-- Regions and lists stand. -/
theorem same {p p' : Part} (hr : p'.regions = p.regions) (hl : p'.lists = p.lists) : CopiesChanged p p' :=
  .core (fun r => by simp only [Part.region, hr]) hl

/-- What follows a change that leaves regions and lists as they are. -/
theorem after {p p' p'' : Part} (h : CopiesChanged p' p'') (hr : p'.regions = p.regions) (hl : p'.lists = p.lists) :
    CopiesChanged p p'' := (same hr hl).trans h

theorem foldl {α : Type} {f : Part → α → Part} (h : ∀ p x, CopiesChanged p (f p x)) :
    ∀ (l : List α) (p : Part), CopiesChanged p (l.foldl f p)
  | [], p => .refl p
  | x :: xs, p => (h p x).trans (foldl h xs (f p x))

end CopiesChanged

theorem Stores.copies {p p' : Part} (h : Stores p p') : CopiesChanged p p' := .same h.regions h.lists

/-! ## Memberships -/

theorem setMState_copies {st : MState} (h : isStale (some st)) (r : RegionIx) (q : Port) (p : Part) :
    CopiesChanged p (setMState r q st p) := .one (.keptOut r q p h)

theorem ejectMember_copies (r : RegionIx) (q : Port) (why : Reason) (p : Part) : CopiesChanged p (ejectMember r q why p) :=
  (setMState_copies (.inr (.inl rfl)) r q p).trans (.same rfl rfl)

theorem takeOutRejoining_copies (q : Port) (why : Reason) (p : Part) : CopiesChanged p (takeOutRejoining q why p) := by
  refine .foldl (fun p r => ?_) _ p
  split
  · exact ejectMember_copies r q why p
  · exact .refl p

theorem takeReport_copies (r : RegionIx) (q : Port) (why : Reason) (line : Option UpAddr) (p : Part) :
    CopiesChanged p (takeReport r q why line p) := by
  unfold takeReport
  split
  · split
    · exact ejectMember_copies r q why p
    · exact .same rfl rfl
  · exact takeOutRejoining_copies q why p
  all_goals exact .refl p

theorem takeLinkLoss_copies (q : Port) (why : Reason) (p : Part) : CopiesChanged p (takeLinkLoss q why p) := by
  refine .foldl (fun p r => ?_) _ p
  rw [linkLossAt_eq]
  split
  · exact ejectMember_copies r q why p
  · split
    · exact .same rfl rfl
    · exact .refl p

/-- A completion puts a copy into service where the port's list holds no run of its region (R73). -/
theorem takeCompletion_copies (q : Port) (p : Part) : CopiesChanged p (takeCompletion q p) := by
  refine .foldl (fun p r => ?_) _ p
  unfold completeAt
  split
  · split
    · exact setMState_copies (.inr (.inr rfl)) r q p
    · next hrun => exact (CopiesChanged.one (.completed (by simpa using hrun))).trans (.same rfl rfl)
  · exact .refl p

theorem detachAt_copies (q : Port) (p : Part) (r : RegionIx) : CopiesChanged p (detachAt q p r) := by
  unfold detachAt
  split
  · exact setMState_copies (.inr (.inr rfl)) r q p
  · exact .refl p

theorem rejoinAt_copies (q : Port) (p : Part) (r : RegionIx) : CopiesChanged p (rejoinAt q p r) := by
  unfold rejoinAt
  split
  · exact (setMState_copies (.inl rfl) r q p).trans (.same rfl rfl)
  · exact .refl p

/-! ## Entries -/

theorem freeEntry_copies (e : Entry) (p : Part) : CopiesChanged p (freeEntry e p).1 :=
  .core (fun r => core_lowerInFlight e.region r (removeEntry e.tag p)) rfl

theorem completeEntry_copies (e : Entry) (st : RespStatus) (p : Part) : CopiesChanged p (completeEntry e st p).1 :=
  (freeEntry_copies e _).after rfl rfl

theorem finishEntry_copies (e : Entry) (st : RespStatus) (p : Part) : CopiesChanged p (finishEntry e st p).1 := by
  unfold finishEntry
  split
  · exact freeEntry_copies e p
  · exact completeEntry_copies e st p

theorem finishWrite_copies (tag : Tag) (p : Part) : CopiesChanged p (finishWrite tag p).1 := by
  unfold finishWrite
  split
  · exact .refl p
  · split
    · exact finishEntry_copies _ _ p
    · exact .refl p

theorem enterWaitingSlot_copies (e : Entry) (t : PortSet) (p : Part) : CopiesChanged p (enterWaitingSlot e t p).1 := .same rfl rfl

theorem chooseRead_copies {p p' : Part} {e : Entry} {q : Port} (h : chooseRead p e = some (q, p')) : CopiesChanged p p' := by
  refine .core (core_chooseRead h) ?_
  unfold chooseRead at h
  dsimp only at h
  split at h
  · simp at h
  · obtain ⟨-, rfl⟩ := Prod.mk.inj (Option.some.inj h)
    split <;> rfl

theorem chooseDirect_copies (e : Entry) (p : Part) : CopiesChanged p (chooseDirect e p).1 := by
  unfold chooseDirect
  split
  · split
    · exact completeEntry_copies e _ p
    · exact enterWaitingSlot_copies e _ p
  · exact completeEntry_copies e _ p

theorem chooseFirst_copies (e : Entry) (p : Part) : CopiesChanged p (chooseFirst e p).1 := by
  unfold chooseFirst
  split
  · exact chooseDirect_copies e p
  · split
    · split
      · next hc => exact (chooseRead_copies hc).trans (enterWaitingSlot_copies e _ _)
      · exact completeEntry_copies e _ p
    · exact .refl p

theorem taskLeave_copies (line : UpAddr) (p : Part) : CopiesChanged p (taskLeave line p).1 := by
  unfold taskLeave
  split
  · exact .refl p
  · exact chooseFirst_copies _ p

theorem taskImmediateFailure_copies (tag : Tag) (q : Port) (p : Part) : CopiesChanged p (taskImmediateFailure tag q p).1 := by
  unfold taskImmediateFailure
  split
  · exact .refl p
  · dsimp only
    split <;> exact .same rfl rfl

theorem taskFixTargets_copies (tag : Tag) (p : Part) : CopiesChanged p (taskFixTargets tag p).1 := by
  unfold taskFixTargets
  split
  · exact .refl p
  · dsimp only
    split
    · exact .refl p
    · split
      · exact completeEntry_copies _ _ p
      · exact enterWaitingSlot_copies _ _ p

theorem taskRedirect_copies (tag : Tag) (q : Port) (why : Reason) (p : Part) : CopiesChanged p (taskRedirect tag q why p).1 := by
  unfold taskRedirect
  split
  · exact .refl p
  · split
    · exact freeEntry_copies _ p
    · split
      · exact .refl p
      · split
        · next hc => exact (chooseRead_copies hc).trans (.same rfl rfl)
        · exact completeEntry_copies _ _ p

/-! ## Slots, placement and lost ports -/

theorem taskGiveBack_copies (q : Port) (p : Part) : CopiesChanged p (taskGiveBack q p).1 := by
  unfold taskGiveBack
  split
  · exact .refl p
  · split <;> exact .same rfl rfl

theorem placeTxn_copies (q : Port) (k : SlotIx) (o : Origin) (op : Op) (a : DownAddr) (p : Part) :
    CopiesChanged p (placeTxn q k o op a p) := .same (regions_placeTxn ..) (by rw [placeTxn_eq]; rfl)

/-- The dispatcher inserts for a copy that is FAULTED or DETACHED (R55, R57, R104). -/
theorem insertIfOut_copies (e : Entry) (p : Part) (q : Port) : CopiesChanged p (insertIfOut e p q) := by
  unfold insertIfOut
  split
  · next hout =>
    rw [Bool.or_eq_true, beq_iff_eq, beq_iff_eq] at hout
    exact .one (.inserted (.inr hout))
  · exact .refl p

theorem placeMirror_copies (e : Entry) (p : Part) : CopiesChanged p (placeMirror e p).1 := by
  have hplace : ∀ p q, CopiesChanged p (placeAt e p q) := fun p q => by
    unfold placeAt
    split
    · exact placeTxn_copies ..
    · exact .refl p
  have hreport : ∀ p q, CopiesChanged p (placementReport e p q) := fun p q => by
    unfold placementReport
    split
    · exact takeReport_copies ..
    · exact .refl p
  have hentry : ∀ f p, CopiesChanged p (updateEntry e.tag f p) := fun _ _ => .same rfl rfl
  rw [placeMirror_eq]
  exact (CopiesChanged.foldl hplace _ p).trans ((hentry _ _).trans ((CopiesChanged.foldl hreport _ _).trans
    ((CopiesChanged.foldl (insertIfOut_copies e) _ _).trans (hentry _ _))))

theorem placeIfComplete_copies (tag : Tag) (p : Part) : CopiesChanged p (placeIfComplete tag p).1 := by
  unfold placeIfComplete
  split
  · exact .refl p
  · split
    · exact placeMirror_copies _ p
    · exact .refl p

theorem endWait_copies (e : Entry) (q : Port) (p : Part) : CopiesChanged p (endWait e q p).1 := by
  unfold endWait
  split
  · exact (completeEntry_copies e _ _).after rfl rfl
  · split <;> exact .same rfl rfl

theorem taskServeLost_copies (p : Part) : CopiesChanged p (taskServeLost p).1 := by
  unfold taskServeLost
  split
  · exact .refl p
  · split
    · exact endWait_copies _ _ p
    · exact .refl p

theorem taskAfterShrink_copies (tag : Tag) (p : Part) : CopiesChanged p (taskAfterShrink tag p).1 := by
  unfold taskAfterShrink
  split
  · exact .refl p
  · split
    · exact .refl p
    · split
      · exact completeEntry_copies _ _ p
      · exact placeIfComplete_copies tag p

/-! ## Outcomes -/

theorem taskAfterWriteFailure_copies (tag : Tag) (q : Port) (p : Part) : CopiesChanged p (taskAfterWriteFailure tag q p).1 := by
  unfold taskAfterWriteFailure
  split
  · exact .refl p
  · exact (insertIfOut_copies _ p q).trans (finishWrite_copies tag _)

theorem hostOk_copies (e : Entry) (q : Port) (data : Option LineData) (p : Part) : CopiesChanged p (hostOk e q data p).1 := by
  unfold hostOk
  dsimp only
  generalize ({ e with ack := addPort e.ack q, readData := if e.kind == .read then data else e.readData } : Entry) = e'
  split
  · exact (finishWrite_copies _ _).after rfl rfl
  · exact (finishEntry_copies _ _ _).after rfl rfl

theorem hostFailed_copies (e : Entry) (q : Port) (why : Reason) (p : Part) : CopiesChanged p (hostFailed e q why p).1 := by
  unfold hostFailed
  dsimp only
  split
  · exact (finishEntry_copies _ _ _).after rfl rfl
  · exact .same rfl rfl

theorem takeHostOutcome_copies (tag : Tag) (q : Port) (result : TxnResult) (p : Part) :
    CopiesChanged p (takeHostOutcome tag q result p).1 := by
  unfold takeHostOutcome
  split
  · exact .refl p
  · split
    · split
      · exact hostOk_copies _ q _ p
      all_goals exact hostFailed_copies _ q _ p
    · exact .refl p

/-! ## Jobs -/

theorem leaveRunning_copies (rest : List Job) (ev : Option EventBody) (p : Part) : CopiesChanged p (leaveRunning rest ev p).1 :=
  (endRunning_stores rest ev p).copies

theorem leaveCatchUp_copies (q : Port) (ev : Option EventBody) (p : Part) : CopiesChanged p (leaveCatchUp q ev p).1 := by
  unfold leaveCatchUp
  split
  · exact .refl p
  · split
    · exact leaveRunning_copies _ ev p
    · exact (postEnd_stores ev p).copies.trans (.same rfl rfl)

theorem taskReport_copies (r : RegionIx) (q : Port) (why : Reason) (line : Option UpAddr) (p : Part) :
    CopiesChanged p (taskReport r q why line p).1 := by
  unfold taskReport
  split
  · exact (takeReport_copies ..).trans (leaveCatchUp_copies q _ _)
  · exact takeReport_copies ..

theorem taskHeadStart_copies (p : Part) : CopiesChanged p (taskHeadStart p).1 := by
  unfold taskHeadStart
  split
  · split
    · exact .refl p
    · dsimp only
      split <;> exact .same rfl rfl
  all_goals exact .refl p

theorem taskDrainCheck_copies (r : RegionIx) (p : Part) : CopiesChanged p (taskDrainCheck r p).1 := by
  by_cases hd : drained p r = true
  · rw [taskDrainCheck_drained r p hd]
    exact .one (.retired r p)
  · rw [taskDrainCheck_kept r p (by simpa using hd)]
    exact .refl p

/-! ## Catch-up lines -/

theorem abandonSource_copies (q : Port) (p : Part) : CopiesChanged p (abandonSource q p).1 :=
  (takeOutRejoining_copies q _ p).trans (leaveRunning_copies _ _ _)

theorem taskChooseSource_copies (q : Port) (p : Part) : CopiesChanged p (taskChooseSource q p).1 := by
  unfold taskChooseSource
  split
  · exact .refl p
  · split
    · exact abandonSource_copies q p
    · exact .same rfl rfl

theorem taskSelection_copies (q : Port) (p : Part) : CopiesChanged p (taskSelection q p).1 := by
  unfold taskSelection
  split
  · exact .same rfl rfl
  · exact (takeCompletion_copies q p).trans (leaveRunning_copies _ _ _)

/-- The end of an extent's last line removes the extent (R112, R128). -/
theorem nextCatchUpLine_copies (q : Port) (w : Window) (p : Part) : CopiesChanged p (nextCatchUpLine q w p).1 := by
  unfold nextCatchUpLine
  split
  · split <;> exact .same rfl rfl
  · exact .one (.removed ..)

theorem taskLineDone_copies (q : Port) (p : Part) : CopiesChanged p (taskLineDone q p).1 := by
  unfold taskLineDone
  split
  · exact .refl p
  · split
    · exact (releaseLineClaim_stores p).copies.trans (nextCatchUpLine_copies q _ _)
    · exact .refl p

theorem taskAfterSourceFailure_copies (t s : Port) (p : Part) : CopiesChanged p (taskAfterSourceFailure t s p).1 := by
  unfold taskAfterSourceFailure
  split
  · exact .refl p
  · split
    · split
      · exact .refl p
      · split
        · exact abandonSource_copies t p
        · exact .same rfl rfl
    · exact .refl p

/-! ## Compare lines -/

theorem taskCompareStart_copies (p : Part) : CopiesChanged p (taskCompareStart p).1 := by
  unfold taskCompareStart
  split
  · exact .refl p
  · dsimp only
    split
    · exact leaveRunning_copies _ _ p
    · exact .same rfl rfl

theorem postMismatch_copies (d : PortSet) (r : RegionIx) (a : UpAddr) (p : Part) : CopiesChanged p (postMismatch d r a p) := by
  unfold postMismatch
  split <;> exact .same rfl rfl

theorem recordLine_copies (d : PortSet) (w : Window) (p : Part) : CopiesChanged p (recordLine d w p).1 := by
  have hcount : ∀ c r a, CopiesChanged p (setRunningCompare c (postMismatch d r a p)) := fun c r a =>
    (postMismatch_copies d r a p).trans (.same rfl rfl)
  unfold recordLine
  split
  · exact .refl p
  · dsimp only
    split
    · exact hcount _ _ _
    · exact (hcount _ _ _).trans (leaveRunning_copies _ _ _)

theorem compareLine_copies (w : Window) (p : Part) : CopiesChanged p (compareLine w p).1 := by
  unfold compareLine
  dsimp only
  split
  · exact .refl p
  · exact (releaseLineClaim_stores p).copies.trans (recordLine_copies _ w _)

theorem compareProgress_copies (p : Part) : CopiesChanged p (compareProgress p).1 := by
  unfold compareProgress
  split
  · exact .refl p
  · split
    · split
      · exact .refl p
      · exact compareLine_copies _ p
    · exact .refl p

/-! ## Outcomes of COPY transactions and write notices -/

theorem taskCloseCheck_copies (p : Part) : CopiesChanged p (taskCloseCheck p).1 := by
  unfold taskCloseCheck
  split
  · exact .refl p
  · split <;> exact .same rfl rfl

theorem taskCopyFailed_copies (part : CopyPart) (q : Port) (why : Reason) (p : Part) :
    CopiesChanged p (taskCopyFailed part q why p).1 := by
  unfold taskCopyFailed
  split
  · exact .refl p
  · dsimp only
    split
    · exact .refl p
    · split <;> exact .same rfl rfl

theorem sourceData_copies (t q : Port) (d : LineData) (w : Window) (p : Part) : CopiesChanged p (sourceData t q d w p).1 := by
  unfold sourceData
  split
  · exact .refl p
  · split
    · exact .same rfl rfl
    · split
      · exact .same rfl rfl
      · dsimp only
        split <;> exact .same rfl rfl

theorem takeCopyOutcome_copies (part : CopyPart) (q : Port) (result : TxnResult) (p : Part) :
    CopiesChanged p (takeCopyOutcome part q result p).1 := by
  have hok : ∀ d, CopiesChanged p (copyOk part q d p).1 := fun d => by
    unfold copyOk
    split
    · exact .refl p
    · split
      · exact .refl p
      · split
        · exact sourceData_copies _ q d _ p
        · exact .refl p
        · exact (compareProgress_copies _).after rfl rfl
        all_goals exact .refl p
  unfold takeCopyOutcome
  split
  · exact hok _
  all_goals exact .refl p

theorem taskClaimLost_copies (q : Port) (p : Part) : CopiesChanged p (taskClaimLost q p).1 := by
  unfold taskClaimLost
  split
  · exact .refl p
  · exact (withdrawClaimAt_stores q p).copies

theorem overtaken_copies (w : Window) (p : Part) : CopiesChanged p (overtaken w p).2 := by
  unfold overtaken
  dsimp only
  split <;> exact .same rfl rfl

theorem noticeReading_copies (t : Port) (full : Bool) (w : Window) (p : Part) : CopiesChanged p (noticeReading t full w p).1 := by
  unfold noticeReading
  split
  · exact .refl p
  · split
    · split
      · exact .same rfl rfl
      · exact (overtaken_copies w p).trans (.same rfl rfl)
    · split
      · exact (withdrawClaimAt_stores t p).copies.trans (.same rfl rfl)
      · exact (overtaken_copies w p).trans ((withdrawClaimAt_stores t _).copies.trans (.same rfl rfl))

theorem taskNotice_copies (line : UpAddr) (full : Bool) (p : Part) : CopiesChanged p (taskNotice line full p).1 := by
  unfold taskNotice
  split
  · exact .refl p
  · split
    · split
      · exact noticeReading_copies _ full _ p
      · exact (overtaken_copies _ p).trans (.same rfl rfl)
    · exact .refl p

/-! ## Events -/

/-- No work of an event does anything else to memberships and lists. -/
theorem runTask_copies (t : Task) (p : Part) : CopiesChanged p (runTask t p).1 := by
  cases t with
  | leave line => exact taskLeave_copies line p
  | immediateFailure tag q => exact taskImmediateFailure_copies tag q p
  | fixTargets tag => exact taskFixTargets_copies tag p
  | giveBack q => exact taskGiveBack_copies q p
  | serveLost => exact taskServeLost_copies p
  | redirect tag q why => exact taskRedirect_copies tag q why p
  | afterShrink tag => exact taskAfterShrink_copies tag p
  | afterWriteFailure tag q => exact taskAfterWriteFailure_copies tag q p
  | report r q why line => exact taskReport_copies r q why line p
  | drainCheck r => exact taskDrainCheck_copies r p
  | headStart => exact taskHeadStart_copies p
  | selection q => exact taskSelection_copies q p
  | chooseSource q => exact taskChooseSource_copies q p
  | lineDone q => exact taskLineDone_copies q p
  | afterSourceFailure t s => exact taskAfterSourceFailure_copies t s p
  | compareStart => exact taskCompareStart_copies p
  | afterCompareFailure => exact compareProgress_copies p
  | closeCheck => exact taskCloseCheck_copies p
  | claimLost q => exact taskClaimLost_copies q p
  | copyFailed part q why => exact taskCopyFailed_copies part q why p
  | notice line full => exact taskNotice_copies line full p
  | posting b => exact .same rfl rfl

theorem CopiesChanged.settle {p : Part} {a : Act} (h : CopiesChanged p a.1) : CopiesChanged p (settle a) :=
  h.trans (runAgenda_keeps CopiesChanged.refl (fun _ _ _ => CopiesChanged.trans) runTask_copies _ _ _)

end Sys2Proof.Machine
end

section
/-! SUPPORT. What every command does to memberships and divergence lists: before and beside its works, changes of the same kinds. -/

namespace Sys2Proof.Machine

/-! ## Links -/

theorem postAll_copies (bs : List EventBody) (p : Part) : CopiesChanged p (postAll bs p) := by
  rw [postAll_eq_posts]
  exact .same rfl rfl

theorem loseLink_copies (q : Port) (dest : Link) (why : Reason) (bs : List EventBody) (p : Part) :
    CopiesChanged p (loseLink q dest why bs p) := .settle ((postAll_copies bs (dropLink q dest why p)).after rfl rfl)

theorem enterActive_copies (q : Port) (p : Part) : CopiesChanged p (enterActive q p) := by
  rw [enterActive_eq]
  exact .same rfl rfl

theorem deviceReady_copies (q : Port) (p : Part) : CopiesChanged p (deviceReady q p) := by
  unfold deviceReady
  split
  · exact (enterActive_copies q p).trans (.same rfl rfl)
  · exact enterActive_copies q p
  all_goals exact .refl p

theorem trainingExpiry_copies (q : Port) (p : Part) : CopiesChanged p (trainingExpiry q p) := by
  unfold trainingExpiry
  split
  · exact (loseLink_copies ..).after rfl rfl
  · exact .refl p

theorem silenceExpiry_copies (q : Port) (p : Part) : CopiesChanged p (silenceExpiry q p) := by
  unfold silenceExpiry
  dsimp only
  split <;> exact .same rfl rfl

theorem wakeExpiry_copies (q : Port) (p : Part) : CopiesChanged p (wakeExpiry q p) := by
  unfold wakeExpiry
  split
  · exact (loseLink_copies ..).after rfl rfl
  · exact .refl p

theorem linkError_copies (q : Port) (p : Part) : CopiesChanged p (linkError q p) := by
  unfold linkError
  split
  · exact loseLink_copies ..
  · exact loseLink_copies ..
  · exact loseLink_copies ..
  all_goals exact .refl p

theorem responseExpiry_copies (q : Port) (p : Part) : CopiesChanged p (responseExpiry q p) := by
  unfold responseExpiry
  split
  · exact (loseLink_copies ..).after rfl rfl
  · exact .refl p

theorem deviceResponse_copies (q : Port) (k : SlotIx) (resp : DevResponse) (p : Part) :
    CopiesChanged p (deviceResponse q k resp p) := by
  unfold deviceResponse
  dsimp only
  split
  · exact .refl p
  · split
    · exact .refl p
    · split
      · exact .same rfl rfl
      · exact loseLink_copies ..

/-! ## Grants -/

theorem startWake_copies (q : Port) (p : Part) : CopiesChanged p (startWake q p) := by
  unfold startWake
  dsimp only
  split <;> exact .same rfl rfl

theorem grantEngine_copies (q : Port) (k : SlotIx) (c : Claim) (p : Part) : CopiesChanged p (grantEngine q k c p).1 := by
  have hawake : CopiesChanged p (clearPassOver q (startWake q p)) := (startWake_copies q p).trans (.same rfl rfl)
  exact hawake.trans ((placeTxn_copies ..).trans (.same rfl rfl))

theorem grantDispatcher_copies (q : Port) (k : SlotIx) (e : Entry) (p : Part) :
    CopiesChanged p (grantDispatcher q k e p).1 := by
  have hheld : CopiesChanged p (holdSlot q k e.tag (copyClaimAt p q).isSome (startWake q p)) :=
    (startWake_copies q p).trans (.same rfl rfl)
  unfold grantDispatcher
  dsimp only
  split
  · exact hheld.trans (placeIfComplete_copies e.tag _)
  · exact hheld.trans ((placeTxn_copies ..).trans (.same rfl rfl))

theorem grantAct_copies (q : Port) (k : SlotIx) (p : Part) : CopiesChanged p (grantAct q k p).1 := by
  unfold grantAct
  split
  · exact .refl p
  · split
    · split
      · exact grantEngine_copies q k _ p
      · exact .refl p
    · split
      · exact grantDispatcher_copies q k _ p
      · exact .refl p

/-! ## Host channel and owners -/

theorem takeRequest_copies (tag : Tag) (op : Op) (line : UpAddr) (p : Part) : CopiesChanged p (takeRequest tag op line p) := by
  unfold takeRequest
  split
  · exact .refl p
  · split
    · exact .same rfl rfl
    · split
      · split
        · exact .settle (.core (fun r => core_raiseInFlight _ r (p.setTable _)) rfl)
        · exact .same rfl rfl
      · exact .same rfl rfl

theorem dropWaiting_copies (p : Part) (e : Entry) : CopiesChanged p (dropWaiting p e) := by
  have hback : CopiesChanged p (releaseHeld e.tag p) := .foldl (fun p q => by
    unfold releaseHeldAt
    dsimp only
    split <;> exact .same rfl rfl) _ p
  exact hback.trans (freeEntry_copies e _)

theorem hostReset_copies (p : Part) : CopiesChanged p (hostReset p) := by
  have hfreed := CopiesChanged.foldl dropWaiting_copies (p.table.filter unplaced) p
  exact .settle (hfreed.trans (.same rfl rfl))

theorem assertHrst_copies (p : Part) : CopiesChanged p (assertHrst p) := by
  unfold assertHrst
  split
  · exact .refl p
  · split
    · exact .same rfl rfl
    · exact (hostReset_copies _).after rfl rfl

theorem hostOutcome_copies (q : Port) (p : Part) : CopiesChanged p (hostOutcome q p) := by
  unfold hostOutcome
  split
  · split
    · exact .settle ((takeHostOutcome_copies ..).after rfl rfl)
    · exact .refl p
  · exact .refl p

theorem copyOutcome_copies (q : Port) (p : Part) : CopiesChanged p (copyOutcome q p) := by
  unfold copyOutcome
  split
  · split
    · exact .settle ((takeCopyOutcome_copies ..).after rfl rfl)
    · exact .refl p
  · exact .refl p

theorem linkLossWorks_copies (q : Port) (why : Reason) (p : Part) : CopiesChanged p (linkLossWorks q why p).1 := by
  have htaken := takeLinkLoss_copies q why p
  unfold linkLossWorks
  split
  · exact htaken.trans (leaveCatchUp_copies q _ _)
  · dsimp only
    exact htaken

theorem linkLossClaim_copies (q : Port) (p : Part) : CopiesChanged p (linkLossClaim q p) := by
  unfold linkLossClaim
  split
  · exact .settle ((linkLossWorks_copies ..).after rfl rfl)
  · exact .refl p

/-! ## Commands on regions -/

/-- The command does nothing else to memberships and lists. -/
def Command.ChangesCopies (run : Command) : Prop := ∀ p, CopiesChanged p (run p).1

/-- A command that only answers. -/
theorem Command.ChangesCopies.of_fst {run : Command} (h : ∀ p, (run p).1 = p) : run.ChangesCopies := fun p => by
  rw [h p]
  exact .refl p

theorem cmdRegionStage_copies (x : StageRecord) : (cmdRegionStage x).ChangesCopies := fun p => by
  unfold cmdRegionStage
  split
  · exact .refl p
  · split
    · exact .refl p
    · split
      · exact .refl p
      · next hu =>
        split
        · exact .one (.entered _ (by simpa using hu))
        · exact .refl p

/-- A commit inserts the whole region for copies out of service: all but the primary with COPY, none with TRUST (R32, R33). -/
theorem isStale_of_stalePorts {r : RegionIx} {init : Init} {primary : Byte} {p : Part} {q : Port}
    (h : q ∈ stalePorts (committed p (p.region r) init primary)) : isStale (mstate (madeLive r init primary p) r q) := by
  cases init with
  | copy => exact (mem_stalePorts r primary p q).mp h
  | trust =>
    obtain ⟨-, hany⟩ := List.mem_filter.mp h
    obtain ⟨m, hm, hq⟩ := List.any_eq_true.mp hany
    obtain ⟨m', -, rfl⟩ := List.mem_map.mp hm
    cases hmode : (p.region r).mode <;> simp [hmode, firstState] at hq

theorem mstate_insertRun (q : Port) (x : Run) (p : Part) (r : RegionIx) (q' : Port) :
    mstate (insertRun q x p) r q' = mstate p r q' := by
  rw [insertRun_eq]
  rfl

theorem foldl_insertRegion_copies {r : RegionIx} (l : List Port) {p : Part} (h : ∀ q ∈ l, isStale (mstate p r q)) :
    CopiesChanged p (l.foldl (fun p q => insertRegion r q p) p) := by
  induction l generalizing p with
  | nil => exact .refl p
  | cons q qs ih =>
    obtain ⟨hq, hqs⟩ := List.forall_mem_cons.mp h
    refine (CopiesChanged.one (.inserted (x := wholeRun r p) hq)).trans (ih fun q' hq' => ?_)
    exact (mstate_insertRun q (wholeRun r p) p r q').symm ▸ hqs q' hq'

theorem requestCatchUp_copies (q : Port) (p : Part) : CopiesChanged p (requestCatchUp q p) := by
  unfold requestCatchUp
  split
  · exact .refl p
  · exact .same rfl rfl

/-- A commit that passes its checks makes an entry that was not in use LIVE, and inserts for its stale copies (R30, R33, R34). -/
theorem commitRegion_copies {r : RegionIx} {init : Init} {primary : Byte} {p : Part}
    (h : commitPasses p (p.region r) init primary) : CopiesChanged p (commitRegion r init primary p) := by
  have hunused : inUse (p.region r) = false := by simp [inUse, h.1]
  have hlive : CopiesChanged p (madeLive r init primary p) := .one (.entered _ hunused)
  have hinserted := foldl_insertRegion_copies (r := r) (stalePorts (committed p (p.region r) init primary))
    (p := madeLive r init primary p) fun q => isStale_of_stalePorts
  have hrequested := CopiesChanged.foldl (f := fun p q => requestCatchUp q p) (fun p q => requestCatchUp_copies q p)
  exact hlive.trans (.settle (hinserted.trans ((hrequested _ _).after rfl rfl)))

theorem cmdRegionCommit_copies (region init primary reserved : Byte) :
    (cmdRegionCommit region init primary reserved).ChangesCopies := fun p => by
  unfold cmdRegionCommit
  split
  · exact .refl p
  · split
    · split
      · exact .refl p
      · next hc => exact commitRegion_copies ((commitRefusal_none ..).mp hc)
    · exact .refl p

theorem mstate_retiringNow {r : RegionIx} {p : Part} (h : (p.region r).state = .live) (r' : RegionIx) (q : Port) :
    mstate (retiringNow r p) r' q = mstate p r' q := by
  by_cases hr : r' = r
  · subst hr
    simp [mstate, retiringNow, memberAt, inUse, h]
  · exact mstate_setRegion_ne p _ hr q

theorem retireRegion_copies {r : RegionIx} {p : Part} (h : (p.region r).state = .live) : CopiesChanged p (retireRegion r p) := by
  have hretiring : CopiesChanged p (retiringNow r p) := .one (.stands (mstate_retiringNow h) rfl)
  have hends : CopiesChanged (retiringNow r p) (endComparesOf r (retiringNow r p)).1 := by
    unfold endComparesOf
    split
    · split
      · exact (endRunning_stores ..).copies
      · exact .refl _
    · exact .refl _
  exact .settle (hretiring.trans (hends.trans ((postAll_copies _ _).trans (.same rfl rfl))))

theorem cmdRegionRetire_copies (region reserved : Byte) : (cmdRegionRetire region reserved).ChangesCopies := fun p => by
  unfold cmdRegionRetire
  split
  · exact .refl p
  · split
    · exact .refl p
    · split
      · exact .refl p
      · next hl => exact retireRegion_copies (by simpa using hl)

/-! ## Commands on memberships -/

theorem detachPort_copies (q : Port) (p : Part) : CopiesChanged p (detachPort q p) := by
  have hdetached := CopiesChanged.foldl (detachAt_copies q) allRegions p
  exact .settle (hdetached.trans (leaveCatchUp_copies q none _))

theorem rejoinPort_copies (q : Port) (p : Part) : CopiesChanged p (rejoinPort q p) := by
  have hrejoined := CopiesChanged.foldl (rejoinAt_copies q) allRegions p
  have hrequested := hrejoined.trans (requestCatchUp_copies q _)
  unfold rejoinPort
  refine .settle ?_
  dsimp only
  exact hrequested

theorem cmdDetach_copies (port reserved : Byte) : (cmdDetach port reserved).ChangesCopies := fun p => by
  unfold cmdDetach
  split
  · exact .refl p
  · next q _ =>
    split
    · exact .refl p
    · rw [done_fst]
      exact detachPort_copies q p

theorem cmdRejoin_copies (port reserved : Byte) : (cmdRejoin port reserved).ChangesCopies := fun p => by
  unfold cmdRejoin
  split
  · exact .refl p
  · next q _ =>
    split
    · rw [done_fst]
      exact rejoinPort_copies q p
    · exact .refl p

/-! ## The other management commands -/

theorem cmdPortEnable_copies (port reserved : Byte) : (cmdPortEnable port reserved).ChangesCopies := fun p => by
  unfold cmdPortEnable
  split
  · exact .refl p
  · split <;> exact .same rfl rfl

theorem disablePort_copies (q : Port) (p : Part) : CopiesChanged p (disablePort q p) := by
  unfold disablePort
  split
  · exact .refl p
  · exact (loseLink_copies ..).after rfl rfl

theorem cmdPortDisable_copies (port reserved : Byte) : (cmdPortDisable port reserved).ChangesCopies := fun p => by
  unfold cmdPortDisable
  split
  · exact .refl p
  · split
    · exact .refl p
    · split
      · exact .refl p
      · exact disablePort_copies _ p

theorem cmdPortSetup_copies (port timeout silence weight : Byte) :
    (cmdPortSetup port timeout silence weight).ChangesCopies := fun p => by
  unfold cmdPortSetup
  split
  · exact .refl p
  · split <;> exact .same rfl rfl

theorem cmdCompare_copies (region : Byte) (first count : BitVec 24) : (cmdCompare region first count).ChangesCopies := fun p => by
  unfold cmdCompare
  split
  · exact .refl p
  · split
    · exact .refl p
    · split
      · exact .refl p
      · dsimp only
        exact .settle (.same rfl rfl)

theorem cancelJob_copies (i : Nat) (j : Job) (c : CompareJob) (p : Part) : CopiesChanged p (cancelJob i j c p) := by
  unfold cancelJob
  split
  · exact .settle (leaveRunning_copies _ _ p)
  · exact .settle (.same rfl rfl)

theorem cmdJobCancel_copies (position : Byte) : (cmdJobCancel position).ChangesCopies := fun p => by
  unfold cmdJobCancel
  split
  · exact .refl p
  · split
    · exact .refl p
    · exact cancelJob_copies _ _ _ p

theorem cmdEventFetch_copies (n : Byte) : (cmdEventFetch n).ChangesCopies := fun p => by
  unfold cmdEventFetch
  split <;> exact .same rfl rfl

theorem cmdFaultClear_copies (flags : BitVec 16) : (cmdFaultClear flags).ChangesCopies := fun p => by
  unfold cmdFaultClear
  split <;> exact .same rfl rfl

theorem cmdFaultMask_copies (flags : BitVec 16) : (cmdFaultMask flags).ChangesCopies := fun p => by
  unfold cmdFaultMask
  split <;> exact .same rfl rfl

theorem ownerCommand_copies (code : Byte) (d : List Byte) : (ownerCommand code d).ChangesCopies := by
  unfold ownerCommand
  split
  · exact .refl
  · exact .refl
  · exact fun p => .same rfl rfl
  · exact cmdRegionStage_copies _
  · exact cmdRegionCommit_copies _ _ _ _
  · exact cmdRegionRetire_copies _ _
  · exact .of_fst (cmdRegionRead_fst _ _)
  · exact cmdPortEnable_copies _ _
  · exact cmdPortDisable_copies _ _
  · exact cmdPortSetup_copies _ _ _ _
  · exact .of_fst (cmdPortRead_fst _)
  · exact cmdDetach_copies _ _
  · exact cmdRejoin_copies _ _
  · exact .of_fst (cmdDivergenceRead_fst _ _)
  · exact cmdCompare_copies _ _ _
  · exact .of_fst fun _ => rfl
  · exact cmdJobCancel_copies _
  · exact cmdEventFetch_copies _
  · exact cmdFaultClear_copies _
  · exact cmdFaultMask_copies _
  · exact .of_fst fun _ => rfl

theorem testedCommand_copies (code declared : Byte) (d : List Byte) : (testedCommand code declared d).ChangesCopies := by
  have hrefuse : ∀ st, (refuse st).ChangesCopies := fun _ => .of_fst fun _ => rfl
  unfold testedCommand
  split
  · exact hrefuse _
  · split
    · exact hrefuse _
    · split
      · exact hrefuse _
      · split
        · exact ownerCommand_copies code d
        · exact hrefuse _

theorem takeCommand_copies (seq code : Byte) {run : Command} (h : run.ChangesCopies) (p : Part) :
    CopiesChanged p (takeCommand seq code run p) := by
  unfold takeCommand
  split
  · exact .refl p
  · split
    · exact .same rfl rfl
    · exact (h p).trans (.same rfl rfl)

/-! ## The receiver -/

theorem takeFrame_copies (body : List Byte) (p : Part) : CopiesChanged p (takeFrame body p) := by
  unfold takeFrame
  split
  · exact .refl p
  · split
    · exact .refl p
    · split
      · exact .same rfl rfl
      · exact takeCommand_copies _ _ (testedCommand_copies _ _ _) p

theorem appendByte_copies (b : Byte) (p : Part) : CopiesChanged p (appendByte b p) := by
  unfold appendByte
  split <;> exact .same rfl rfl

theorem receive_copies (b : Byte) (p : Part) : CopiesChanged p (receive b p) := by
  unfold receive
  split
  · split <;> exact .same rfl rfl
  · split
    · exact .same rfl rfl
    · split
      · exact (takeFrame_copies _ _).after rfl rfl
      · split
        · exact .same rfl rfl
        · exact appendByte_copies b p
  · split
    · exact .same rfl rfl
    · split
      · exact appendByte_copies _ p
      · exact .same rfl rfl

theorem mgmtCharacter_copies (b : Byte) (stopHigh : Bool) (p : Part) : CopiesChanged p (mgmtCharacter b stopHigh p) := by
  unfold mgmtCharacter
  split
  · exact receive_copies b p
  · exact .same rfl rfl

theorem replySent_copies (p : Part) : CopiesChanged p (replySent p) := by
  unfold replySent
  split <;> exact .same rfl rfl

/-! ## Commands and steps -/

theorem onPart_copies {f : Part → Part} {s t : State} (hf : ∀ p, CopiesChanged p (f p)) (h : onPart f s = .next t) :
    CopiesChanged s.part t.part := by
  unfold onPart at h
  obtain rfl := Host.Outcome.next.inj h
  dsimp only
  split
  · exact .refl _
  · exact hf _

theorem onFrame_copies {seq code : Byte} {run : Command} {s t : State} (hr : run.ChangesCopies)
    (h : onFrame seq code run s = .next t) : CopiesChanged s.part t.part := onPart_copies (takeCommand_copies seq code hr) h

theorem exec_copies {c : Instr} {s t : State} (h : exec c s = .next t) : CopiesChanged s.part t.part := by
  cases c with
  | admission tag op line => exact onPart_copies (takeRequest_copies tag op line) h
  | grant q k => exact onPart_copies (fun p => .settle (grantAct_copies q k p)) h
  | hostOutcome q => exact onPart_copies (hostOutcome_copies q) h
  | hrstNAssert => obtain rfl := Host.Outcome.next.inj h; exact assertHrst_copies _
  | hrstNDeassert => obtain rfl := Host.Outcome.next.inj h; exact .same rfl rfl
  | porstNAssert => obtain rfl := Host.Outcome.next.inj h; exact .one (.emptied fun q => divList_abandoned ..)
  | porstNDeassert bootsz mbaud =>
    obtain rfl := Host.Outcome.next.inj h
    dsimp only [releasePorst]
    split
    · exact .one (.emptied fun q => divList_powerOn ..)
    · exact .refl _
  | deviceReady q => exact onPart_copies (deviceReady_copies q) h
  | trainingTimerExpiry q => exact onPart_copies (trainingExpiry_copies q) h
  | silenceTimerExpiry q => exact onPart_copies (silenceExpiry_copies q) h
  | wakeTimerExpiry q => exact onPart_copies (wakeExpiry_copies q) h
  | linkError q => exact onPart_copies (linkError_copies q) h
  | deviceResponse q k resp => exact onPart_copies (deviceResponse_copies q k resp) h
  | responseTimerExpiry q => exact onPart_copies (responseExpiry_copies q) h
  | linkLossClaim q => exact onPart_copies (linkLossClaim_copies q) h
  | copyOutcome q => exact onPart_copies (copyOutcome_copies q) h
  | mgmtCharacter b stopHigh => exact onPart_copies (mgmtCharacter_copies b stopHigh) h
  | replySent => exact onPart_copies replySent_copies h
  | ident seq => exact onFrame_copies (.of_fst fun _ => rfl) h
  | status seq => exact onFrame_copies (.of_fst fun _ => rfl) h
  | setKey seq key => exact onFrame_copies (run := cmdSetKey key) (fun p => .same rfl rfl) h
  | regionStage seq x => exact onFrame_copies (cmdRegionStage_copies x) h
  | regionCommit seq region init primary reserved => exact onFrame_copies (cmdRegionCommit_copies region init primary reserved) h
  | regionRetire seq region reserved => exact onFrame_copies (cmdRegionRetire_copies region reserved) h
  | regionRead seq region reserved => exact onFrame_copies (.of_fst (cmdRegionRead_fst region reserved)) h
  | portEnable seq port reserved => exact onFrame_copies (cmdPortEnable_copies port reserved) h
  | portDisable seq port reserved => exact onFrame_copies (cmdPortDisable_copies port reserved) h
  | portSetup seq port timeout silence weight => exact onFrame_copies (cmdPortSetup_copies port timeout silence weight) h
  | portRead seq port => exact onFrame_copies (.of_fst (cmdPortRead_fst port)) h
  | detach seq port reserved => exact onFrame_copies (cmdDetach_copies port reserved) h
  | rejoin seq port reserved => exact onFrame_copies (cmdRejoin_copies port reserved) h
  | divergenceRead seq port start => exact onFrame_copies (.of_fst (cmdDivergenceRead_fst port start)) h
  | compare seq region first count => exact onFrame_copies (cmdCompare_copies region first count) h
  | jobRead seq => exact onFrame_copies (.of_fst fun _ => rfl) h
  | jobCancel seq position => exact onFrame_copies (cmdJobCancel_copies position) h
  | eventFetch seq n => exact onFrame_copies (cmdEventFetch_copies n) h
  | faultClear seq flags => exact onFrame_copies (cmdFaultClear_copies flags) h
  | faultMask seq flags => exact onFrame_copies (cmdFaultMask_copies flags) h

/-- A step does nothing else to memberships and divergence lists. -/
theorem step_copies {s t : State} (h : step s = .next t) : CopiesChanged s.part t.part := by
  unfold step at h
  split at h
  · next rest _ => exact exec_copies (s := { s with pending := rest }) h
  · obtain rfl := Host.Outcome.next.inj h
    exact .same rfl rfl

end Sys2Proof.Machine
end

section
/-! SUPPORT. Each divergence list keeps its shape, and its runs stand for copies out of service (R103, R104, R115). -/

namespace Sys2Proof.Machine

/-! ## The lists after one change -/

theorem divList_of_lists {p p' : Part} (h : p'.lists = p.lists) (q : Port) : p'.divList q = p.divList q := by
  simp only [Part.divList, h]

/-- A drained region's runs are purged from each list (R115). -/
theorem divList_retired (r : RegionIx) (p : Part) (q : Port) :
    (p.retired r).divList q = (p.divList q).filter (fun x => x.region != r) := by
  simp [Part.retired, Part.divList]

theorem divList_insertRun (q : Port) (x : Run) (p : Part) (q' : Port) :
    (insertRun q x p).divList q' = if q' = q then insertedRuns x (p.divList q) else p.divList q' := by
  rw [insertRun_eq, divList_posts, divList_setDivList]

theorem divList_removeExtent (q : Port) (r : RegionIx) (e : Nat) (p : Part) (q' : Port) :
    (removeExtent q r e p).divList q' = if q' = q then removeFromList r e (p.divList q) else p.divList q' :=
  divList_setDivList p q q' _

/-! ## Lists in order (R103) -/

theorem listSound_filter {l : List Run} (f : Run → Bool) (h : listSound l) : listSound (l.filter f) :=
  ⟨(List.length_filter_le f l).trans h.1, h.2.filter f⟩

theorem CopyChange.allListsSound {p p' : Part} (h : CopyChange p p') (hp : allListsSound p) : allListsSound p' := by
  cases h with
  | stands _ hl => exact fun q => divList_of_lists hl q ▸ hp q
  | keptOut => exact hp
  | completed => exact hp
  | entered => exact hp
  | retired r => exact fun q => divList_retired r p q ▸ listSound_filter _ (hp q)
  | @inserted q x =>
    intro q'
    rw [divList_insertRun]
    split
    · exact insertedRuns_sound x (hp q)
    · exact hp q'
  | removed q r e =>
    intro q'
    rw [divList_removeExtent]
    split
    · exact removeFromList_sound r e (hp q)
    · exact hp q'
  | emptied h => exact fun q => h q ▸ ⟨Nat.zero_le _, .nil⟩

/-! ## Runs of copies out of service (R104) -/

/-- A change leaves each copy with runs out of service, and brings runs of such copies only. -/
theorem CopyChange.runsAreStale {p p' : Part} (h : CopyChange p p') (hp : runsAreStale p) : runsAreStale p' := by
  cases h with
  | stands hm hl =>
    intro q x hx
    rw [hm]
    exact hp q x (divList_of_lists hl q ▸ hx)
  | @keptOut st r q _ hst =>
    intro q' x hx
    have hold := hp q' x hx
    by_cases hc : x.region = r ∧ q' = q
    · obtain ⟨rfl, rfl⟩ := hc
      obtain ⟨old, hold⟩ := Option.isSome_iff_exists.mp ((isStale_iff _).mp hold).1
      rwa [mstate_setMState_of hold, if_pos ⟨rfl, rfl⟩]
    · rwa [mstate_setMState, if_neg hc]
  | @completed r q _ hrun =>
    intro q' x hx
    have hc : ¬ (x.region = r ∧ q' = q) := by
      rintro ⟨rfl, rfl⟩
      exact List.any_eq_false.mp hrun x hx (beq_self_eq_true _)
    rw [mstate_setMState, if_neg hc]
    exact hp q' x hx
  | @entered r _ y hunused =>
    intro q x hx
    have hold := hp q x hx
    have hr : x.region ≠ r := by
      rintro rfl
      rw [mstate_of_not_inUse hunused] at hold
      simp [isStale] at hold
    rwa [mstate_setRegion_ne p y hr]
  | retired r =>
    intro q x hx
    rw [divList_retired] at hx
    obtain ⟨hx, hr⟩ := List.mem_filter.mp hx
    rw [mstate_retired, if_neg (by simpa using hr)]
    exact hp q x hx
  | @inserted q x _ hst =>
    intro q' y hy
    rw [mstate_insertRun]
    rw [divList_insertRun] at hy
    split at hy
    · next hq =>
      subst hq
      obtain hr | ⟨z, hz, hr⟩ := region_insertedRuns hy
      · exact hr ▸ hst
      · exact hr ▸ hp q' z hz
    · exact hp q' y hy
  | removed q r e =>
    intro q' y hy
    rw [divList_removeExtent] at hy
    show isStale (mstate p y.region q')
    split at hy
    · next hq =>
      subst hq
      obtain ⟨z, hz, hr, -⟩ := mem_removeFromList hy
      exact hr ▸ hp q' z hz
    · exact hp q' y hy
  | emptied h =>
    intro q x hx
    rw [h] at hx
    simp at hx

/-! ## Every step -/

/-- What each change of memberships and lists keeps, all of them together keep. -/
theorem CopiesChanged.inv {I : Part → Prop} (hI : ∀ {p p'}, CopyChange p p' → I p → I p') {p p' : Part}
    (h : CopiesChanged p p') (hp : I p) : I p' := by
  induction h with
  | refl => exact hp
  | tail _ hc ih => exact hI hc ih

/-- Settles O55: insertions and removals keep a list's shape, and nothing else but a purge touches it. -/
theorem listsSoundKept : Obligations.ListsSoundKept := fun _ _ hs h =>
  (step_copies h).inv CopyChange.allListsSound hs

/-- Settles O56: an insertion is for a copy out of service, and a copy enters service only where its port's list holds no run of its
region. -/
theorem runsAreStaleKept : Obligations.RunsAreStaleKept := fun _ _ hs h =>
  (step_copies h).inv CopyChange.runsAreStale hs

end Sys2Proof.Machine
end

section
/-! SUPPORT. What the works of an event do to the queues: the jobs, the event records and the replies (R118, R150, R157). -/

namespace Sys2Proof.Machine

/-! ## Records and replies -/

/-- From `p` to `p'` the event queue stays within its bound, and no reply is added. -/
structure RecordsKept (p p' : Part) : Prop where
  records : p.events.queue.length ≤ Config.eventCapacity → p'.events.queue.length ≤ Config.eventCapacity
  replies : p'.mgmt.replies.length ≤ p.mgmt.replies.length

namespace RecordsKept

theorem trans {a b c : Part} (h : RecordsKept a b) (h' : RecordsKept b c) : RecordsKept a c :=
  ⟨fun hr => h'.records (h.records hr), h'.replies.trans h.replies⟩

/-- Records are posted, and nothing else happens to events and replies. -/
theorem posted {p p' : Part} (bs : List EventBody) (he : p'.events = bs.foldl postTo p.events) (hm : p'.mgmt = p.mgmt) :
    RecordsKept p p' where
  records hr := by
    rw [he]
    clear he
    induction bs generalizing p with
    | nil => exact hr
    | cons b bs ih => exact ih (p := post b p) hm ((postTo_keeps p.events b).1.mpr hr)
  replies := by rw [hm]

theorem same {p p' : Part} (he : p'.events = p.events) (hm : p'.mgmt = p.mgmt) : RecordsKept p p' := posted [] he hm

theorem post (b : EventBody) (p : Part) : RecordsKept p (post b p) := posted [b] rfl rfl

theorem foldl {α : Type} {f : Part → α → Part} (h : ∀ p x, RecordsKept p (f p x)) :
    ∀ (l : List α) (p : Part), RecordsKept p (l.foldl f p)
  | [], _ => same rfl rfl
  | x :: xs, p => (h p x).trans (foldl h xs (f p x))

end RecordsKept

theorem takeOutRejoining_records (q : Port) (why : Reason) (p : Part) : RecordsKept p (takeOutRejoining q why p) :=
  .posted _ (events_takeOutRejoining q why p) (by rw [takeOutRejoining_only q why p])

theorem takeLinkLoss_records (q : Port) (why : Reason) (p : Part) : RecordsKept p (takeLinkLoss q why p) :=
  .posted _ (takeLinkLoss_spec q why p).1 (by rw [takeLinkLoss_only q why p])

theorem takeReport_records (r : RegionIx) (q : Port) (why : Reason) (line : Option UpAddr) (p : Part) :
    RecordsKept p (takeReport r q why line p) := by
  unfold takeReport
  split
  · split
    · exact .posted [_] rfl rfl
    · exact .post _ p
  · exact takeOutRejoining_records q why p
  all_goals exact .same rfl rfl

theorem takeCompletion_records (q : Port) (p : Part) : RecordsKept p (takeCompletion q p) := by
  refine .foldl (fun p r => ?_) _ p
  unfold completeAt
  split
  · split
    · exact .same rfl rfl
    · exact .posted [_] rfl rfl
  · exact .same rfl rfl

theorem insertRun_records (q : Port) (x : Run) (p : Part) : RecordsKept p (insertRun q x p) := by
  rw [insertRun_eq]
  exact .posted _ rfl rfl

/-! ## Jobs -/

/-- The targets of the catch-up jobs, in queue order (R118). -/
def Part.targets (p : Part) : List Port := p.jobs.filterMap jobTarget

theorem jobTarget_eq_some (j : Job) (q : Port) : jobTarget j = some q ↔ isCatchUp q j = true := by
  unfold jobTarget isCatchUp
  cases j.kind <;> simp

theorem any_isCatchUp (p : Part) (q : Port) : p.jobs.any (isCatchUp q) = decide (q ∈ p.targets) := by
  refine Bool.eq_iff_iff.mpr ?_
  simp only [Part.targets, List.any_eq_true, decide_eq_true_eq, List.mem_filterMap, jobTarget_eq_some]

theorem catchUpJobsExact_iff (p : Part) : catchUpJobsExact p ↔ ∀ q, q ∈ p.targets ↔ hasRejoining p q = true := by
  refine forall_congr' fun q => ?_
  rw [any_isCatchUp, Bool.eq_iff_iff, decide_eq_true_eq]

/-- Jobs with a test that only catch-up jobs can fail, by their target. -/
theorem filterMap_jobTarget_filter {f : Job → Bool} {g : Port → Bool} (h : ∀ j q, jobTarget j = some q → f j = g q)
    (l : List Job) : (l.filter f).filterMap jobTarget = (l.filterMap jobTarget).filter g := by
  rw [List.filterMap_filter, List.filter_filterMap]
  refine List.filterMap_congr fun j _ => ?_
  cases hj : jobTarget j with
  | none => simp
  | some q => by_cases hg : g q = true <;> simp [h j q hj, hg, Option.filter]

theorem targets_jobsWithout (q : Port) (p : Part) : (jobsWithout q p).filterMap jobTarget = p.targets.filter (fun x => x != q) :=
  filterMap_jobTarget_filter (fun j x hj => by
    by_cases hx : x = q
    · simp [hx, (jobTarget_eq_some j q).mp (hx ▸ hj)]
    · have : isCatchUp q j ≠ true := fun hc => hx (Option.some.inj (hj.symm.trans ((jobTarget_eq_some j q).mpr hc)))
      simp [hx, this]) p.jobs

theorem countP_isCompare_filter (f : Job → Bool) (l : List Job) : (l.filter f).countP isCompare ≤ l.countP isCompare :=
  List.Sublist.countP_le List.filter_sublist

/-! ## Bounds and exactness -/

/-- From `p` to `p'` the queues stay within their bounds, and the catch-up jobs are for the ports with a REJOINING copy
(R118, R150, R157). -/
structure QueuesKeep (p p' : Part) : Prop extends RecordsKept p p' where
  jobs : jobsSound p → jobsSound p'
  catchUps : catchUpJobsExact p → catchUpJobsExact p'

namespace QueuesKeep

theorem trans {a b c : Part} (h : QueuesKeep a b) (h' : QueuesKeep b c) : QueuesKeep a c :=
  ⟨h.toRecordsKept.trans h'.toRecordsKept, fun hj => h'.jobs (h.jobs hj), fun he => h'.catchUps (h.catchUps he)⟩

/-- The catch-up jobs for some ports leave with the ports' REJOINING copies; compare jobs may leave too. -/
theorem narrow {p p' : Part} (f : Port → Bool) (ht : p'.targets = p.targets.filter f)
    (hc : p'.jobs.countP isCompare ≤ p.jobs.countP isCompare) (hm : ∀ q, hasRejoining p' q = (hasRejoining p q && f q))
    (hr : RecordsKept p p') : QueuesKeep p p' where
  toRecordsKept := hr
  jobs h := ⟨(congrArg List.Nodup ht).mpr (h.1.filter f), hc.trans h.2⟩
  catchUps h := by
    rw [catchUpJobsExact_iff] at h ⊢
    intro q
    rw [ht, List.mem_filter, h q, hm, Bool.and_eq_true]

/-- Catch-up jobs and REJOINING copies stand; compare jobs may leave. -/
theorem stand {p p' : Part} (ht : p'.targets = p.targets) (hc : p'.jobs.countP isCompare ≤ p.jobs.countP isCompare)
    (hm : ∀ r q, mstate p' r q = some .rejoining ↔ mstate p r q = some .rejoining) (hr : RecordsKept p p') : QueuesKeep p p' :=
  .narrow (fun _ => true) (by simp [ht]) hc
    (fun q => by rw [Bool.and_true, Bool.eq_iff_iff, hasRejoining_iff, hasRejoining_iff]; exact exists_congr fun r => hm r q) hr

/-- Regions stand but for counts and pointers, and so do jobs, events and the management port. -/
theorem core {p p' : Part} (hr : ∀ r, (p'.region r).core = (p.region r).core) (hj : p'.jobs = p.jobs)
    (he : p'.events = p.events) (hm : p'.mgmt = p.mgmt) : QueuesKeep p p' :=
  .stand (by rw [Part.targets, hj]; rfl) (by rw [hj]) (fun r q => by rw [mstate_of_core (hr r)]) (.same he hm)

/-- Jobs, regions, events and the management port stand. -/
theorem same {p p' : Part} (h : p' = { p' with jobs := p.jobs, regions := p.regions, events := p.events, mgmt := p.mgmt }) :
    QueuesKeep p p' :=
  .core (fun r => by rw [h]; rfl) (by rw [h]) (by rw [h]) (by rw [h])

theorem refl (p : Part) : QueuesKeep p p := .same rfl

theorem post (b : EventBody) (p : Part) : QueuesKeep p (post b p) :=
  .stand rfl le_rfl (fun _ _ => Iff.rfl) (.post b p)

/-- What comes after a change beside the queues. -/
theorem after {p p' p'' : Part} (h : QueuesKeep p' p'')
    (hs : p' = { p' with jobs := p.jobs, regions := p.regions, events := p.events, mgmt := p.mgmt }) : QueuesKeep p p'' :=
  (same hs).trans h

/-- What comes before a change beside the queues. -/
theorem before {p p' p'' : Part} (h : QueuesKeep p p')
    (hs : p'' = { p'' with jobs := p'.jobs, regions := p'.regions, events := p'.events, mgmt := p'.mgmt }) : QueuesKeep p p'' :=
  h.trans (same hs)

theorem foldl {α : Type} {f : Part → α → Part} (h : ∀ p x, QueuesKeep p (f p x)) :
    ∀ (l : List α) (p : Part), QueuesKeep p (l.foldl f p)
  | [], p => .refl p
  | x :: xs, p => (h p x).trans (foldl h xs (f p x))

end QueuesKeep

/-! ## Jobs that leave (R120) -/

/-- No copy of the port is left in the rebuild, and every other REJOINING copy stands; regions and events alone change. -/
structure RebuildOver (q : Port) (p p' : Part) : Prop where
  only : RegionsOnly p p'
  records : RecordsKept p p'
  rejoining : ∀ r x, mstate p' r x = some .rejoining ↔ mstate p r x = some .rejoining ∧ x ≠ q

theorem takeOutRejoining_over (q : Port) (why : Reason) (p : Part) : RebuildOver q p (takeOutRejoining q why p) where
  only := takeOutRejoining_only q why p
  records := takeOutRejoining_records q why p
  rejoining r x := by
    rw [mstate_takeOutRejoining]
    by_cases hx : x = q
    · subst hx
      by_cases hm : mstate p r x = some .rejoining <;> simp [hm]
    · simp [hx]

theorem takeCompletion_over (q : Port) (p : Part) : RebuildOver q p (takeCompletion q p) where
  only := takeCompletion_only q p
  records := takeCompletion_records q p
  rejoining r x := by
    rw [mstate_takeCompletion, completedState]
    by_cases hx : x = q
    · subst hx
      by_cases hm : mstate p r x = some .rejoining
      · by_cases hr : hasRunOf p x r = true <;> simp [hm, hr]
      · simp [hm]
    · simp [hx]

theorem takeLinkLoss_over (q : Port) (why : Reason) (p : Part) : RebuildOver q p (takeLinkLoss q why p) where
  only := takeLinkLoss_only q why p
  records := takeLinkLoss_records q why p
  rejoining r x := by
    rw [(takeLinkLoss_spec q why p).2]
    by_cases hx : x = q
    · subst hx
      by_cases hm : mstate p r x = some .rejoining
      · simp [leavesOnLoss, hm]
      · by_cases hl : leavesOnLoss p r x <;> simp [hl, hm]
    · simp [hx]

/-- The copies of a port leave the rebuild, and its catch-up job the queue. -/
theorem RebuildOver.jobLeft {q : Port} {p p1 p' : Part} (h : RebuildOver q p p1) (hj : p'.jobs = jobsWithout q p)
    (hs : Stores p1 p') (hr : RecordsKept p1 p') : QueuesKeep p p' :=
  .narrow (fun x => x != q) (by rw [Part.targets, hj, targets_jobsWithout])
    (by rw [hj]; exact countP_isCompare_filter _ _)
    (fun x => by
      rw [Bool.eq_iff_iff, Bool.and_eq_true, hasRejoining_iff, hasRejoining_iff, bne_iff_ne, ← exists_and_right]
      exact exists_congr fun r => by rw [hs.mstate, h.rejoining])
    (h.records.trans hr)

/-- Where the port has no copy in the rebuild none leaves it. -/
theorem RebuildOver.none {q : Port} {p p' : Part} (h : RebuildOver q p p') (hn : ∀ r, mstate p r q ≠ some .rejoining) :
    QueuesKeep p p' :=
  .stand (by rw [Part.targets, h.only.jobs]; rfl) (by rw [h.only.jobs])
    (fun r x => (h.rejoining r x).trans (and_iff_left_of_imp fun hm hx => hn r (hx ▸ hm))) h.records

theorem jobs_leaveRunning (rest : List Job) (ev : Option EventBody) (p : Part) : (leaveRunning rest ev p).1.jobs = rest := rfl

theorem leaveRunning_records (rest : List Job) (ev : Option EventBody) (p : Part) : RecordsKept p (leaveRunning rest ev p).1 := by
  rw [leaveRunning_eq]
  refine .posted ev.toList rfl ?_
  show (withdrawClaims p).mgmt = p.mgmt
  rw [(withdrawClaims_only p).part]

theorem leaveRunning_stores (rest : List Job) (ev : Option EventBody) (p : Part) : Stores p (leaveRunning rest ev p).1 :=
  endRunning_stores rest ev p

/-- A job of the port waits or runs, or none is there: afterwards none is (R120). -/
theorem leaveCatchUp_left (q : Port) (ev : Option EventBody) (p : Part) :
    (leaveCatchUp q ev p).1.jobs = jobsWithout q p ∧ Stores p (leaveCatchUp q ev p).1 ∧ RecordsKept p (leaveCatchUp q ev p).1 := by
  unfold leaveCatchUp
  split
  · next hf =>
    have hall : ∀ j ∈ p.jobs, (!isCatchUp q j) = true := fun j hj => by simpa using List.find?_eq_none.mp hf j hj
    exact ⟨(List.filter_eq_self.mpr hall).symm, .refl p, .same rfl rfl⟩
  · split
    · exact ⟨rfl, leaveRunning_stores _ ev p, leaveRunning_records _ ev p⟩
    · cases ev with
      | none => exact ⟨rfl, ⟨rfl, rfl, rfl⟩, .same rfl rfl⟩
      | some b => exact ⟨rfl, ⟨rfl, rfl, rfl⟩, .posted [b] rfl rfl⟩

/-- The copies of a port leave the rebuild, and its catch-up job is withdrawn or abandoned (R66, R68, R70). -/
theorem RebuildOver.leaveCatchUp {q : Port} {p p1 : Part} (h : RebuildOver q p p1) (ev : Option EventBody) :
    QueuesKeep p (leaveCatchUp q ev p1).1 := by
  obtain ⟨hj, hs, hr⟩ := leaveCatchUp_left q ev p1
  exact h.jobLeft (by rw [hj, jobsWithout, h.only.jobs]; rfl) hs hr

/-- The copies of a port leave the rebuild, and its running job ends (R129, R130). -/
theorem RebuildOver.leaveRunning {q : Port} {p p1 : Part} (h : RebuildOver q p p1) (ev : Option EventBody) :
    QueuesKeep p (leaveRunning (jobsWithout q p) ev p1).1 :=
  h.jobLeft (jobs_leaveRunning ..) (leaveRunning_stores ..) (leaveRunning_records ..)

/-- Compare jobs leave the queue, and nothing happens to the copies (R136). -/
theorem compareLeft {p p' : Part} (ht : p'.targets = p.targets) (hc : p'.jobs.countP isCompare ≤ p.jobs.countP isCompare)
    (hs : p'.regions = p.regions) (hr : RecordsKept p p') : QueuesKeep p p' :=
  .stand ht hc (fun r q => by rw [mstate_of_core (p := p) (by simp only [Part.region, hs])]) hr

/-- The running compare job leaves (R120, R136). -/
theorem leaveRunning_compare {p : Part} {c : CompareJob} (h : runningCompare p = some c) (ev : Option EventBody) :
    QueuesKeep p (leaveRunning p.jobs.tail ev p).1 := by
  obtain ⟨js, hj⟩ := runningCompare_head h
  refine compareLeft ?_ ?_ (leaveRunning_stores ..).regions (leaveRunning_records ..)
  · rw [Part.targets, jobs_leaveRunning, Part.targets, hj]
    rfl
  · rw [jobs_leaveRunning, hj]
    exact List.Sublist.countP_le (List.tail_sublist _)

end Sys2Proof.Machine
end

section
/-! SUPPORT. Every work of an event keeps the queues within their bounds, and the catch-up jobs to the ports with a REJOINING copy. -/

namespace Sys2Proof.Machine

/-! ## Entries -/

theorem freeEntry_queues (e : Entry) (p : Part) : QueuesKeep p (freeEntry e p).1 :=
  .core (fun r => core_lowerInFlight e.region r (removeEntry e.tag p)) rfl rfl rfl

theorem completeEntry_queues (e : Entry) (st : RespStatus) (p : Part) : QueuesKeep p (completeEntry e st p).1 :=
  (freeEntry_queues e _).after rfl

theorem finishEntry_queues (e : Entry) (st : RespStatus) (p : Part) : QueuesKeep p (finishEntry e st p).1 := by
  unfold finishEntry
  split
  · exact freeEntry_queues e p
  · exact completeEntry_queues e st p

theorem finishWrite_queues (tag : Tag) (p : Part) : QueuesKeep p (finishWrite tag p).1 := by
  unfold finishWrite
  split
  · exact .refl p
  · split
    · exact finishEntry_queues _ _ p
    · exact .refl p

theorem enterWaitingSlot_queues (e : Entry) (t : PortSet) (p : Part) : QueuesKeep p (enterWaitingSlot e t p).1 := .same rfl

/-- A read's choice moves the ALTERNATE pointer at most (R49). -/
theorem chooseRead_queues {p p' : Part} {e : Entry} {q : Port} (h : chooseRead p e = some (q, p')) : QueuesKeep p p' := by
  have hcore := core_chooseRead h
  unfold chooseRead at h
  dsimp only at h
  split at h
  · simp at h
  · obtain ⟨-, rfl⟩ := Prod.mk.inj (Option.some.inj h)
    refine .core hcore ?_ ?_ ?_ <;> split <;> rfl

theorem chooseDirect_queues (e : Entry) (p : Part) : QueuesKeep p (chooseDirect e p).1 := by
  unfold chooseDirect
  split
  · split
    · exact completeEntry_queues e _ p
    · exact enterWaitingSlot_queues e _ p
  · exact completeEntry_queues e _ p

theorem chooseFirst_queues (e : Entry) (p : Part) : QueuesKeep p (chooseFirst e p).1 := by
  unfold chooseFirst
  split
  · exact chooseDirect_queues e p
  · split
    · split
      · next hc => exact (chooseRead_queues hc).trans (enterWaitingSlot_queues e _ _)
      · exact completeEntry_queues e _ p
    · exact .refl p

theorem taskLeave_queues (line : UpAddr) (p : Part) : QueuesKeep p (taskLeave line p).1 := by
  unfold taskLeave
  split
  · exact .refl p
  · exact chooseFirst_queues _ p

theorem taskImmediateFailure_queues (tag : Tag) (q : Port) (p : Part) : QueuesKeep p (taskImmediateFailure tag q p).1 := by
  unfold taskImmediateFailure
  split
  · exact .refl p
  · dsimp only
    split <;> exact .same rfl

theorem taskFixTargets_queues (tag : Tag) (p : Part) : QueuesKeep p (taskFixTargets tag p).1 := by
  unfold taskFixTargets
  split
  · exact .refl p
  · dsimp only
    split
    · exact .refl p
    · split
      · exact completeEntry_queues _ _ p
      · exact enterWaitingSlot_queues _ _ p

theorem taskRedirect_queues (tag : Tag) (q : Port) (why : Reason) (p : Part) : QueuesKeep p (taskRedirect tag q why p).1 := by
  unfold taskRedirect
  split
  · exact .refl p
  · split
    · exact freeEntry_queues _ p
    · split
      · exact .refl p
      · split
        · next hc => exact ((chooseRead_queues hc).before rfl).trans (.post _ _)
        · exact completeEntry_queues _ _ p

/-! ## Slots, placement and lost ports -/

theorem taskGiveBack_queues (q : Port) (p : Part) : QueuesKeep p (taskGiveBack q p).1 := by
  unfold taskGiveBack
  split
  · exact .refl p
  · split <;> exact .same rfl

theorem placeTxn_queues (q : Port) (k : SlotIx) (o : Origin) (op : Op) (a : DownAddr) (p : Part) :
    QueuesKeep p (placeTxn q k o op a p) := by
  rw [placeTxn_eq]
  exact .same rfl

theorem insertRun_queues (q : Port) (x : Run) (p : Part) : QueuesKeep p (insertRun q x p) :=
  .stand (by rw [insertRun_eq]; rfl) (by rw [insertRun_eq]; exact le_rfl) (fun r q' => by rw [mstate_insertRun])
    (insertRun_records q x p)

theorem insertIfOut_queues (e : Entry) (p : Part) (q : Port) : QueuesKeep p (insertIfOut e p q) := by
  unfold insertIfOut
  split
  · exact insertRun_queues q _ p
  · exact .refl p

/-- A report at a copy that is not REJOINING leaves the rebuilds alone (R64, R65, R67). -/
theorem takeReport_queues {r : RegionIx} {q : Port} (why : Reason) (line : Option UpAddr) {p : Part}
    (h : mstate p r q ≠ some .rejoining) : QueuesKeep p (takeReport r q why line p) := by
  have honly := takeReport_only r q why line p
  refine .stand (by rw [Part.targets, honly.jobs]; rfl) (by rw [honly.jobs]) (fun r' q' => ?_) (takeReport_records ..)
  unfold takeReport
  split
  · next hm =>
    split
    · rw [mstate_ejectMember why hm]
      split
      · next hc => simp [hc.1, hc.2, hm]
      · exact Iff.rfl
    · exact Iff.rfl
  · next hm => exact absurd hm h
  all_goals exact Iff.rfl

theorem placeMirror_queues (e : Entry) (p : Part) : QueuesKeep p (placeMirror e p).1 := by
  have hplace : ∀ p q, QueuesKeep p (placeAt e p q) := fun p q => by
    unfold placeAt
    split
    · exact placeTxn_queues ..
    · exact .refl p
  have hreport : ∀ p q, QueuesKeep p (placementReport e p q) := fun p q => by
    unfold placementReport
    split
    · next hc =>
      have hm : mstate p e.region q = some .inService := by simp_all
      exact takeReport_queues _ _ (by simp [hm])
    · exact .refl p
  have hentry : ∀ f p, QueuesKeep p (updateEntry e.tag f p) := fun _ _ => .same rfl
  rw [placeMirror_eq]
  exact (QueuesKeep.foldl hplace _ p).trans ((hentry _ _).trans ((QueuesKeep.foldl hreport _ _).trans
    ((QueuesKeep.foldl (insertIfOut_queues e) _ _).trans (hentry _ _))))

theorem placeIfComplete_queues (tag : Tag) (p : Part) : QueuesKeep p (placeIfComplete tag p).1 := by
  unfold placeIfComplete
  split
  · exact .refl p
  · split
    · exact placeMirror_queues _ p
    · exact .refl p

theorem endWait_queues (e : Entry) (q : Port) (p : Part) : QueuesKeep p (endWait e q p).1 := by
  unfold endWait
  split
  · exact (completeEntry_queues e _ _).after rfl
  · split <;> exact .same rfl

theorem taskServeLost_queues (p : Part) : QueuesKeep p (taskServeLost p).1 := by
  unfold taskServeLost
  split
  · exact .refl p
  · split
    · exact endWait_queues _ _ p
    · exact .refl p

theorem taskAfterShrink_queues (tag : Tag) (p : Part) : QueuesKeep p (taskAfterShrink tag p).1 := by
  unfold taskAfterShrink
  split
  · exact .refl p
  · split
    · exact .refl p
    · split
      · exact completeEntry_queues _ _ p
      · exact placeIfComplete_queues tag p

/-! ## Outcomes -/

theorem taskAfterWriteFailure_queues (tag : Tag) (q : Port) (p : Part) : QueuesKeep p (taskAfterWriteFailure tag q p).1 := by
  unfold taskAfterWriteFailure
  split
  · exact .refl p
  · exact (insertIfOut_queues _ p q).trans (finishWrite_queues tag _)

theorem hostOk_queues (e : Entry) (q : Port) (data : Option LineData) (p : Part) : QueuesKeep p (hostOk e q data p).1 := by
  unfold hostOk
  dsimp only
  generalize ({ e with ack := addPort e.ack q, readData := if e.kind == .read then data else e.readData } : Entry) = e'
  split
  · exact (finishWrite_queues _ _).after rfl
  · exact (finishEntry_queues _ _ _).after rfl

theorem hostFailed_queues (e : Entry) (q : Port) (why : Reason) (p : Part) : QueuesKeep p (hostFailed e q why p).1 := by
  unfold hostFailed
  dsimp only
  split
  · exact (finishEntry_queues _ _ _).after rfl
  · exact .same rfl

theorem takeHostOutcome_queues (tag : Tag) (q : Port) (result : TxnResult) (p : Part) :
    QueuesKeep p (takeHostOutcome tag q result p).1 := by
  unfold takeHostOutcome
  split
  · exact .refl p
  · split
    · split
      · exact hostOk_queues _ q _ p
      all_goals exact hostFailed_queues _ q _ p
    · exact .refl p

/-! ## Jobs -/

/-- A report that finds a REJOINING copy takes the port's copies out of the rebuild and its job out of the queue (R63, R66). -/
theorem taskReport_queues (r : RegionIx) (q : Port) (why : Reason) (line : Option UpAddr) (p : Part) :
    QueuesKeep p (taskReport r q why line p).1 := by
  unfold taskReport
  split
  · next hm =>
    rw [takeReport_rejoining why line (by simpa using hm)]
    exact (takeOutRejoining_over q why p).leaveCatchUp _
  · next hm => exact takeReport_queues why line (by simpa using hm)

theorem targets_cons (j : Job) (js : List Job) : (j :: js).filterMap jobTarget = (jobTarget j).toList ++ js.filterMap jobTarget := by
  cases h : jobTarget j <;> simp [h]

theorem taskHeadStart_queues (p : Part) : QueuesKeep p (taskHeadStart p).1 := by
  unfold taskHeadStart
  split
  · next j js hj _ =>
    split
    · exact .refl p
    · have hstarted : QueuesKeep p { p with jobs := { j with started := true } :: js } := by
        refine .stand ?_ ?_ (fun _ _ => Iff.rfl) (.same rfl rfl)
        · rw [Part.targets, Part.targets, hj, targets_cons, targets_cons]
          rfl
        · rw [hj, List.countP_cons, List.countP_cons]
          exact le_rfl
      dsimp only
      split
      · exact hstarted.trans (.post _ _)
      · exact hstarted
  all_goals exact .refl p

/-- A drain takes the memberships of the region and the jobs of the ports that have no REJOINING copy left (R38). -/
theorem taskDrainCheck_queues (r : RegionIx) (p : Part) : QueuesKeep p (taskDrainCheck r p).1 := by
  by_cases hd : drained p r = true
  · rw [taskDrainCheck_drained r p hd]
    have hrest : ∀ q, hasRejoining (p.retired r) q = allRegions.any (fun r' => r' != r && mstate p r' q == some .rejoining) :=
      fun q => by
        unfold hasRejoining
        congr 1
        funext r'
        rw [mstate_retired]
        by_cases hr : r' = r <;> simp [hr]
    refine .narrow (hasRejoining (p.retired r)) ?_ (countP_isCompare_filter _ _) (fun q => ?_) (.posted [_] rfl rfl)
    · refine filterMap_jobTarget_filter (fun j q hj => ?_) p.jobs
      rw [hrest]
      unfold jobTarget at hj
      split at hj
      · obtain rfl := Option.some.inj hj
        simp_all
      · simp at hj
    · rw [Bool.eq_iff_iff, Bool.and_eq_true, hasRejoining_iff, hasRejoining_iff]
      refine ⟨fun ⟨r', hr'⟩ => ⟨⟨r', ?_⟩, r', hr'⟩, fun h => h.2⟩
      rw [mstate_retired] at hr'
      split at hr'
      · simp at hr'
      · exact hr'
  · rw [taskDrainCheck_kept r p (by simpa using hd)]
    exact .refl p

/-! ## Catch-up lines -/

theorem abandonSource_queues (q : Port) (p : Part) : QueuesKeep p (abandonSource q p).1 :=
  (takeOutRejoining_over q _ p).leaveRunning _

theorem taskChooseSource_queues (q : Port) (p : Part) : QueuesKeep p (taskChooseSource q p).1 := by
  unfold taskChooseSource
  split
  · exact .refl p
  · split
    · exact abandonSource_queues q p
    · exact .same rfl

theorem taskSelection_queues (q : Port) (p : Part) : QueuesKeep p (taskSelection q p).1 := by
  unfold taskSelection
  split
  · exact .same rfl
  · exact (takeCompletion_over q p).leaveRunning _

theorem releaseLineClaim_queues (p : Part) : QueuesKeep p (releaseLineClaim p).1 := by
  rw [releaseLineClaim_fst]
  exact .same rfl

theorem nextCatchUpLine_queues (q : Port) (w : Window) (p : Part) : QueuesKeep p (nextCatchUpLine q w p).1 := by
  unfold nextCatchUpLine
  split
  · split <;> exact .same rfl
  · exact .same rfl

theorem taskLineDone_queues (q : Port) (p : Part) : QueuesKeep p (taskLineDone q p).1 := by
  unfold taskLineDone
  split
  · exact .refl p
  · split
    · exact (releaseLineClaim_queues p).trans (nextCatchUpLine_queues q _ _)
    · exact .refl p

theorem taskAfterSourceFailure_queues (t s : Port) (p : Part) : QueuesKeep p (taskAfterSourceFailure t s p).1 := by
  unfold taskAfterSourceFailure
  split
  · exact .refl p
  · split
    · split
      · exact .refl p
      · split
        · exact abandonSource_queues t p
        · exact .same rfl
    · exact .refl p

/-! ## Compare lines -/

theorem taskCompareStart_queues (p : Part) : QueuesKeep p (taskCompareStart p).1 := by
  unfold taskCompareStart
  split
  · exact .refl p
  · next hc =>
    dsimp only
    split
    · exact leaveRunning_compare hc _
    · exact .same rfl

theorem postMismatch_queues (d : PortSet) (r : RegionIx) (a : UpAddr) (p : Part) : QueuesKeep p (postMismatch d r a p) := by
  unfold postMismatch
  split
  · exact .refl p
  · exact .post _ p

theorem jobs_postMismatch (d : PortSet) (r : RegionIx) (a : UpAddr) (p : Part) : (postMismatch d r a p).jobs = p.jobs := by
  unfold postMismatch
  split <;> rfl

/-- The running compare job's fields change, and it stays a compare job. -/
theorem setRunningCompare_queues {p : Part} {c : CompareJob} (h : runningCompare p = some c) (c' : CompareJob) :
    QueuesKeep p (setRunningCompare c' p) ∧ runningCompare (setRunningCompare c' p) = some c' := by
  obtain ⟨js, hj⟩ := runningCompare_head h
  have hset : setRunningCompare c' p = { p with jobs := { kind := .compare c', started := true } :: js } := by
    simp only [setRunningCompare, hj]
  rw [hset]
  refine ⟨compareLeft ?_ ?_ rfl (.same rfl rfl), rfl⟩
  · rw [Part.targets, Part.targets, hj]
    rfl
  · rw [hj]
    exact le_rfl

theorem recordLine_queues (d : PortSet) (w : Window) (p : Part) : QueuesKeep p (recordLine d w p).1 := by
  unfold recordLine
  split
  · exact .refl p
  · next c hc =>
    have hrunning : runningCompare (postMismatch d c.region w.addr p) = some c := by
      rw [runningCompare_congr (jobs_postMismatch d c.region w.addr p), hc]
    have hcount := fun c' => setRunningCompare_queues hrunning c'
    have hposted := postMismatch_queues d c.region w.addr p
    dsimp only
    split
    · exact hposted.trans (hcount _).1
    · exact hposted.trans ((hcount _).1.trans (leaveRunning_compare (hcount _).2 _))

theorem compareLine_queues (w : Window) (p : Part) : QueuesKeep p (compareLine w p).1 := by
  unfold compareLine
  dsimp only
  split
  · exact .refl p
  · exact (releaseLineClaim_queues p).trans (recordLine_queues _ w _)

theorem compareProgress_queues (p : Part) : QueuesKeep p (compareProgress p).1 := by
  unfold compareProgress
  split
  · exact .refl p
  · split
    · split
      · exact .refl p
      · exact compareLine_queues _ p
    · exact .refl p

/-! ## Outcomes of COPY transactions and write notices -/

theorem taskCloseCheck_queues (p : Part) : QueuesKeep p (taskCloseCheck p).1 := by
  unfold taskCloseCheck
  split
  · exact .refl p
  · split <;> exact .same rfl

theorem taskCopyFailed_queues (part : CopyPart) (q : Port) (why : Reason) (p : Part) :
    QueuesKeep p (taskCopyFailed part q why p).1 := by
  unfold taskCopyFailed
  split
  · exact .refl p
  · dsimp only
    split
    · exact .refl p
    · split <;> exact .same rfl

theorem sourceData_queues (t q : Port) (d : LineData) (w : Window) (p : Part) : QueuesKeep p (sourceData t q d w p).1 := by
  unfold sourceData
  split
  · exact .refl p
  · split
    · exact .same rfl
    · split
      · exact .same rfl
      · dsimp only
        split <;> exact .same rfl

theorem takeCopyOutcome_queues (part : CopyPart) (q : Port) (result : TxnResult) (p : Part) :
    QueuesKeep p (takeCopyOutcome part q result p).1 := by
  have hok : ∀ d, QueuesKeep p (copyOk part q d p).1 := fun d => by
    unfold copyOk
    split
    · exact .refl p
    · split
      · exact .refl p
      · split
        · exact sourceData_queues _ q d _ p
        · exact .refl p
        · exact (compareProgress_queues _).after rfl
        all_goals exact .refl p
  unfold takeCopyOutcome
  split
  · exact hok _
  all_goals exact .refl p

theorem withdrawClaimAt_queues (q : Port) (p : Part) : QueuesKeep p (withdrawClaimAt q p) := by
  unfold withdrawClaimAt
  split
  · split <;> exact .same rfl
  · exact .refl p

theorem taskClaimLost_queues (q : Port) (p : Part) : QueuesKeep p (taskClaimLost q p).1 := by
  unfold taskClaimLost
  split
  · exact .refl p
  · exact withdrawClaimAt_queues q p

theorem overtaken_queues (w : Window) (p : Part) : QueuesKeep p (overtaken w p).2 := by
  unfold overtaken
  dsimp only
  split <;> exact .same rfl

theorem noticeReading_queues (t : Port) (full : Bool) (w : Window) (p : Part) : QueuesKeep p (noticeReading t full w p).1 := by
  unfold noticeReading
  split
  · exact .refl p
  · split
    · split
      · exact .same rfl
      · exact (overtaken_queues w p).before rfl
    · split
      · exact (withdrawClaimAt_queues t p).before rfl
      · exact (overtaken_queues w p).trans ((withdrawClaimAt_queues t _).before rfl)

theorem taskNotice_queues (line : UpAddr) (full : Bool) (p : Part) : QueuesKeep p (taskNotice line full p).1 := by
  unfold taskNotice
  split
  · exact .refl p
  · split
    · split
      · exact noticeReading_queues _ full _ p
      · exact (overtaken_queues _ p).before rfl
    · exact .refl p

/-! ## Events -/

theorem runTask_queues (t : Task) (p : Part) : QueuesKeep p (runTask t p).1 := by
  cases t with
  | leave line => exact taskLeave_queues line p
  | immediateFailure tag q => exact taskImmediateFailure_queues tag q p
  | fixTargets tag => exact taskFixTargets_queues tag p
  | giveBack q => exact taskGiveBack_queues q p
  | serveLost => exact taskServeLost_queues p
  | redirect tag q why => exact taskRedirect_queues tag q why p
  | afterShrink tag => exact taskAfterShrink_queues tag p
  | afterWriteFailure tag q => exact taskAfterWriteFailure_queues tag q p
  | report r q why line => exact taskReport_queues r q why line p
  | drainCheck r => exact taskDrainCheck_queues r p
  | headStart => exact taskHeadStart_queues p
  | selection q => exact taskSelection_queues q p
  | chooseSource q => exact taskChooseSource_queues q p
  | lineDone q => exact taskLineDone_queues q p
  | afterSourceFailure t s => exact taskAfterSourceFailure_queues t s p
  | compareStart => exact taskCompareStart_queues p
  | afterCompareFailure => exact compareProgress_queues p
  | closeCheck => exact taskCloseCheck_queues p
  | claimLost q => exact taskClaimLost_queues q p
  | copyFailed part q why => exact taskCopyFailed_queues part q why p
  | notice line full => exact taskNotice_queues line full p
  | posting b => exact .post b p

theorem QueuesKeep.settle {p : Part} {a : Act} (h : QueuesKeep p a.1) : QueuesKeep p (settle a) :=
  h.trans (runAgenda_keeps QueuesKeep.refl (fun _ _ _ => QueuesKeep.trans) runTask_queues _ _ _)

end Sys2Proof.Machine
end

section
/-! SUPPORT. Every command keeps the queues within their bounds, and the catch-up jobs to the ports with a REJOINING copy. -/

namespace Sys2Proof.Machine

/-! ## Links -/

theorem postAll_queues (bs : List EventBody) (p : Part) : QueuesKeep p (postAll bs p) := by
  rw [postAll_eq_posts]
  exact .stand rfl le_rfl (fun _ _ => Iff.rfl) (.posted bs rfl rfl)

theorem loseLink_queues (q : Port) (dest : Link) (why : Reason) (bs : List EventBody) (p : Part) :
    QueuesKeep p (loseLink q dest why bs p) := .settle ((postAll_queues bs (dropLink q dest why p)).after rfl)

theorem loseLink_queues_at (q : Port) (dest : Link) (why : Reason) (bs : List EventBody) (t : Nat) (p : Part) :
    QueuesKeep p (loseLink q dest why bs (reachTime t p)) := (loseLink_queues q dest why bs _).after rfl

theorem enterActive_queues (q : Port) (p : Part) : QueuesKeep p (enterActive q p) := by
  rw [enterActive_eq]
  exact .same rfl

theorem deviceReady_queues (q : Port) (p : Part) : QueuesKeep p (deviceReady q p) := by
  unfold deviceReady
  split
  · exact (enterActive_queues q p).trans (.post _ _)
  · exact enterActive_queues q p
  all_goals exact .refl p

theorem trainingExpiry_queues (q : Port) (p : Part) : QueuesKeep p (trainingExpiry q p) := by
  unfold trainingExpiry
  split
  · exact loseLink_queues_at ..
  · exact .refl p

theorem silenceExpiry_queues (q : Port) (p : Part) : QueuesKeep p (silenceExpiry q p) := by
  unfold silenceExpiry
  dsimp only
  split <;> exact .same rfl

theorem wakeExpiry_queues (q : Port) (p : Part) : QueuesKeep p (wakeExpiry q p) := by
  unfold wakeExpiry
  split
  · exact loseLink_queues_at ..
  · exact .refl p

theorem linkError_queues (q : Port) (p : Part) : QueuesKeep p (linkError q p) := by
  unfold linkError
  split
  · exact loseLink_queues ..
  · exact loseLink_queues ..
  · exact loseLink_queues ..
  all_goals exact .refl p

theorem responseExpiry_queues (q : Port) (p : Part) : QueuesKeep p (responseExpiry q p) := by
  unfold responseExpiry
  split
  · exact loseLink_queues_at ..
  · exact .refl p

theorem deviceResponse_queues (q : Port) (k : SlotIx) (resp : DevResponse) (p : Part) :
    QueuesKeep p (deviceResponse q k resp p) := by
  unfold deviceResponse
  dsimp only
  split
  · exact .refl p
  · split
    · exact .refl p
    · split
      · exact .same rfl
      · exact loseLink_queues ..

/-! ## Grants -/

theorem startWake_queues (q : Port) (p : Part) : QueuesKeep p (startWake q p) := by
  unfold startWake
  dsimp only
  split <;> exact .same rfl

theorem grantEngine_queues (q : Port) (k : SlotIx) (c : Claim) (p : Part) : QueuesKeep p (grantEngine q k c p).1 := by
  have hawake : QueuesKeep p (clearPassOver q (startWake q p)) := (startWake_queues q p).before rfl
  exact hawake.trans ((placeTxn_queues ..).before rfl)

theorem grantDispatcher_queues (q : Port) (k : SlotIx) (e : Entry) (p : Part) : QueuesKeep p (grantDispatcher q k e p).1 := by
  have hheld : QueuesKeep p (holdSlot q k e.tag (copyClaimAt p q).isSome (startWake q p)) := (startWake_queues q p).before rfl
  unfold grantDispatcher
  dsimp only
  split
  · exact hheld.trans (placeIfComplete_queues e.tag _)
  · exact hheld.trans ((placeTxn_queues ..).before rfl)

theorem grantAct_queues (q : Port) (k : SlotIx) (p : Part) : QueuesKeep p (grantAct q k p).1 := by
  unfold grantAct
  split
  · exact .refl p
  · split
    · split
      · exact grantEngine_queues q k _ p
      · exact .refl p
    · split
      · exact grantDispatcher_queues q k _ p
      · exact .refl p

/-! ## Host channel and owners -/

theorem takeRequest_queues (tag : Tag) (op : Op) (line : UpAddr) (p : Part) : QueuesKeep p (takeRequest tag op line p) := by
  have hunmapped : QueuesKeep p (answerUnmapped tag line p) := (QueuesKeep.post _ _).after rfl
  unfold takeRequest
  split
  · exact .refl p
  · split
    · exact .post _ p
    · split
      · split
        · exact .settle (.core (fun r => core_raiseInFlight _ r (p.setTable _)) rfl rfl rfl)
        · exact hunmapped
      · exact hunmapped

theorem dropWaiting_queues (p : Part) (e : Entry) : QueuesKeep p (dropWaiting p e) := by
  have hback : QueuesKeep p (releaseHeld e.tag p) := .foldl (fun p q => by
    unfold releaseHeldAt
    dsimp only
    split <;> exact .same rfl) _ p
  exact hback.trans (freeEntry_queues e _)

theorem hostReset_queues (p : Part) : QueuesKeep p (hostReset p) := by
  have hfreed := QueuesKeep.foldl dropWaiting_queues (p.table.filter unplaced) p
  exact .settle (hfreed.before rfl)

theorem assertHrst_queues (p : Part) : QueuesKeep p (assertHrst p) := by
  unfold assertHrst
  split
  · exact .refl p
  · split
    · exact .same rfl
    · exact (hostReset_queues _).after rfl

theorem hostOutcome_queues (q : Port) (p : Part) : QueuesKeep p (hostOutcome q p) := by
  unfold hostOutcome
  split
  · split
    · exact .settle ((takeHostOutcome_queues ..).after rfl)
    · exact .refl p
  · exact .refl p

theorem copyOutcome_queues (q : Port) (p : Part) : QueuesKeep p (copyOutcome q p) := by
  unfold copyOutcome
  split
  · split
    · exact .settle ((takeCopyOutcome_queues ..).after rfl)
    · exact .refl p
  · exact .refl p

theorem linkLossWorks_queues (q : Port) (why : Reason) (p : Part) : QueuesKeep p (linkLossWorks q why p).1 := by
  unfold linkLossWorks
  split
  · exact (takeLinkLoss_over q why p).leaveCatchUp _
  · next hn =>
    dsimp only
    exact (takeLinkLoss_over q why p).none fun r hr => hn ((hasRejoining_iff p q).mpr ⟨r, hr⟩)

theorem linkLossClaim_queues (q : Port) (p : Part) : QueuesKeep p (linkLossClaim q p) := by
  unfold linkLossClaim
  split
  · exact .settle ((linkLossWorks_queues ..).after rfl)
  · exact .refl p

/-! ## Jobs that are requested (R119) -/

theorem filterMap_waitingJobs (qs : List Port) : (waitingJobs qs).filterMap jobTarget = qs := by
  induction qs with
  | nil => rfl
  | cons q qs ih => exact congrArg (q :: ·) ih

/-- Copies of some ports enter the rebuild, and a catch-up job is requested for each of the ports (R33, R71, R119). -/
theorem QueuesKeep.requested {p p1 : Part} {qs : List Port} (hq : qs.Nodup) (hj : p1.jobs = p.jobs)
    (hm : ∀ q, hasRejoining p1 q = true ↔ hasRejoining p q = true ∨ q ∈ qs) (hr : RecordsKept p p1) :
    QueuesKeep p (qs.foldl (fun p q => requestCatchUp q p) p1) := by
  rw [foldl_requestCatchUp hq, hj]
  have hnew : ∀ q, q ∈ qs.filter (fun q => !p.jobs.any (isCatchUp q)) ↔ q ∈ qs ∧ q ∉ p.targets := fun q => by
    simp [any_isCatchUp]
  have ht : ({ p1 with jobs := p.jobs ++ waitingJobs (qs.filter (fun q => !p.jobs.any (isCatchUp q))) } : Part).targets =
      p.targets ++ qs.filter (fun q => !p.jobs.any (isCatchUp q)) := by
    simp only [Part.targets, List.filterMap_append, filterMap_waitingJobs]
  refine ⟨hr.trans (.same rfl rfl), fun h => ⟨?_, ?_⟩, fun h => ?_⟩
  · refine (congrArg List.Nodup ht).mpr (List.nodup_append'.mpr ⟨h.1, hq.filter _, fun q hq hq' => ?_⟩)
    exact ((hnew q).mp hq').2 hq
  · have hnone : (waitingJobs (qs.filter (fun q => !p.jobs.any (isCatchUp q)))).countP isCompare = 0 :=
      List.countP_eq_zero.mpr fun j hj => by
        obtain ⟨q, -, rfl⟩ := List.mem_map.mp hj
        simp [isCompare]
    dsimp only
    rw [List.countP_append, hnone]
    exact h.2
  · rw [catchUpJobsExact_iff] at h ⊢
    intro q
    rw [ht, List.mem_append, hnew, h q]
    refine Iff.trans ?_ (hm q).symm
    rw [← h q]
    tauto

/-! ## Commands on regions -/

/-- The command keeps the queues and the catch-up jobs. -/
def Command.KeepsQueues (run : Command) : Prop := ∀ p, QueuesKeep p (run p).1

/-- A command that only answers. -/
theorem Command.KeepsQueues.of_fst {run : Command} (h : ∀ p, (run p).1 = p) : run.KeepsQueues := fun p => by
  rw [h p]
  exact .refl p

/-- No membership of the staged entry has had a state, and none has one now (R24, R29). -/
theorem cmdRegionStage_queues (x : StageRecord) : (cmdRegionStage x).KeepsQueues := fun p => by
  unfold cmdRegionStage
  split
  · exact .refl p
  · next r _ =>
    split
    · exact .refl p
    · split
      · exact .refl p
      · next hu =>
        split
        · next y hy =>
          have hstaged : y.state = .staged := by
            unfold stagedRegion at hy
            split at hy
            · split at hy
              · rw [← Option.some.inj hy]
              · simp at hy
            · simp at hy
          refine .stand rfl le_rfl (fun r' q => ?_) (.same rfl rfl)
          show mstate (p.setRegion r y) r' q = _ ↔ _
          by_cases hr : r' = r
          · subst hr
            have hnow : inUse ((p.setRegion r' y).region r') = false := by simp [inUse, hstaged]
            rw [mstate_of_not_inUse hnow, mstate_of_not_inUse (by simpa using hu)]
          · rw [mstate_setRegion_ne p y hr]
        · exact .refl p

/-- The part of a commit with the entry LIVE and the runs over the whole region inserted (R33, R34). -/
def runsMade (r : RegionIx) (init : Init) (primary : Byte) (p : Part) : Part :=
  (stalePorts (committed p (p.region r) init primary)).foldl (fun p q => insertRegion r q p) (madeLive r init primary p)

/-- The ports for which a commit requests a catch-up job (R33). -/
def portsToRebuild (r : RegionIx) (init : Init) (primary : Byte) (p : Part) : List Port :=
  (stalePorts (committed p (p.region r) init primary)).filter (fun q => mstate (runsMade r init primary p) r q == some .rejoining)

theorem commitRegion_eq (r : RegionIx) (init : Init) (primary : Byte) (p : Part) : commitRegion r init primary p =
    settle ((portsToRebuild r init primary p).foldl (fun p q => requestCatchUp q p)
        (post { kind := .regionLive, region := some r } (runsMade r init primary p)),
      if (portsToRebuild r init primary p).isEmpty then [] else [.headStart]) := rfl

/-- The runs of a commit leave jobs and regions alone (R33). -/
theorem runsMade_stands (r : RegionIx) (init : Init) (primary : Byte) (p : Part) :
    (runsMade r init primary p).jobs = p.jobs ∧ (runsMade r init primary p).regions = (madeLive r init primary p).regions := by
  have key : ∀ (l : List Port) (p : Part), (l.foldl (fun p q => insertRegion r q p) p).jobs = p.jobs ∧
      (l.foldl (fun p q => insertRegion r q p) p).regions = p.regions := fun l => by
    induction l with
    | nil => exact fun _ => ⟨rfl, rfl⟩
    | cons q qs ih =>
      intro p
      obtain ⟨hj, hr⟩ := ih (insertRegion r q p)
      exact ⟨hj.trans (by rw [insertRegion, insertRun_eq]; rfl), hr.trans (regions_insertRun ..)⟩
  exact key _ _

theorem mstate_runsMade (r : RegionIx) (init : Init) (primary : Byte) (p : Part) (r' : RegionIx) (q : Port) :
    mstate (runsMade r init primary p) r' q = mstate (madeLive r init primary p) r' q :=
  mstate_of_core (by simp only [Part.region, (runsMade_stands r init primary p).2]) q

theorem runsMade_records (r : RegionIx) (init : Init) (primary : Byte) (p : Part) : RecordsKept p (runsMade r init primary p) := by
  have hlive : RecordsKept p (madeLive r init primary p) := .same rfl rfl
  exact hlive.trans (.foldl (f := fun p q => insertRegion r q p) (fun p q => insertRun_records q _ p) _ _)

/-- A REJOINING copy of the new entry is one of those to be written (R33). -/
theorem mem_stalePorts_of_rejoining {r : RegionIx} {init : Init} {primary : Byte} {p : Part} {q : Port}
    (h : mstate (madeLive r init primary p) r q = some .rejoining) : q ∈ stalePorts (committed p (p.region r) init primary) := by
  have hu : inUse (committed p (p.region r) init primary) = true := rfl
  simp only [mstate, madeLive, region_setRegion_self, hu, if_true] at h
  obtain ⟨m, hm, hs⟩ := Option.bind_eq_some_iff.mp h
  have hmem : m ∈ (committed p (p.region r) init primary).members := List.mem_of_find?_eq_some hm
  exact List.mem_filter.mpr ⟨mem_allPorts q, List.any_eq_true.mpr ⟨m, hmem, by simp [memberAt_port hm, hs]⟩⟩

/-- A commit brings copies of the new entry into the rebuild, each with a catch-up request for its port (R33, R34). -/
theorem commitRegion_queues {r : RegionIx} {init : Init} {primary : Byte} {p : Part}
    (h : commitPasses p (p.region r) init primary) : QueuesKeep p (commitRegion r init primary p) := by
  have hunused : inUse (p.region r) = false := by simp [inUse, h.1]
  have hother : ∀ r' q, r' ≠ r → mstate (madeLive r init primary p) r' q = mstate p r' q := fun r' q hr =>
    mstate_setRegion_ne p _ hr q
  rw [commitRegion_eq]
  refine .settle (.requested ((nodup_stalePorts _).filter _) (runsMade_stands r init primary p).1 (fun q => ?_)
    ((runsMade_records r init primary p).trans (.post _ _)))
  rw [hasRejoining_iff, hasRejoining_iff, portsToRebuild, List.mem_filter, beq_iff_eq]
  simp only [mstate_post, mstate_runsMade]
  constructor
  · rintro ⟨r', hr'⟩
    by_cases hr : r' = r
    · subst hr
      exact .inr ⟨mem_stalePorts_of_rejoining hr', hr'⟩
    · exact .inl ⟨r', hother r' q hr ▸ hr'⟩
  · rintro (⟨r', hr'⟩ | ⟨-, hq⟩)
    · have hr : r' ≠ r := by
        rintro rfl
        rw [mstate_of_not_inUse hunused] at hr'
        simp at hr'
      exact ⟨r', (hother r' q hr).trans hr'⟩
    · exact ⟨r, hq⟩

theorem cmdRegionCommit_queues (region init primary reserved : Byte) :
    (cmdRegionCommit region init primary reserved).KeepsQueues := fun p => by
  unfold cmdRegionCommit
  split
  · exact .refl p
  · split
    · split
      · exact .refl p
      · next hc => exact commitRegion_queues ((commitRefusal_none ..).mp hc)
    · exact .refl p

/-- The running compare job ends where it is on the region (R136). -/
theorem endComparesOf_queues (r : RegionIx) (p : Part) : QueuesKeep p (endComparesOf r p).1 := by
  unfold endComparesOf
  split
  · next hc =>
    split
    · exact leaveRunning_compare hc _
    · exact .refl p
  · exact .refl p

/-- The queued compare jobs on the region end (R136). -/
theorem endQueuedCompares_queues (r : RegionIx) (p : Part) : QueuesKeep p (endQueuedCompares r p) := by
  rw [endQueuedCompares_eq, ← jobsElsewhere_eq]
  refine compareLeft ?_ (countP_isCompare_filter _ _) rfl (.posted _ rfl rfl)
  refine (filterMap_jobTarget_filter (g := fun _ => true) (fun j q hj => ?_) p.jobs).trans (by simp [Part.targets])
  unfold jobTarget at hj
  unfold isCompareOf
  split at hj
  · next hk => simp [hk]
  · simp at hj

theorem retireRegion_queues {r : RegionIx} {p : Part} (h : (p.region r).state = .live) : QueuesKeep p (retireRegion r p) := by
  have hretiring : QueuesKeep p (retiringNow r p) :=
    .stand rfl le_rfl (fun r' q => by rw [mstate_retiringNow h]) (.same rfl rfl)
  exact .settle (hretiring.trans ((endComparesOf_queues r _).trans (endQueuedCompares_queues r _)))

theorem cmdRegionRetire_queues (region reserved : Byte) : (cmdRegionRetire region reserved).KeepsQueues := fun p => by
  unfold cmdRegionRetire
  split
  · exact .refl p
  · split
    · exact .refl p
    · split
      · exact .refl p
      · next hl => exact retireRegion_queues (by simpa using hl)

/-! ## DETACH and REJOIN -/

theorem mstate_detached (q : Port) (p : Part) (r : RegionIx) (x : Port) : mstate (allRegions.foldl (detachAt q) p) r x =
    if x = q ∧ (mstate p r q = some .inService ∨ mstate p r q = some .rejoining) then some .detached else mstate p r x := by
  refine ((foldl_byRegion (f := detachAt q)
    (next := fun p r x => if x = q ∧ (mstate p r q = some .inService ∨ mstate p r q = some .rejoining)
      then some .detached else mstate p r x)
    (record := fun _ _ => none) (fun p r r' x => ?_) (fun p r => ?_) (fun p p' r h => ⟨rfl, fun x => by simp only [h]⟩)
    allRegions nodup_allRegions p).2 r x).trans (if_pos (mem_allRegions r))
  · unfold detachAt
    split
    · next hm =>
      have hm : mstate p r q = some .inService ∨ mstate p r q = some .rejoining := by simpa using hm
      obtain ⟨st, hst⟩ : ∃ st, mstate p r q = some st := hm.elim (fun h => ⟨_, h⟩) fun h => ⟨_, h⟩
      rw [mstate_setMState_of hst]
      by_cases hr : r' = r <;> simp [hr, hm]
    · next hm =>
      have hm : ¬ (mstate p r q = some .inService ∨ mstate p r q = some .rejoining) := by simpa using hm
      by_cases hr : r' = r <;> simp [hr, hm]
  · unfold detachAt
    split <;> rfl

theorem detach_over (q : Port) (p : Part) : RebuildOver q p (allRegions.foldl (detachAt q) p) where
  only := .foldl (fun p r => by unfold detachAt; split <;> exact rfl) _ p
  records := .foldl (fun p r => by unfold detachAt; split <;> exact .same rfl rfl) _ p
  rejoining r x := by
    rw [mstate_detached]
    by_cases hx : x = q
    · subst hx
      by_cases hm : mstate p r x = some .rejoining
      · simp [hm]
      · by_cases hi : mstate p r x = some .inService <;> simp [hm, hi]
    · simp [hx]

theorem detachPort_queues (q : Port) (p : Part) : QueuesKeep p (detachPort q p) := .settle ((detach_over q p).leaveCatchUp none)

theorem cmdDetach_queues (port reserved : Byte) : (cmdDetach port reserved).KeepsQueues := fun p => by
  unfold cmdDetach
  split
  · exact .refl p
  · split
    · exact .refl p
    · rw [done_fst]
      exact detachPort_queues _ p

theorem mstate_rejoined (q : Port) (p : Part) (r : RegionIx) (x : Port) : mstate (allRegions.foldl (rejoinAt q) p) r x =
    if x = q ∧ (mstate p r q = some .faulted ∨ mstate p r q = some .detached) then some .rejoining else mstate p r x := by
  refine ((foldl_byRegion (f := rejoinAt q)
    (next := fun p r x => if x = q ∧ (mstate p r q = some .faulted ∨ mstate p r q = some .detached)
      then some .rejoining else mstate p r x)
    (record := fun _ _ => none) (fun p r r' x => ?_) (fun p r => ?_) (fun p p' r h => ⟨rfl, fun x => by simp only [h]⟩)
    allRegions nodup_allRegions p).2 r x).trans (if_pos (mem_allRegions r))
  · unfold rejoinAt
    split
    · next hm =>
      have hm : mstate p r q = some .faulted ∨ mstate p r q = some .detached := by simpa using hm
      obtain ⟨st, hst⟩ : ∃ st, mstate p r q = some st := hm.elim (fun h => ⟨_, h⟩) fun h => ⟨_, h⟩
      dsimp only
      rw [mstate_setTable, mstate_setMState_of hst]
      by_cases hr : r' = r <;> simp [hr, hm]
    · next hm =>
      have hm : ¬ (mstate p r q = some .faulted ∨ mstate p r q = some .detached) := by simpa using hm
      by_cases hr : r' = r <;> simp [hr, hm]
  · unfold rejoinAt
    split <;> rfl

theorem jobs_rejoined (q : Port) (p : Part) : (allRegions.foldl (rejoinAt q) p).jobs = p.jobs := by
  have hat : ∀ p r, (rejoinAt q p r).jobs = p.jobs := fun p r => by
    unfold rejoinAt
    split <;> rfl
  have key : ∀ (l : List RegionIx) (p : Part), (l.foldl (rejoinAt q) p).jobs = p.jobs := fun l => by
    induction l with
    | nil => exact fun _ => rfl
    | cons r rs ih => exact fun p => (ih _).trans (hat p r)
  exact key allRegions p

/-- REJOIN is taken where the port has a copy out of service, which then is in the rebuild (R71). -/
theorem hasRejoining_rejoined {q : Port} {p : Part} (h : hasOutOfService p q = true) (x : Port) :
    hasRejoining (allRegions.foldl (rejoinAt q) p) x = true ↔ hasRejoining p x = true ∨ x ∈ [q] := by
  rw [hasRejoining_iff, hasRejoining_iff, List.mem_singleton]
  simp only [mstate_rejoined]
  constructor
  · rintro ⟨r, hr⟩
    by_cases hx : x = q
    · exact .inr hx
    · exact .inl ⟨r, by simpa [hx] using hr⟩
  · rintro (⟨r, hr⟩ | rfl)
    · refine ⟨r, ?_⟩
      split
      · rfl
      · exact hr
    · obtain ⟨r, -, hr⟩ := List.any_eq_true.mp h
      exact ⟨r, if_pos ⟨rfl, by simpa using hr⟩⟩

theorem rejoinPort_queues {q : Port} {p : Part} (h : hasOutOfService p q = true) : QueuesKeep p (rejoinPort q p) := by
  have hrecords : RecordsKept p (allRegions.foldl (rejoinAt q) p) := .foldl (fun p r => by
    unfold rejoinAt
    split <;> exact .same rfl rfl) _ p
  have hreq := QueuesKeep.requested (List.nodup_singleton q) (jobs_rejoined q p) (hasRejoining_rejoined h) hrecords
  rw [List.foldl_cons, List.foldl_nil] at hreq
  unfold rejoinPort
  refine .settle ?_
  dsimp only
  exact hreq

theorem cmdRejoin_queues (port reserved : Byte) : (cmdRejoin port reserved).KeepsQueues := fun p => by
  unfold cmdRejoin
  split
  · exact .refl p
  · split
    · next hc =>
      rw [done_fst]
      exact rejoinPort_queues (Bool.and_eq_true_iff.mp hc).2
    · exact .refl p

/-! ## COMPARE and JOB_CANCEL -/

/-- COMPARE appends only where fewer than four compare jobs are in the queue (R118, R137). -/
theorem cmdCompare_queues (region : Byte) (first count : BitVec 24) : (cmdCompare region first count).KeepsQueues := fun p => by
  unfold cmdCompare
  split
  · exact .refl p
  · next r _ =>
    split
    · exact .refl p
    · split
      · exact .refl p
      · next hroom =>
        dsimp only
        refine .settle ⟨.same rfl rfl, fun h => ⟨?_, ?_⟩, fun h => ?_⟩
        · dsimp only
          rw [List.filterMap_append]
          exact (List.append_nil (p.jobs.filterMap jobTarget)).symm ▸ h.1
        · dsimp only
          rw [List.countP_append]
          exact Nat.lt_of_not_le hroom
        · intro q
          dsimp only
          rw [List.any_append]
          exact (Bool.or_false _).trans (h q)

/-- A compare job taken out of its place (R136, R139). -/
theorem filterMap_eraseIdx {l : List Job} {i : Nat} {j : Job} (hi : l[i]? = some j) (hj : jobTarget j = none) :
    (l.eraseIdx i).filterMap jobTarget = l.filterMap jobTarget := by
  induction l generalizing i with
  | nil => simp at hi
  | cons x xs ih =>
    cases i with
    | zero =>
      obtain rfl : x = j := by simpa using hi
      simp [hj]
    | succ i =>
      rw [List.eraseIdx_cons_succ, targets_cons, targets_cons, ih (by simpa using hi)]

theorem cancelJob_queues {i : Nat} {j : Job} {c : CompareJob} {p : Part} (hi : p.jobs[i]? = some j) (hj : j.kind = .compare c) :
    QueuesKeep p (cancelJob i j c p) := by
  have hnone : jobTarget j = none := by simp [jobTarget, hj]
  have hleft : ∀ p', p'.jobs = p.jobs.eraseIdx i → p'.regions = p.regions → RecordsKept p p' → QueuesKeep p p' :=
    fun p' hjobs => compareLeft (by rw [Part.targets, hjobs, filterMap_eraseIdx hi hnone]; rfl)
      (by rw [hjobs]; exact (List.eraseIdx_sublist ..).countP_le)
  unfold cancelJob
  split
  · exact .settle (hleft _ rfl (leaveRunning_stores ..).regions (leaveRunning_records ..))
  · exact .settle (hleft _ rfl rfl (.posted [_] rfl rfl))

theorem cmdJobCancel_queues (position : Byte) : (cmdJobCancel position).KeepsQueues := fun p => by
  unfold cmdJobCancel
  split
  · exact .refl p
  · next hi =>
    split
    · exact .refl p
    · next hk => exact cancelJob_queues hi hk

/-! ## The other management commands -/

theorem cmdPortEnable_queues (port reserved : Byte) : (cmdPortEnable port reserved).KeepsQueues := fun p => by
  unfold cmdPortEnable
  split
  · exact .refl p
  · split <;> exact .same rfl

theorem cmdPortDisable_queues (port reserved : Byte) : (cmdPortDisable port reserved).KeepsQueues := fun p => by
  have hdisabled : ∀ q, QueuesKeep p (disablePort q p) := fun q => by
    unfold disablePort
    split
    · exact .refl p
    · exact (loseLink_queues ..).after rfl
  unfold cmdPortDisable
  split
  · exact .refl p
  · split
    · exact .refl p
    · split
      · exact .refl p
      · exact hdisabled _

theorem cmdPortSetup_queues (port timeout silence weight : Byte) :
    (cmdPortSetup port timeout silence weight).KeepsQueues := fun p => by
  unfold cmdPortSetup
  split
  · exact .refl p
  · split <;> exact .same rfl

/-- What is fetched leaves the queue (R162). -/
theorem cmdEventFetch_queues (n : Byte) : (cmdEventFetch n).KeepsQueues := fun p => by
  unfold cmdEventFetch
  split
  · exact .refl p
  · refine .stand rfl le_rfl (fun _ _ => Iff.rfl) ⟨fun h => ?_, le_rfl⟩
    exact (List.drop_sublist ..).length_le.trans h

theorem cmdFaultClear_queues (flags : BitVec 16) : (cmdFaultClear flags).KeepsQueues := fun p => by
  unfold cmdFaultClear
  split
  · exact .stand rfl le_rfl (fun _ _ => Iff.rfl) ⟨id, le_rfl⟩
  · exact .refl p

theorem cmdFaultMask_queues (flags : BitVec 16) : (cmdFaultMask flags).KeepsQueues := fun p => by
  unfold cmdFaultMask
  split
  · exact .stand rfl le_rfl (fun _ _ => Iff.rfl) ⟨id, le_rfl⟩
  · exact .refl p

theorem cmdSetKey_queues (key : Byte) : (cmdSetKey key).KeepsQueues := fun _ =>
  .stand rfl le_rfl (fun _ _ => Iff.rfl) ⟨id, le_rfl⟩

theorem ownerCommand_queues (code : Byte) (d : List Byte) : (ownerCommand code d).KeepsQueues := by
  unfold ownerCommand
  split
  · exact .refl
  · exact .refl
  · exact cmdSetKey_queues _
  · exact cmdRegionStage_queues _
  · exact cmdRegionCommit_queues _ _ _ _
  · exact cmdRegionRetire_queues _ _
  · exact .of_fst (cmdRegionRead_fst _ _)
  · exact cmdPortEnable_queues _ _
  · exact cmdPortDisable_queues _ _
  · exact cmdPortSetup_queues _ _ _ _
  · exact .of_fst (cmdPortRead_fst _)
  · exact cmdDetach_queues _ _
  · exact cmdRejoin_queues _ _
  · exact .of_fst (cmdDivergenceRead_fst _ _)
  · exact cmdCompare_queues _ _ _
  · exact .refl
  · exact cmdJobCancel_queues _
  · exact cmdEventFetch_queues _
  · exact cmdFaultClear_queues _
  · exact cmdFaultMask_queues _
  · exact .refl

theorem testedCommand_queues (code declared : Byte) (d : List Byte) : (testedCommand code declared d).KeepsQueues := by
  unfold testedCommand
  split
  · exact .refl
  · split
    · exact .refl
    · split
      · exact .refl
      · split
        · exact ownerCommand_queues code d
        · exact .refl

/-! ## Replies (R147, R150) -/

/-- From `p` to `p'` the queues stay within their bounds, and the catch-up jobs are for the ports with a REJOINING copy: what
a frame's reply, too, keeps. -/
structure QueuesSound (p p' : Part) : Prop where
  bounds : jobsSound p ∧ queuesBounded p → jobsSound p' ∧ queuesBounded p'
  catchUps : catchUpJobsExact p → catchUpJobsExact p'

theorem QueuesSound.trans {a b c : Part} (h : QueuesSound a b) (h' : QueuesSound b c) : QueuesSound a c :=
  ⟨fun hb => h'.bounds (h.bounds hb), fun he => h'.catchUps (h.catchUps he)⟩

theorem QueuesKeep.sound {p p' : Part} (h : QueuesKeep p p') : QueuesSound p p' :=
  ⟨fun ⟨hj, hr, hm⟩ => ⟨h.jobs hj, h.records hr, h.replies.trans hm⟩, h.catchUps⟩

/-- A reply is placed where fewer than two wait. -/
theorem placeReply_sound {p p' : Part} (body : List Byte) (hroom : p.mgmt.replies.length < Config.replyCapacity)
    (h : QueuesKeep p p') : QueuesSound p (placeReply body p') where
  bounds := fun ⟨hj, hr, _⟩ => ⟨h.jobs hj, h.records hr, by
    have := h.replies
    simp only [placeReply, List.length_append, List.length_singleton]
    omega⟩
  catchUps := h.catchUps

/-- A frame is dropped at a full reply queue, and has one reply otherwise (R147). -/
theorem takeCommand_sound (seq code : Byte) {run : Command} (h : run.KeepsQueues) (p : Part) :
    QueuesSound p (takeCommand seq code run p) := by
  unfold takeCommand
  split
  · exact (QueuesKeep.refl p).sound
  · next hfull =>
    have hroom : p.mgmt.replies.length < Config.replyCapacity := by simpa [repliesFull] using hfull
    split
    · exact placeReply_sound _ hroom (.refl p)
    · have hcached : ∀ p' c, QueuesKeep p' { p' with mgmt := { p'.mgmt with cache := c } } := fun _ _ =>
        .stand rfl le_rfl (fun _ _ => Iff.rfl) ⟨id, le_rfl⟩
      exact (placeReply_sound _ hroom (h p)).trans (hcached _ _).sound

/-! ## The receiver -/

/-- The receiver's own state is beside the queues. -/
theorem setRx_queues (rx : RxState) (buffer : List Byte) (p : Part) : QueuesKeep p (setRx rx buffer p) :=
  .stand rfl le_rfl (fun _ _ => Iff.rfl) ⟨id, le_rfl⟩

theorem appendByte_queues (b : Byte) (p : Part) : QueuesKeep p (appendByte b p) := by
  unfold appendByte
  split <;> exact setRx_queues _ _ p

theorem takeFrame_sound (body : List Byte) (p : Part) : QueuesSound p (takeFrame body p) := by
  unfold takeFrame
  split
  · exact (QueuesKeep.refl p).sound
  · split
    · exact (QueuesKeep.refl p).sound
    · split
      · exact (QueuesKeep.post _ p).sound
      · exact takeCommand_sound _ _ (testedCommand_queues _ _ _) p

theorem receive_sound (b : Byte) (p : Part) : QueuesSound p (receive b p) := by
  have hset : ∀ rx buffer, QueuesSound p (setRx rx buffer p) := fun rx buffer => (setRx_queues rx buffer p).sound
  unfold receive
  split
  · split
    · exact hset _ _
    · exact (QueuesKeep.refl p).sound
  · split
    · exact hset _ _
    · split
      · exact (hset _ _).trans (takeFrame_sound _ _)
      · split
        · exact hset _ _
        · exact (appendByte_queues b p).sound
  · split
    · exact hset _ _
    · split
      · exact (appendByte_queues _ p).sound
      · exact hset _ _

theorem mgmtCharacter_sound (b : Byte) (stopHigh : Bool) (p : Part) : QueuesSound p (mgmtCharacter b stopHigh p) := by
  unfold mgmtCharacter
  split
  · exact receive_sound b p
  · exact (setRx_queues _ _ p).sound

theorem replySent_queues (p : Part) : QueuesKeep p (replySent p) := by
  unfold replySent
  split
  · next hr => exact .stand rfl le_rfl (fun _ _ => Iff.rfl) ⟨id, by rw [hr]; exact Nat.le_succ _⟩
  · exact .refl p

/-! ## PORST_N -/

/-- A part without jobs, records, replies and REJOINING copies. -/
theorem QueuesKeep.emptied {p p' : Part} (hj : p'.jobs = []) (hm : ∀ r q, mstate p' r q ≠ some .rejoining)
    (he : p'.events = EventUnit.powerOn) (hr : p'.mgmt = Mgmt.powerOn) : QueuesKeep p p' where
  records _ := by rw [he]; exact Nat.zero_le _
  replies := by rw [hr]; exact Nat.zero_le _
  jobs _ := by simp [jobsSound, hj]
  catchUps _ q := by
    rw [hj]
    exact (Bool.eq_false_iff.mpr fun hc => ((hasRejoining_iff p' q).mp hc).elim fun r => hm r q).symm

/-- The one region in use after power-on is DIRECT, and its member has no state (R41). -/
theorem mstate_powerOn (hrst : Bool) (bootsz : BitVec 2) (mbaud : Bool) (now : Nat) (trace : List Output) (r : RegionIx)
    (q : Port) : mstate (Part.powerOn hrst bootsz mbaud now trace) r q = none := by
  unfold mstate
  rw [region_powerOn]
  split
  · refine ite_eq_right_iff.mpr fun _ => Option.bind_eq_none_iff.mpr fun m hm => ?_
    have hmem : m ∈ (Region.boot bootsz).members := List.mem_of_find?_eq_some hm
    rw [List.mem_singleton.mp hmem]
  · rfl

/-! ## Commands and steps -/

theorem onPart_sound {f : Part → Part} {s t : State} (hf : ∀ p, QueuesSound p (f p)) (h : onPart f s = .next t) :
    QueuesSound s.part t.part := by
  unfold onPart at h
  obtain rfl := Host.Outcome.next.inj h
  dsimp only
  split
  · exact (QueuesKeep.refl _).sound
  · exact hf _

theorem onPart_queues {f : Part → Part} {s t : State} (hf : ∀ p, QueuesKeep p (f p)) (h : onPart f s = .next t) :
    QueuesSound s.part t.part := onPart_sound (fun p => (hf p).sound) h

theorem onFrame_sound {seq code : Byte} {run : Command} {s t : State} (hr : run.KeepsQueues)
    (h : onFrame seq code run s = .next t) : QueuesSound s.part t.part := onPart_sound (takeCommand_sound seq code hr) h

theorem exec_sound {c : Instr} {s t : State} (h : exec c s = .next t) : QueuesSound s.part t.part := by
  cases c with
  | admission tag op line => exact onPart_queues (takeRequest_queues tag op line) h
  | grant q k => exact onPart_queues (fun p => .settle (grantAct_queues q k p)) h
  | hostOutcome q => exact onPart_queues (hostOutcome_queues q) h
  | hrstNAssert => obtain rfl := Host.Outcome.next.inj h; exact (assertHrst_queues _).sound
  | hrstNDeassert => obtain rfl := Host.Outcome.next.inj h; exact (QueuesKeep.same rfl).sound
  | porstNAssert =>
    obtain rfl := Host.Outcome.next.inj h
    exact (QueuesKeep.emptied rfl (fun r q => by simp [assertPorst, mstate_abandoned]) rfl rfl).sound
  | porstNDeassert bootsz mbaud =>
    obtain rfl := Host.Outcome.next.inj h
    dsimp only [releasePorst]
    split
    · exact (QueuesKeep.emptied rfl (fun r q => by simp [mstate_powerOn]) rfl rfl).sound
    · exact (QueuesKeep.refl _).sound
  | deviceReady q => exact onPart_queues (deviceReady_queues q) h
  | trainingTimerExpiry q => exact onPart_queues (trainingExpiry_queues q) h
  | silenceTimerExpiry q => exact onPart_queues (silenceExpiry_queues q) h
  | wakeTimerExpiry q => exact onPart_queues (wakeExpiry_queues q) h
  | linkError q => exact onPart_queues (linkError_queues q) h
  | deviceResponse q k resp => exact onPart_queues (deviceResponse_queues q k resp) h
  | responseTimerExpiry q => exact onPart_queues (responseExpiry_queues q) h
  | linkLossClaim q => exact onPart_queues (linkLossClaim_queues q) h
  | copyOutcome q => exact onPart_queues (copyOutcome_queues q) h
  | mgmtCharacter b stopHigh => exact onPart_sound (mgmtCharacter_sound b stopHigh) h
  | replySent => exact onPart_queues replySent_queues h
  | ident seq => exact onFrame_sound (.of_fst fun _ => rfl) h
  | status seq => exact onFrame_sound (.of_fst fun _ => rfl) h
  | setKey seq key => exact onFrame_sound (cmdSetKey_queues key) h
  | regionStage seq x => exact onFrame_sound (cmdRegionStage_queues x) h
  | regionCommit seq region init primary reserved => exact onFrame_sound (cmdRegionCommit_queues region init primary reserved) h
  | regionRetire seq region reserved => exact onFrame_sound (cmdRegionRetire_queues region reserved) h
  | regionRead seq region reserved => exact onFrame_sound (.of_fst (cmdRegionRead_fst region reserved)) h
  | portEnable seq port reserved => exact onFrame_sound (cmdPortEnable_queues port reserved) h
  | portDisable seq port reserved => exact onFrame_sound (cmdPortDisable_queues port reserved) h
  | portSetup seq port timeout silence weight => exact onFrame_sound (cmdPortSetup_queues port timeout silence weight) h
  | portRead seq port => exact onFrame_sound (.of_fst (cmdPortRead_fst port)) h
  | detach seq port reserved => exact onFrame_sound (cmdDetach_queues port reserved) h
  | rejoin seq port reserved => exact onFrame_sound (cmdRejoin_queues port reserved) h
  | divergenceRead seq port start => exact onFrame_sound (.of_fst (cmdDivergenceRead_fst port start)) h
  | compare seq region first count => exact onFrame_sound (cmdCompare_queues region first count) h
  | jobRead seq => exact onFrame_sound (.of_fst fun _ => rfl) h
  | jobCancel seq position => exact onFrame_sound (cmdJobCancel_queues position) h
  | eventFetch seq n => exact onFrame_sound (cmdEventFetch_queues n) h
  | faultClear seq flags => exact onFrame_sound (cmdFaultClear_queues flags) h
  | faultMask seq flags => exact onFrame_sound (cmdFaultMask_queues flags) h

theorem step_sound {s t : State} (h : step s = .next t) : QueuesSound s.part t.part := by
  unfold step at h
  split at h
  · next rest _ => exact exec_sound (s := { s with pending := rest }) h
  · obtain rfl := Host.Outcome.next.inj h
    exact (QueuesKeep.same rfl).sound

/-- Settles O57: a catch-up job is requested only where none is for the port, COMPARE appends and a frame is answered only where there
is room, a post past the 32nd record is dropped, and all else takes out. -/
theorem queuesKept : Obligations.QueuesKept := fun _ _ hs h => (step_sound h).bounds hs

/-- Settles O59: a copy enters the rebuild together with a request for its port's job; the job leaves where no copy of the port stays
in the rebuild. -/
theorem catchUpJobsKept : Obligations.CatchUpJobsKept := fun _ _ hs h => (step_sound h).catchUps hs

end Sys2Proof.Machine
end

section
/-! SUPPORT. The statement about a catch-up line that goes on (O25). -/

namespace Sys2Proof.Machine

/-! ## Nothing outside the event is touched -/

theorem sourceData_same (t q : Port) (d : LineData) (w : Window) (p : Part) : sameOutside p (sourceData t q d w p).1 := by
  unfold sourceData
  split
  · exact sameOutside_refl p
  split
  · exact restartLine_same ..
  split
  · exact restartLine_same ..
  split <;> exact setWindow_same p _

theorem copyOk_same (part : CopyPart) (q : Port) (d : LineData) (p : Part) : sameOutside p (copyOk part q d p).1 := by
  unfold copyOk
  split
  · exact sameOutside_refl p
  split
  · exact sameOutside_refl p
  split
  · exact sourceData_same ..
  · exact sameOutside_refl p
  · exact sameOutside_trans (setWindow_same p _) (compareProgress_same _)
  all_goals exact sameOutside_refl p

theorem takeCopyOutcome_same (part : CopyPart) (q : Port) (result : TxnResult) (p : Part) :
    sameOutside p (takeCopyOutcome part q result p).1 := by
  cases result with
  | ok data => exact copyOk_same ..
  | error => exact sameOutside_refl p
  | failed why => exact sameOutside_refl p

/-- A COPY outcome that is taken, with all that follows. -/
theorem OutcomeTaken.settles {q : Port} {h : Handed} {s : State} {p : Part} (ht : OutcomeTaken q h s p) {part : CopyPart}
    (ho : h.origin = .copy part) : leavesPart (.copyOutcome q) s (settle (takeCopyOutcome part q h.result p)) := by
  obtain ⟨hs, rest, htake, rfl⟩ := ht
  exact exec_copyOutcome hs htake ho

theorem OutcomeTaken.steps {q : Port} {h : Handed} {s : State} {p : Part} (ht : OutcomeTaken q h s p) :
    ∃ t, exec (.copyOutcome q) s = .next t ∧ sameOutside p t.part := by
  obtain ⟨part, ho⟩ := ht.origin
  exact ⟨_, ht.settles ho, sameOutside_trans (takeCopyOutcome_same ..) (settle_same _)⟩

/-! ## The data of a source read -/

section
variable {q t : Port} {d : LineData} {w : Window} {p : Part}

/-- Kept, and the line's WRITE claimed at the target (R127). -/
theorem sourceData_kept (hc : w.cancelled = false) (hre : w.reread = false) (hm : mstate p w.region q = some .inService)
    (hup : portDown p t = false) : sourceData t q d w p =
      (p.setWindow (some { w with
        data := [(q, d)]
        claims := [{ port := t, part := .targetWrite, op := .write (BitVec.allOnes 64) d,
                     addr := downAddr (p.region w.region) t w.addr }] }), []) := by
  simp [sourceData, hc, hre, hm, hup]

/-- Discarded, and the line started again (R126). -/
theorem sourceData_dropped (hc : w.cancelled = false) (h : w.reread = true ∨ mstate p w.region q ≠ some .inService) :
    sourceData t q d w p = (p.setWindow (some w.restarted), [.chooseSource t]) := by
  cases hre : w.reread with
  | true => simp [sourceData, hc, hre, restartLine, Window.restarted]
  | false =>
    have hm := h.resolve_left (by simp [hre])
    simp [sourceData, hc, hre, hm, restartLine, Window.restarted]

theorem copyOk_sourceRead (hw : p.window = some w) (hj : w.job = .catchUp t) (hp : w.phase ≠ .closing) :
    copyOk .sourceRead q d p = sourceData t q d w p := by simp [copyOk, hw, hj, hp]

end

/-- Settles O25: the data kept, the line started again, and the next line of the extent. -/
theorem catchUpLineProgress : Obligations.CatchUpLineProgress := by
  intro q t h rest w s hs htake hw hj hp
  have ht : OutcomeTaken q h s { s.part with handed := rest } := ⟨hs, rest, htake, rfl⟩
  have hwin := ht.window.trans hw
  refine ⟨ht.steps, fun d ho hres hc hre hm hup => ht.leaves ho ?_, fun d src ho hres hc hdrop ha hb => ht.leaves ho ?_,
    fun d src ho hres hn hk hlive hb => ?_⟩
  · rw [hres, takeCopyOutcome, copyOk_sourceRead hwin hj hp,
      sourceData_kept (p := { s.part with handed := rest }) hc hre hm hup]
    exact (RunsTo.nil _).mono (by omega)
  · rw [hres, takeCopyOutcome, copyOk_sourceRead hwin hj hp,
      sourceData_dropped (p := { s.part with handed := rest }) hc hdrop]
    exact RunsTo.stepLt rfl (by omega) (chooseSource_restarted rfl hj ha hb) (.nil _)
  · exact lineEnds_leaves ht hwin hj hp (.inl ⟨ho, ⟨d, hres⟩, rfl⟩)
      ((runsTo_lineDone_next hwin hj hp hk hlive hb hn).mono (by omega))

end Sys2Proof.Machine
end

section
/-! SUPPORT. What follows when the copy engine leaves a line or a job: turns of waiting entries, drains, and the next starts. Of these
works none adds a job and none places a line claim. -/

namespace Sys2Proof.Machine

/-! ## The works that follow -/

/-- The works that the end of a line or job sets off, and those that follow them. -/
def isFollowUp : Task → Bool
  | .serveLost | .redirect _ _ _ | .afterShrink _ | .afterWriteFailure _ _ | .lineDone _ | .afterSourceFailure _ _
  | .afterCompareFailure | .closeCheck | .claimLost _ | .copyFailed _ _ _ | .notice _ _ | .posting _ => false
  | _ => true

theorem isFollowUp_leaves (claim : Option UpAddr) : ∀ u ∈ (claim.map Task.leave).toList, isFollowUp u = true := by
  cases claim <;> simp [isFollowUp]

/-- From `p` no job is added and no line claim placed, and only such works follow. -/
structure GoesOn (p : Part) (a : Act) : Prop where
  jobs : a.1.jobs.length ≤ p.jobs.length
  lineClaim : p.lineClaim = none → a.1.lineClaim = none
  works : ∀ u ∈ a.2, isFollowUp u = true

namespace GoesOn

theorem of_same {p : Part} {a : Act} (hj : a.1.jobs = p.jobs) (hl : a.1.lineClaim = p.lineClaim)
    (hw : ∀ u ∈ a.2, isFollowUp u = true) : GoesOn p a := ⟨hj ▸ le_rfl, hl ▸ id, hw⟩

theorem idle (p : Part) : GoesOn p (p, []) := .of_same rfl rfl (by simp)

/-- What follows a change that leaves jobs and line claim as they are. -/
theorem after {p p' : Part} {a : Act} (h : GoesOn p' a) (hj : p'.jobs = p.jobs) (hl : p'.lineClaim = p.lineClaim) : GoesOn p a :=
  ⟨hj ▸ h.jobs, hl ▸ h.lineClaim, h.works⟩

end GoesOn

/-! ## Jobs that leave -/

theorem leaveRunning_works (rest : List Job) (ev : Option EventBody) (p : Part) :
    ∀ u ∈ (leaveRunning rest ev p).2, isFollowUp u = true := by
  rw [leaveRunning_eq]
  refine List.forall_mem_append.mpr ⟨?_, List.forall_mem_cons.mpr ⟨rfl, isFollowUp_leaves _⟩⟩
  cases p.window <;> simp [isFollowUp]

/-- The job that leaves gives its line claim up (R120). -/
theorem leaveRunning_goesOn {rest : List Job} {p : Part} (ev : Option EventBody) (h : rest.length ≤ p.jobs.length) :
    GoesOn p (leaveRunning rest ev p) := by
  refine ⟨?_, fun _ => ?_, leaveRunning_works rest ev p⟩
  · rw [leaveRunning_eq]
    exact h
  · rw [leaveRunning_eq]
    rfl

theorem length_jobsWithout_le (q : Port) (p : Part) : (jobsWithout q p).length ≤ p.jobs.length := List.length_filter_le ..

theorem leaveCatchUp_goesOn (q : Port) (ev : Option EventBody) (p : Part) : GoesOn p (leaveCatchUp q ev p) := by
  have hpost : (postEnd ev p).lineClaim = p.lineClaim := by cases ev <;> rfl
  unfold leaveCatchUp
  split
  · exact .idle p
  · split
    · exact leaveRunning_goesOn ev (length_jobsWithout_le q p)
    · exact ⟨length_jobsWithout_le q p, hpost ▸ id, by simp [isFollowUp]⟩

theorem taskReport_goesOn (r : RegionIx) (q : Port) (why : Reason) (line : Option UpAddr) (p : Part) :
    GoesOn p (taskReport r q why line p) := by
  have honly := takeReport_only r q why line p
  unfold taskReport
  split
  · exact (leaveCatchUp_goesOn ..).after honly.jobs honly.lineClaim
  · exact .of_same honly.jobs honly.lineClaim (by simp)

theorem abandonSource_goesOn (q : Port) (p : Part) : GoesOn p (abandonSource q p) := by
  have honly := takeOutRejoining_only q .source p
  unfold abandonSource
  exact (leaveRunning_goesOn _ (by rw [honly.jobs]; exact length_jobsWithout_le q p)).after honly.jobs honly.lineClaim

/-! ## Entries -/

theorem completeEntry_goesOn (e : Entry) (st : RespStatus) (p : Part) : GoesOn p (completeEntry e st p) :=
  .of_same rfl rfl (by simp [completeEntry, freeEntry, isFollowUp])

theorem enterWaitingSlot_goesOn (e : Entry) (t : PortSet) (p : Part) : GoesOn p (enterWaitingSlot e t p) :=
  .of_same rfl rfl (by simp [enterWaitingSlot, isFollowUp])

theorem chooseRead_moves {p p' : Part} {e : Entry} {q : Port} (h : chooseRead p e = some (q, p')) :
    p'.jobs = p.jobs ∧ p'.lineClaim = p.lineClaim := by
  unfold chooseRead at h
  dsimp only at h
  split at h
  · simp at h
  · obtain ⟨-, rfl⟩ := Prod.mk.inj (Option.some.inj h)
    split <;> exact ⟨rfl, rfl⟩

theorem chooseDirect_goesOn (e : Entry) (p : Part) : GoesOn p (chooseDirect e p) := by
  unfold chooseDirect
  split
  · split
    · exact completeEntry_goesOn ..
    · exact enterWaitingSlot_goesOn ..
  · exact completeEntry_goesOn ..

theorem chooseFirst_goesOn (e : Entry) (p : Part) : GoesOn p (chooseFirst e p) := by
  unfold chooseFirst
  split
  · exact chooseDirect_goesOn e p
  · split
    · split
      · next hc =>
        obtain ⟨hj, hl⟩ := chooseRead_moves hc
        exact (enterWaitingSlot_goesOn ..).after hj hl
      · exact completeEntry_goesOn ..
    · refine .of_same rfl rfl fun u hu => ?_
      simp only [List.mem_append, List.mem_map, List.mem_singleton] at hu
      rcases hu with ⟨_, -, rfl⟩ | rfl <;> rfl

theorem taskLeave_goesOn (line : UpAddr) (p : Part) : GoesOn p (taskLeave line p) := by
  unfold taskLeave
  split
  · exact .idle p
  · exact chooseFirst_goesOn _ p

theorem taskImmediateFailure_goesOn (tag : Tag) (q : Port) (p : Part) : GoesOn p (taskImmediateFailure tag q p) := by
  unfold taskImmediateFailure
  split
  · exact .idle p
  · dsimp only
    split
    · exact .of_same rfl rfl (by simp [isFollowUp])
    · exact .idle p

theorem taskFixTargets_goesOn (tag : Tag) (p : Part) : GoesOn p (taskFixTargets tag p) := by
  unfold taskFixTargets
  split
  · exact .idle p
  · dsimp only
    split
    · exact .idle p
    · split
      · exact completeEntry_goesOn ..
      · exact enterWaitingSlot_goesOn ..

theorem taskGiveBack_goesOn (q : Port) (p : Part) : GoesOn p (taskGiveBack q p) := by
  obtain ⟨hworks, held, hpart, -⟩ := taskGiveBack_spec q p
  exact .of_same (by rw [hpart]; rfl) (by rw [hpart]; rfl) (by simp [hworks])

/-! ## Starts -/

theorem taskDrainCheck_goesOn (r : RegionIx) (p : Part) : GoesOn p (taskDrainCheck r p) := by
  by_cases hd : drained p r = true
  · rw [taskDrainCheck_drained r p hd]
    exact ⟨List.length_filter_le .., id, by simp [isFollowUp]⟩
  · rw [taskDrainCheck_kept r p (by simpa using hd)]
    exact .idle p

theorem taskHeadStart_goesOn (p : Part) : GoesOn p (taskHeadStart p) := by
  unfold taskHeadStart
  split
  · next j js hj _ =>
    split
    · exact .idle p
    · have hlen : ({ j with started := true } :: js).length ≤ p.jobs.length := by rw [hj]; exact le_rfl
      dsimp only
      split
      · exact ⟨hlen, id, by simp [isFollowUp]⟩
      · exact ⟨hlen, id, by simp [isFollowUp]⟩
  all_goals exact .idle p

theorem startLine_goesOn (job : WindowJob) (r : RegionIx) (e k : Nat) (p : Part) : GoesOn p (startLine job r e k p) := by
  refine .of_same rfl rfl fun u hu => ?_
  unfold startLine at hu
  dsimp only at hu
  split at hu
  · split at hu
    · simp at hu
    · rw [List.mem_singleton.mp hu]
      rfl
  · simp at hu

theorem taskChooseSource_goesOn (q : Port) (p : Part) : GoesOn p (taskChooseSource q p) := by
  unfold taskChooseSource
  split
  · exact .idle p
  · split
    · exact abandonSource_goesOn q p
    · exact .of_same rfl rfl (by simp)

theorem taskSelection_goesOn (q : Port) (p : Part) : GoesOn p (taskSelection q p) := by
  unfold taskSelection
  split
  · refine .of_same rfl rfl fun u hu => ?_
    rcases List.mem_append.mp hu with hu | hu
    · exact (startLine_goesOn ..).works u hu
    · rw [List.mem_singleton.mp hu]
      rfl
  · have honly := takeCompletion_only q p
    exact (leaveRunning_goesOn _ (by rw [honly.jobs]; exact length_jobsWithout_le q p)).after honly.jobs honly.lineClaim

theorem taskCompareStart_goesOn (p : Part) : GoesOn p (taskCompareStart p) := by
  unfold taskCompareStart
  split
  · exact .idle p
  · next c _ =>
    dsimp only
    split
    · exact leaveRunning_goesOn _ (by simp)
    · exact .of_same rfl rfl (startLine_goesOn .compare c.region c.nextExtent c.nextLine p).works

/-! ## Events -/

theorem runTask_goesOn {t : Task} (h : isFollowUp t = true) (p : Part) : GoesOn p (runTask t p) := by
  cases t with
  | leave line => exact taskLeave_goesOn line p
  | immediateFailure tag q => exact taskImmediateFailure_goesOn tag q p
  | fixTargets tag => exact taskFixTargets_goesOn tag p
  | giveBack q => exact taskGiveBack_goesOn q p
  | report r q why line => exact taskReport_goesOn r q why line p
  | drainCheck r => exact taskDrainCheck_goesOn r p
  | headStart => exact taskHeadStart_goesOn p
  | selection q => exact taskSelection_goesOn q p
  | chooseSource q => exact taskChooseSource_goesOn q p
  | compareStart => exact taskCompareStart_goesOn p
  | _ => exact absurd h (by simp [isFollowUp])

/-- After all such works the job queue is no longer than before. -/
theorem settle_jobs_length_le {a : Act} (h : ∀ u ∈ a.2, isFollowUp u = true) : (settle a).jobs.length ≤ a.1.jobs.length :=
  settle_inv_of (I := fun p => p.jobs.length ≤ a.1.jobs.length) (T := fun u => isFollowUp u = true)
    (fun _ p ht hp => ⟨(runTask_goesOn ht p).jobs.trans hp, (runTask_goesOn ht p).works⟩) h le_rfl

/-- After all such works no line claim is placed that was not before. -/
theorem settle_lineClaim_none {a : Act} (h : ∀ u ∈ a.2, isFollowUp u = true) (hl : a.1.lineClaim = none) :
    (settle a).lineClaim = none :=
  settle_inv_of (I := fun p => p.lineClaim = none) (T := fun u => isFollowUp u = true)
    (fun _ p ht hp => ⟨(runTask_goesOn ht p).lineClaim hp, (runTask_goesOn ht p).works⟩) h hl

end Sys2Proof.Machine
end

section
/-! SUPPORT. The end of a compare line: the copies compared, the records and counts, and what follows (R133 to R136). -/

namespace Sys2Proof.Machine

/-! ## The running job has left -/

theorem table_jobEnded (rest : List Job) (ev : Option EventBody) (p : Part) : (jobEnded rest ev p).table = p.table :=
  (withdrawClaims_stores p).table

/-- The part when the drain check of the region that a job's window rested on has followed its end (R120). -/
def jobLeft (rest : List Job) (ev : Option EventBody) (p : Part) : Part :=
  p.window.elim (jobEnded rest ev p) (fun w => drainChecked w.region (jobEnded rest ev p))

/-- Where no job starts by itself and no entry waits for the line claim, the drain check is all that follows a job's end. -/
theorem runsTo_jobLeft {rest : List Job} {ev : Option EventBody} {p : Part} {claim : Option UpAddr}
    (hn : nothingStarts (jobEnded rest ev p)) (hl : claimHoldsNone p)
    (hcl : ∀ x ∈ p.table, x.state = .waitingLine → claim ≠ some x.line) :
    RunsTo 8 ((leaveRunning rest ev p).2 ++ (claim.map Task.leave).toList) (leaveRunning rest ev p).1 (jobLeft rest ev p) := by
  have hidle : ∀ p', p'.table = p.table → nothingStarts p' →
      ∀ v ∈ Task.headStart :: ((p.lineClaim.map Task.leave).toList ++ (claim.map Task.leave).toList),
        runTask v p' = (p', []) := fun p' ht hn' => by
    refine List.forall_mem_cons.mpr ⟨taskHeadStart_nothing hn', fun v hv => ?_⟩
    rcases List.mem_append.mp hv with hv | hv
    · exact runTask_leave_noneWaits (ht ▸ hl) v hv
    · exact runTask_leave_noneWaits (ht ▸ hcl) v hv
  have hlen : ∀ o : Option UpAddr, (o.map Task.leave).toList.length ≤ 1 := fun o => by cases o <;> simp
  have hbound : (Task.headStart :: ((p.lineClaim.map Task.leave).toList ++ (claim.map Task.leave).toList)).length ≤ 3 := by
    have := hlen p.lineClaim
    have := hlen claim
    simp only [List.length_cons, List.length_append]
    omega
  rw [leaveRunning_eq, jobLeft]
  cases hw : p.window with
  | none => exact ⟨_, hbound.trans (by omega), works_allIdle _ _ rfl (hidle _ (table_jobEnded ..) hn)⟩
  | some w =>
    refine (runsTo_drainCheck_idle hn (hidle _ ?_ (nothingStarts_drainChecked _ hn))).mono (by omega)
    rw [table_drainChecked, table_jobEnded]

/-- The last job leaves, its window without claims and nothing outstanding, and its region is not RETIRING (R120). -/
theorem runsTo_lastJobLeft {b : EventBody} {w : Window} {p : Part} {claim : Option UpAddr} (hw : p.window = some w)
    (hc : w.claims = []) (hin : copyInFlight p = 0) (hs : (p.region w.region).state ≠ .retiring) (hl : claimHoldsNone p)
    (hcl : ∀ x ∈ p.table, x.state = .waitingLine → claim ≠ some x.line) :
    RunsTo 8 ((leaveRunning [] (some b) p).2 ++ (claim.map Task.leave).toList) (leaveRunning [] (some b) p).1
      { post b p with lineClaim := none, jobs := [], window := none } := by
  have hquiet : jobEnded [] (some b) p = { post b p with lineClaim := none, jobs := [], window := none } :=
    jobEnded_quiet [] b (fun w' hw' => by rw [Option.some.inj (hw'.symm.trans hw)]; exact hc) hin
  have hleft : jobLeft [] (some b) p = { post b p with lineClaim := none, jobs := [], window := none } := by
    rw [jobLeft, hw, Option.elim_some, hquiet, drainChecked, if_neg (fun h => hs h.1)]
  exact hleft ▸ runsTo_jobLeft (.inr rfl) hl hcl

/-- What an event has posted first stays so while its works go on. -/
theorem postsFirst_settle {u : EventUnit} {a : Act} {bs : List EventBody} (h : postsFirst u a.1.events bs) :
    postsFirst u (settle a).events bs := by
  obtain ⟨-, -, -, -, -, -, -, -, -, hs, hq, -⟩ := settle_same a
  exact postsFirst_mono h hq hs

/-- What a job's end has brought about stays so, whatever follows: its event comes first, the queue is shorter, and the line claim is
released (R120). -/
theorem settle_leaveRunning (rest : List Job) (b : EventBody) (p : Part) (claim : Option UpAddr) {a : Act}
    (ha : a = ((leaveRunning rest (some b) p).1, (leaveRunning rest (some b) p).2 ++ (claim.map Task.leave).toList)) :
    (settle a).lineClaim = none ∧ (settle a).jobs.length ≤ rest.length ∧
      ∀ u bs, postsFirst u (postTo p.events b) bs → postsFirst u (settle a).events bs := by
  have hworks : ∀ u ∈ a.2, isFollowUp u = true := by
    rw [ha]
    exact List.forall_mem_append.mpr ⟨leaveRunning_works rest (some b) p, isFollowUp_leaves claim⟩
  have hpart : a.1 = jobEnded rest (some b) p := by rw [ha, leaveRunning_eq]
  refine ⟨settle_lineClaim_none hworks (by rw [hpart]; rfl), (settle_jobs_length_le hworks).trans (by rw [hpart]; exact le_rfl),
    fun u bs h => postsFirst_settle (by rw [hpart]; exact h)⟩

/-! ## The data of a compare read -/

theorem releaseLineClaim_eq (p : Part) :
    releaseLineClaim p = ({ p with lineClaim := none }, (p.lineClaim.map Task.leave).toList) := by
  rw [← releaseLineClaim_fst]
  unfold releaseLineClaim
  cases p.lineClaim <;> rfl

/-- The window with the bytes that a port has returned added. -/
def Window.withRead (q : Port) (d : LineData) (w : Window) : Window := { w with data := w.data ++ [(q, d)] }

/-- The ports of a compare line that are still to be compared (R135). -/
def stillCompared (w : Window) (p : Part) : List Port :=
  (portsOf w.source).filter (fun x => mstate p w.region x == some .inService)

section
variable {w : Window} {p : Part} (hw : p.window = some w) (hj : w.job = .compare) (hp : w.phase ≠ .closing)
include hw hj hp

theorem copyOk_compareRead (q : Port) (d : LineData) :
    copyOk .compareRead q d p = compareProgress (p.setWindow (some (w.withRead q d))) := by
  simp [copyOk, hw, hj, hp, Window.withRead]

theorem compareProgress_again (hc : w.claims = []) (hin : copyInFlight p = 0)
    (h : w.reread = true ∨ (stillCompared w p).length < 2) : compareProgress p = (p, [.compareStart]) := by
  by_cases hr : w.reread = true
  · exact compareProgress_reread hw hj hp hc hin hr
  · have hfew := h.resolve_left hr
    rw [stillCompared] at hfew
    rw [compareProgress, hw]
    simp [hj, hp, hc, hin, hr, compareLine, hfew]

theorem compareProgress_compared (hc : w.claims = []) (hin : copyInFlight p = 0) (hr : w.reread = false)
    (h2 : 2 ≤ (stillCompared w p).length) : compareProgress p =
      ((recordLine (differingSet w (stillCompared w p)) w { p with lineClaim := none }).1,
        (recordLine (differingSet w (stillCompared w p)) w { p with lineClaim := none }).2 ++
          (p.lineClaim.map Task.leave).toList) := by
  have hmany : ¬ (stillCompared w p).length < 2 := by omega
  rw [stillCompared] at hmany
  have hready : (w.job == .compare && w.phase != .closing && w.claims.isEmpty && copyInFlight p == 0) = true := by
    simp [hj, hp, hc, hin]
  unfold compareProgress
  split
  · next h => simp [hw] at h
  · next w' hw' =>
    obtain rfl : w = w' := Option.some.inj (hw.symm.trans hw')
    simp only [hready, hr, compareLine, hmany, releaseLineClaim_eq, stillCompared, if_true, if_false, Bool.false_eq_true]

end

/-- The set of the ports that differ from the lowest-numbered one (R135). -/
theorem hasPort_differingSet {w : Window} {low : Port} {others : List Port} (x : Port) :
    hasPort (differingSet w (low :: others)) x = true ↔ x ∈ others ∧ dataOf w x ≠ dataOf w low := by
  simp [differingSet, hasPort_portSetOf]

/-! ## Records and counts -/

/-- The record of a compared line: the ports that differ, if any (R135). -/
def mismatchRecords (differing : PortSet) (r : RegionIx) (a : UpAddr) : List EventBody :=
  if differing = 0#4 then []
  else [{ kind := .compareMismatch, region := some r, detail := differing.toNat, addr := .line a }]

theorem postMismatch_eq (differing : PortSet) (r : RegionIx) (a : UpAddr) (p : Part) :
    postMismatch differing r a p = p.posts (mismatchRecords differing r a) := by
  unfold postMismatch mismatchRecords
  by_cases h : differing = 0#4
  · simp [h]
  · simp [h]
    rfl

/-- The line is compared: its line claim gone, its record posted, its counts at the job (R135). -/
def lineCompared (differing : PortSet) (c : CompareJob) (a : UpAddr) (p : Part) : Part :=
  { p with
    lineClaim := none
    events := (mismatchRecords differing c.region a).foldl postTo p.events
    jobs := { kind := .compare (countLine (differing != 0#4) c), started := true } :: p.jobs.tail }

/-- The compared line, and then the next, or the end of the job (R133, R136). -/
def lineFollowed (differing : PortSet) (c : CompareJob) (a : UpAddr) (p : Part) : Act :=
  if (countLine (differing != 0#4) c).nextExtent < c.first + c.count
  then (lineCompared differing c a p, [.compareStart])
  else leaveRunning p.jobs.tail (some (compareDoneEvent (countLine (differing != 0#4) c))) (lineCompared differing c a p)

theorem recordLine_eq {p : Part} {c : CompareJob} (hc : runningCompare p = some c) (differing : PortSet) (w : Window) :
    recordLine differing w { p with lineClaim := none } = lineFollowed differing c w.addr p := by
  obtain ⟨js, hjobs⟩ := runningCompare_head hc
  have hc' : runningCompare { p with lineClaim := none } = some c := hc
  have hset : setRunningCompare (countLine (differing != 0#4) c) (postMismatch differing c.region w.addr { p with lineClaim := none }) =
      lineCompared differing c w.addr p := by
    rw [postMismatch_eq]
    simp only [setRunningCompare, lineCompared, Part.posts, hjobs]
    rfl
  have hregion : (countLine (differing != 0#4) c).region = c.region := rfl
  rw [recordLine, hc']
  dsimp only
  rw [hregion, hset]
  rfl

theorem lineFollowed_goesOn (differing : PortSet) (c : CompareJob) (a : UpAddr) (p : Part) :
    GoesOn (lineCompared differing c a p) (lineFollowed differing c a p) := by
  unfold lineFollowed
  split
  · exact .of_same rfl rfl (by simp [isFollowUp])
  · exact leaveRunning_goesOn _ (by simp [lineCompared])

/-- The record of the line comes before all else (R160). -/
theorem lineFollowed_postsFirst (differing : PortSet) (c : CompareJob) (a : UpAddr) (p : Part) :
    postsFirst p.events (lineFollowed differing c a p).1.events (mismatchRecords differing c.region a) := by
  have hposted := postsFirst_posts (mismatchRecords differing c.region a) p.events
  unfold lineFollowed
  split
  · exact hposted
  · rw [leaveRunning_eq]
    obtain ⟨hs, hq⟩ := posts_keeps [compareDoneEvent (countLine (differing != 0#4) c)]
      (lineCompared differing c a p).events
    exact postsFirst_mono hposted hq hs

/-- The counts after a compared line, held at their maxima (R118, R135). -/
def counted (differing : PortSet) (c : CompareJob) : CompareJob :=
  { c with compared := min (c.compared + 1) 4294967295
           mismatches := if differing = 0#4 then c.mismatches else min (c.mismatches + 1) 65535 }

/-- The counts, and the next line of the extent or line 0 of the next extent (R133). -/
theorem countLine_eq {c : CompareJob} {e k : Nat} (differing : PortSet)
    (h : c.nextLine < 1023 ∧ e = c.nextExtent ∧ k = c.nextLine + 1 ∨ 1023 ≤ c.nextLine ∧ e = c.nextExtent + 1 ∧ k = 0) :
    countLine (differing != 0#4) c = { counted differing c with nextExtent := e, nextLine := k } := by
  have hm : (if (differing != 0#4) = true then min (c.mismatches + 1) Config.mismatchMax else c.mismatches) =
      (counted differing c).mismatches := by
    by_cases hd : differing = 0#4 <;> simp [counted, hd, Config.mismatchMax]
  rcases h with ⟨hk, rfl, rfl⟩ | ⟨hk, rfl, rfl⟩
  · have hl : ¬ (c.nextLine + 1 ≥ Config.linesPerExtent) := Nat.not_le.mpr (Nat.succ_lt_succ hk)
    simp only [countLine, hl, if_false, hm]
    rfl
  · have hl : c.nextLine + 1 ≥ Config.linesPerExtent := Nat.succ_le_succ hk
    simp only [countLine, hl, if_true, hm]
    rfl

/-! ## Line starts -/

/-- The overtake count of the line that starts: kept when the window is on this line, 0 otherwise (R121). -/
def overtakeAt (w : Window) (r : RegionIx) (e k : Nat) : Nat :=
  if w.region = r ∧ w.extent = e ∧ w.lineNo = k then w.overtake else 0

section
variable {w : Window} {c : CompareJob} {p : Part} (hc : runningCompare p = some c)
include hc

theorem compareStart_skips (h2 : (readablePorts p c.region).length < 2) :
    runTask .compareStart p = leaveRunning p.jobs.tail (some (compareDoneEvent c)) p := by
  show taskCompareStart p = _
  rw [taskCompareStart, hc]
  exact if_pos h2

/-- A line of the running compare job starts: reads claimed at the copies that can be read (R133). -/
theorem compareStart_starts (hw : p.window = some w) (h2 : 2 ≤ (readablePorts p c.region).length) : runTask .compareStart p =
    ({ p with window := some (compareWindow p c.region c.nextExtent c.nextLine
        (overtakeAt w c.region c.nextExtent c.nextLine)) },
      if w.region = c.region then [] else [.drainCheck w.region]) := by
  show taskCompareStart p = _
  rw [taskCompareStart, hc]
  dsimp only
  rw [if_neg (by omega)]
  simp only [startLine, hw, overtakeAt, compareWindow, Bool.and_eq_true, beq_iff_eq, and_assoc]
  rfl

/-- With no entry waiting for the released line, the drain check of the region that was left is all that follows. -/
theorem runsTo_compareStart {claim : Option UpAddr} (hw : p.window = some w) (h2 : 2 ≤ (readablePorts p c.region).length)
    (hcl : ∀ x ∈ p.table, x.state = .waitingLine → claim ≠ some x.line) :
    RunsTo 5 (.compareStart :: (claim.map Task.leave).toList) p
      (drainChecked w.region { p with window := some (compareWindow p c.region c.nextExtent c.nextLine
        (overtakeAt w c.region c.nextExtent c.nextLine)) }) := by
  have hstart := compareStart_starts hc hw h2
  generalize hB : ({ p with window := some (compareWindow p c.region c.nextExtent c.nextLine
    (overtakeAt w c.region c.nextExtent c.nextLine)) } : Part) = B at hstart ⊢
  have htable : B.table = p.table := by rw [← hB]
  have hheld : nothingStarts B := .inl (by rw [← hB]; rfl)
  have hidle : ∀ u ∈ (claim.map Task.leave).toList,
      runTask u (drainChecked w.region B) = (drainChecked w.region B, []) :=
    runTask_leave_noneWaits (by rw [table_drainChecked, htable]; exact hcl)
  have hlen : (claim.map Task.leave).toList.length ≤ 1 := by cases claim <;> simp
  by_cases hr : w.region = c.region
  · have hkept : drainChecked w.region B = B := drainChecked_kept (.inr (by rw [← hB]; simp [windowOn, compareWindow, hr]))
    rw [if_pos hr] at hstart
    rw [hkept] at hidle ⊢
    exact RunsTo.stepLt rfl (hlen.trans_lt (by omega)) hstart ⟨_, le_rfl, works_allIdle _ _ rfl hidle⟩
  · rw [if_neg hr] at hstart
    exact RunsTo.stepLt rfl (Nat.add_lt_add_right (hlen.trans_lt (by omega : 1 < 3)) 2) hstart
      (runsTo_drainCheck_idle hheld hidle)

end

end Sys2Proof.Machine
end

section
/-! SUPPORT. The statements about compare lines (O28, O29). -/

namespace Sys2Proof.Machine

/-! ## A compare read's data is taken -/

/-- A drain leaves the running compare job in place (R38). -/
theorem runningCompare_drainChecked {p : Part} {c : CompareJob} (hc : runningCompare p = some c) (r : RegionIx) :
    runningCompare (drainChecked r p) = some c := by
  obtain ⟨js, hj⟩ := runningCompare_head hc
  unfold drainChecked
  split
  · simp [runningCompare, runningJob, Part.retired, hj]
  · exact hc

section
variable {q : Port} {h : Handed} {d : LineData} {w : Window} {c : CompareJob} {s : State} {p : Part}
  (ht : OutcomeTaken q h s p) (ho : h.origin = .copy .compareRead) (hw : p.window = some w) (hj : w.job = .compare)
  (hp : w.phase ≠ .closing)

section
variable (hres : h.result = .ok (some d))
include ht ho hw hj hp hres

theorem compareRead_settles :
    leavesPart (.copyOutcome q) s (settle (compareProgress (p.setWindow (some (w.withRead q d))))) := by
  have hx := ht.settles ho
  rwa [hres, takeCopyOutcome, copyOk_compareRead hw hj hp] at hx

theorem compareRead_leaves {p' : Part} (hr : RunsTo 64 (compareProgress (p.setWindow (some (w.withRead q d)))).2
    (compareProgress (p.setWindow (some (w.withRead q d)))).1 p') : leavesPart (.copyOutcome q) s p' := by
  have hx := compareRead_settles ht ho hw hj hp hres
  rwa [settle_of_runsTo hr (by omega)] at hx

end

/-! ## The line is compared -/

section
variable {low : Port} {others : List Port} {differing : PortSet} (hcl : w.claims = []) (hin : copyInFlight p = 0)
  (hre : w.reread = false) (hc : runningCompare p = some c) (hset : stillCompared w p = low :: others) (hne : others ≠ [])
  (hdiff : ∀ x, hasPort differing x = true ↔ x ∈ others ∧ dataOf (w.withRead q d) x ≠ dataOf (w.withRead q d) low)
include hj hp hcl hin hre hc hset hne hdiff

/-- The last read of the line, two copies still IN_SERVICE (R135). -/
theorem compareProgress_last : compareProgress (p.setWindow (some (w.withRead q d))) =
    ((lineFollowed differing c w.addr (p.setWindow (some (w.withRead q d)))).1,
      (lineFollowed differing c w.addr (p.setWindow (some (w.withRead q d)))).2 ++ (p.lineClaim.map Task.leave).toList) := by
  have hset' : stillCompared (w.withRead q d) (p.setWindow (some (w.withRead q d))) = low :: others := hset
  have hlen : 2 ≤ (low :: others).length := by
    have := List.length_pos_iff.mpr hne
    simp only [List.length_cons]
    omega
  have hdiffers : differingSet (w.withRead q d) (low :: others) = differing := portSet_ext fun x =>
    Bool.eq_iff_iff.mpr ((hasPort_differingSet x).trans (hdiff x).symm)
  have hprog := compareProgress_compared (w := w.withRead q d) (p := p.setWindow (some (w.withRead q d))) rfl hj hp hcl hin hre
    (by rw [hset']; exact hlen)
  rwa [hset', hdiffers, recordLine_eq (p := p.setWindow (some (w.withRead q d))) hc] at hprog

/-- The record of the line is posted first, and its line claim is released for good. -/
theorem compared_posts :
    postsFirst p.events (settle (compareProgress (p.setWindow (some (w.withRead q d))))).events
      (mismatchRecords differing c.region w.addr) ∧
    (settle (compareProgress (p.setWindow (some (w.withRead q d))))).lineClaim = none := by
  have hgo := lineFollowed_goesOn differing c w.addr (p.setWindow (some (w.withRead q d)))
  rw [compareProgress_last hj hp hcl hin hre hc hset hne hdiff]
  have hposts := lineFollowed_postsFirst differing c w.addr (p.setWindow (some (w.withRead q d)))
  generalize lineFollowed differing c w.addr (p.setWindow (some (w.withRead q d))) = a at hgo hposts
  exact ⟨postsFirst_settle hposts,
    settle_lineClaim_none (List.forall_mem_append.mpr ⟨hgo.works, isFollowUp_leaves _⟩) (hgo.lineClaim rfl)⟩

/-- The next line of the job's range starts, and the drain check of the region that was left follows (R133). -/
theorem runsTo_comparedNext {e k : Nat} (hn : claimHoldsNone p)
    (hek : c.nextLine < 1023 ∧ e = c.nextExtent ∧ k = c.nextLine + 1 ∨ 1023 ≤ c.nextLine ∧ e = c.nextExtent + 1 ∧ k = 0)
    (hrange : e < c.first + c.count) (h2 : 2 ≤ (readablePorts p c.region).length) :
    RunsTo 5 (compareProgress (p.setWindow (some (w.withRead q d)))).2
      (compareProgress (p.setWindow (some (w.withRead q d)))).1
      (drainChecked w.region
        { lineCompared differing c w.addr p with
          window := some (compareWindow p c.region e k (overtakeAt w c.region e k)) }) := by
  have hcount := countLine_eq differing hek
  have hfollow : lineFollowed differing c w.addr (p.setWindow (some (w.withRead q d))) =
      (lineCompared differing c w.addr (p.setWindow (some (w.withRead q d))), [.compareStart]) :=
    if_pos (by rw [hcount]; exact hrange)
  have hrun : runningCompare (lineCompared differing c w.addr (p.setWindow (some (w.withRead q d)))) =
      some { counted differing c with nextExtent := e, nextLine := k } := congrArg some hcount
  rw [compareProgress_last hj hp hcl hin hre hc hset hne hdiff, hfollow]
  exact runsTo_compareStart (w := w.withRead q d) hrun rfl h2 hn

/-- At the end of the range the job leaves (R136). -/
theorem compareProgress_ends (hlast : 1023 ≤ c.nextLine) (hend : c.first + c.count ≤ c.nextExtent + 1) :
    ∃ b : EventBody, b = compareDoneEvent (counted differing c) ∧
      compareProgress (p.setWindow (some (w.withRead q d))) =
        ((leaveRunning p.jobs.tail (some b) (lineCompared differing c w.addr (p.setWindow (some (w.withRead q d))))).1,
          (leaveRunning p.jobs.tail (some b) (lineCompared differing c w.addr (p.setWindow (some (w.withRead q d))))).2 ++
            (p.lineClaim.map Task.leave).toList) := by
  have hcount := countLine_eq differing (.inr ⟨hlast, rfl, rfl⟩)
  have hfollow : lineFollowed differing c w.addr (p.setWindow (some (w.withRead q d))) =
      leaveRunning p.jobs.tail (some (compareDoneEvent (countLine (differing != 0#4) c)))
        (lineCompared differing c w.addr (p.setWindow (some (w.withRead q d)))) :=
    if_neg (by rw [hcount]; exact Nat.not_lt.mpr hend)
  refine ⟨_, rfl, ?_⟩
  rw [compareProgress_last hj hp hcl hin hre hc hset hne hdiff, hfollow, hcount]
  rfl

end

end

/-- Settles O28: the bytes kept while reads are outstanding; the line compared; the next line of the extent. -/
theorem compareLineResult : Obligations.CompareLineResult := by
  intro q h rest w w' d s hs htake ho hres hw hj hp hw'
  subst hw'
  have ht : OutcomeTaken q h s { s.part with handed := rest } := ⟨hs, rest, htake, rfl⟩
  have hwin := ht.window.trans hw
  refine ⟨fun hwait => compareRead_leaves ht ho hwin hj hp hres ?_,
    fun c low others differing hcl hin hre hc hset hne hdiff => ?_⟩
  · have hidle : compareProgress (({ s.part with handed := rest } : Part).setWindow (some (w.withRead q d))) = (_, []) :=
      compareProgress_waits (w := w.withRead q d)
        (p := ({ s.part with handed := rest } : Part).setWindow (some (w.withRead q d))) rfl hwait
    rw [hidle]
    exact (RunsTo.nil _).mono (by omega)
  · obtain ⟨hposts, hclaim⟩ := compared_posts (p := { s.part with handed := rest }) hj hp hcl hin hre hc hset hne hdiff
    refine ⟨_, compareRead_settles ht ho hwin hj hp hres, hposts, hclaim, fun hk hrange h2 hn => ?_⟩
    have hek : c.nextLine < 1023 ∧ c.nextExtent = c.nextExtent ∧ c.nextLine + 1 = c.nextLine + 1 := ⟨by omega, rfl, rfl⟩
    have hrun := runsTo_comparedNext (p := { s.part with handed := rest }) hj hp hcl hin hre hc hset hne hdiff hn (.inl hek)
      hrange h2
    show runningCompare (settle _) = _ ∧ (settle _).window.map _ = _
    rw [settle_of_runsTo hrun (by omega), window_drainChecked]
    refine ⟨?_, rfl⟩
    rw [runningCompare_drainChecked (c := countLine (differing != 0#4) c) rfl, countLine_eq differing (.inl hek)]
    rfl

end Sys2Proof.Machine
end

section
/-! SUPPORT. The statement about the ends of compare lines (O29). -/

namespace Sys2Proof.Machine

section
variable {q : Port} {h : Handed} {w : Window} {c : CompareJob} {s : State} {p : Part} (ht : OutcomeTaken q h s p)
  (ho : h.origin = .copy .compareRead) (hw : p.window = some w) (hj : w.job = .compare) (hp : w.phase ≠ .closing)
  (hc : runningCompare p = some c) (hreg : c.region = w.region)
include ht ho hw hj hp hc hreg

/-! ## The line compared -/

section
variable {d : LineData} {low : Port} {others : List Port} {differing : PortSet} (hres : h.result = .ok (some d))
  (hcl : w.claims = []) (hin : copyInFlight p = 0) (hn : claimHoldsNone p) (hre : w.reread = false)
  (hset : stillCompared w p = low :: others) (hne : others ≠ [])
  (hdiff : ∀ x, hasPort differing x = true ↔ x ∈ others ∧ dataOf (w.withRead q d) x ≠ dataOf (w.withRead q d) low)
include hres hcl hin hn hre hset hne hdiff

/-- The next line starts, in the extent or in the next one (R133). -/
theorem nextLine_clause {e k : Nat}
    (hek : c.nextLine < 1023 ∧ e = c.nextExtent ∧ k = c.nextLine + 1 ∨ 1023 ≤ c.nextLine ∧ e = c.nextExtent + 1 ∧ k = 0)
    (hrange : e < c.first + c.count) (h2 : 2 ≤ (readablePorts p c.region).length) (hother : e ≠ w.extent ∨ k ≠ w.lineNo) :
    leavesPart (.copyOutcome q) s
      { p with
        events := (mismatchRecords differing c.region w.addr).foldl postTo p.events
        lineClaim := none
        jobs := { kind := .compare { counted differing c with nextExtent := e, nextLine := k }, started := true } :: p.jobs.tail
        window := some (compareWindow p c.region e k 0) } := by
  have hrun := runsTo_comparedNext hj hp hcl hin hre hc hset hne hdiff hn hek hrange h2
  have hzero : overtakeAt w c.region e k = 0 := if_neg fun ⟨_, he, hk⟩ => hother.elim (· he.symm) (· hk.symm)
  rw [drainChecked_kept (.inr (by simp [windowOn, compareWindow, hreg])), hzero, lineCompared, countLine_eq differing hek] at hrun
  exact compareRead_leaves ht ho hw hj hp hres (hrun.mono (by omega))

omit hreg hn in
/-- The end of the range, the records first and the queue shorter (R136). -/
theorem rangeEnd_clause (hlast : 1023 ≤ c.nextLine) (hend : c.first + c.count ≤ c.nextExtent + 1) :
    ∃ p', leavesPart (.copyOutcome q) s p' ∧
      postsFirst p.events p'.events
        (mismatchRecords differing c.region w.addr ++ [compareDoneEvent (counted differing c)]) ∧
      p'.lineClaim = none ∧ p'.jobs.length ≤ p.jobs.tail.length := by
  refine ⟨_, compareRead_settles ht ho hw hj hp hres, ?_⟩
  obtain ⟨b, rfl, hprog⟩ := compareProgress_ends hj hp hcl hin hre hc hset hne hdiff hlast hend
  obtain ⟨hclaim, hlen, hfirst⟩ := settle_leaveRunning p.jobs.tail (compareDoneEvent (counted differing c))
    (lineCompared differing c w.addr (p.setWindow (some (w.withRead q d)))) p.lineClaim hprog
  refine ⟨hfirst _ _ ?_, hclaim, hlen⟩
  have hposts := postsFirst_posts
    (mismatchRecords differing c.region w.addr ++ [compareDoneEvent (counted differing c)]) p.events
  rwa [List.foldl_append] at hposts

omit hreg in
/-- The end of the range, with no other job (R120, R136). -/
theorem lastEnd_clause (hlast : 1023 ≤ c.nextLine) (hend : c.first + c.count ≤ c.nextExtent + 1) (htail : p.jobs.tail = [])
    (hstays : (p.region w.region).state ≠ .retiring) :
    leavesPart (.copyOutcome q) s
      { p with
        events := (mismatchRecords differing c.region w.addr ++ [compareDoneEvent (counted differing c)]).foldl postTo p.events
        lineClaim := none, jobs := [], window := none } := by
  obtain ⟨b, rfl, hprog⟩ := compareProgress_ends hj hp hcl hin hre hc hset hne hdiff hlast hend
  refine compareRead_leaves ht ho hw hj hp hres ?_
  have hrun := runsTo_lastJobLeft (b := compareDoneEvent (counted differing c)) (claim := p.lineClaim)
    (p := lineCompared differing c w.addr (p.setWindow (some (w.withRead q d)))) rfl hcl hin hstays
    (fun _ _ _ => (Option.some_ne_none _).symm) hn
  rw [hprog, htail, List.foldl_append]
  exact hrun.mono (by omega)

end

/-! ## The line started again, or its job at an end -/

section
variable {d : LineData} (hres : h.result = .ok (some d)) (hcl : w.claims = []) (hin : copyInFlight p = 0)
  (hagain : w.reread = true ∨ (stillCompared w p).length < 2)
include hres hcl hin hagain

/-- The data is dropped; the line starts again with the copies that can be read (R134, R135). -/
theorem lineAgain_clause (he : w.extent = c.nextExtent) (hk : w.lineNo = c.nextLine) (h2 : 2 ≤ (readablePorts p c.region).length) :
    leavesPart (.copyOutcome q) s
      { p with window := some (compareWindow p c.region c.nextExtent c.nextLine w.overtake) } := by
  refine compareRead_leaves ht ho hw hj hp hres ?_
  rw [compareProgress_again (w := w.withRead q d) (p := p.setWindow (some (w.withRead q d))) rfl hj hp hcl hin hagain]
  have hstart := compareStart_again (w := w.withRead q d) (p := p.setWindow (some (w.withRead q d))) rfl hc hreg he.symm hk.symm
    (by rw [hreg] at h2; exact h2)
  rw [hreg, ← he, ← hk]
  exact RunsTo.stepLt rfl (by omega) hstart (.nil _)

omit hreg in
/-- With fewer than two copies to read the job ends (log 17). -/
theorem lineSkipped_clause (h2 : (readablePorts p c.region).length < 2) (htail : p.jobs.tail = []) (hn : claimHoldsNone p)
    (hstays : (p.region w.region).state ≠ .retiring) :
    leavesPart (.copyOutcome q) s
      { post (compareDoneEvent c) p with lineClaim := none, jobs := [], window := none } := by
  refine compareRead_leaves ht ho hw hj hp hres ?_
  rw [compareProgress_again (w := w.withRead q d) (p := p.setWindow (some (w.withRead q d))) rfl hj hp hcl hin hagain]
  have hskip := compareStart_skips (p := p.setWindow (some (w.withRead q d))) hc h2
  have hrun := runsTo_lastJobLeft (b := compareDoneEvent c) (claim := none)
    (p := p.setWindow (some (w.withRead q d))) rfl hcl hin hstays hn (by simp)
  rw [show (p.setWindow (some (w.withRead q d))).jobs.tail = [] from htail] at hskip
  exact RunsTo.stepLt (n := 8) rfl (by omega) hskip hrun

end

/-! ## A failed read -/

/-- Reported, and read again once no other read of the line is outstanding (R134). -/
theorem failedCompareRead_clause {why : Reason} {p1 : Part} (hf : failedFor h.result why) (hwaits : reportWaits p w.region q)
    (hp1 : p1 = reportTaken w.region q why (some w.addr) { p with window := some { w with reread := true } }) :
    (w.claims ≠ [] ∨ copyInFlight p ≠ 0 → leavesPart (.copyOutcome q) s p1) ∧
    (w.claims = [] → copyInFlight p = 0 → w.extent = c.nextExtent → w.lineNo = c.nextLine →
      2 ≤ (readablePorts p1 c.region).length →
      leavesPart (.copyOutcome q) s
        { p1 with window := some (compareWindow p1 c.region c.nextExtent c.nextLine w.overtake) }) := by
  subst hp1
  have hrep := reportTaken_reported w.region q why (some w.addr) { p with window := some { w with reread := true } }
  have hrun : runningCompare { p with window := some { w with reread := true } } = some c := hc
  have hrunning := runningCompare_reportTaken hrun w.region q why (some w.addr)
  have hheld : reportWaits { p with window := some { w with reread := true } } w.region q := fun hm =>
    ⟨.inr rfl, (hwaits hm).2⟩
  generalize hP : reportTaken w.region q why (some w.addr) { p with window := some { w with reread := true } } = p1
    at hrep hrunning ⊢
  have hleaves : ∀ {p'}, RunsTo 32 [.afterCompareFailure] p1 p' → leavesPart (.copyOutcome q) s p' := fun hr => by
    refine ht.leaves ho ?_
    rw [takeCopyOutcome_failed hf]
    exact RunsTo.stepLt rfl (by omega) (copyFailed_compareRead hw hj hp q why)
      (runsTo_report why (some w.addr) hheld (hP ▸ hr))
  have hin1 : copyInFlight p1 = copyInFlight p := hrep.inFlight
  refine ⟨fun hwait => hleaves ?_, fun hcl hin he hk h2 => hleaves ?_⟩
  · rw [← hin1] at hwait
    exact RunsTo.stepLt rfl (by omega) (compareProgress_waits hrep.window hwait) (.nil _)
  · rw [hreg, ← he, ← hk]
    rw [hreg] at h2
    exact RunsTo.stepLt rfl (by omega) (compareProgress_reread hrep.window hj hp hcl (hin1.trans hin) rfl)
      (RunsTo.step (n := 0) rfl (compareStart_again hrep.window hrunning hreg he.symm hk.symm h2) (.nil _))

end

/-- Settles O29: the next line, the end of the range, the line started again, the job that has no copies left to read, and the
failed read. -/
theorem compareLineEnds : Obligations.CompareLineEnds := by
  intro q h rest w c p s hs htake ho hw hj hp hc hreg hrest
  have ht : OutcomeTaken q h s p := ⟨hs, rest, htake, hrest⟩
  have hwin := ht.window.trans hw
  have hrun : runningCompare p = some c := (runningCompare_congr ht.jobs).trans hc
  refine ⟨fun d w' low others differing c' mismatch hres hcl hin hn hre hw' hset hne hdiff hc' hmis => ?_,
    fun d hres hcl hin hagain he hk => ⟨lineAgain_clause ht ho hwin hj hp hrun hreg hres hcl hin hagain he hk,
      lineSkipped_clause ht ho hwin hj hp hrun hres hcl hin hagain⟩,
    fun why p1 hf hwaits => failedCompareRead_clause ht ho hwin hj hp hrun hreg hf (ht.waits hwaits)⟩
  subst hw' hc' hmis
  refine ⟨fun e k => nextLine_clause ht ho hwin hj hp hrun hreg hres hcl hin hn hre hset hne hdiff,
    fun hlast hend ends hends => ?_⟩
  subst hends
  exact ⟨rangeEnd_clause ht ho hwin hj hp hrun hres hcl hin hre hset hne hdiff hlast hend,
    lastEnd_clause ht ho hwin hj hp hrun hres hcl hin hn hre hset hne hdiff hlast hend⟩

end Sys2Proof.Machine
end

section
/-! SUPPORT. The statements about COMPARE and JOB_CANCEL (O46, O47). -/

namespace Sys2Proof.Machine

/-! ## The head of the queue stays -/

/-- A job appended behind a head that has started waits (R119). -/
theorem headHeld_append {p : Part} (h : headHeld p) (js : List Job) : headHeld { p with jobs := p.jobs ++ js } := by
  refine h.imp (fun h => ?_) id
  cases hj : p.jobs with
  | nil => simp [hj] at h
  | cons j js => simpa [hj] using h

/-- A job that has not started is not the head that has (R119). -/
theorem headHeld_eraseIdx {p : Part} {i : Nat} {j : Job} (h : headHeld p) (hi : p.jobs[i]? = some j) (hs : j.started = false) :
    headHeld { p with jobs := p.jobs.eraseIdx i } := by
  refine h.imp (fun h => ?_) id
  cases i with
  | zero => simp [List.head?_eq_getElem?, hi, hs] at h
  | succ i =>
    cases hj : p.jobs with
    | nil => simp [hj] at h
    | cons j js => simpa [hj] using h

theorem settle_headStart_held {p : Part} (h : headHeld p) : settle (p, [.headStart]) = p :=
  settle_one .headStart _ _ (taskHeadStart_held h)

/-! ## COMPARE (R137) -/

theorem compareFits_iff (x : Region) (first count : BitVec 24) : compareFits x first.toNat count.toNat = true ↔
    x.state = .live ∧ x.mode = .mirror ∧ count ≠ 0#24 ∧ first.toNat + count.toNat ≤ x.size * 256 := by
  have hpos : 1 ≤ count.toNat ↔ count ≠ 0#24 := by
    rw [Nat.one_le_iff_ne_zero, Ne, Ne, ← BitVec.toNat_inj]
    rfl
  simp only [compareFits, Bool.and_eq_true, beq_iff_eq, decide_eq_true_eq, hpos, and_assoc]
  rfl

section
variable {p : Part} {c : CompareJob} (hj : p.jobs = [{ kind := .compare c, started := true }]) (hw : p.window = none)
include hj hw

/-- The first line of the only job starts, with no line before it (R121, R133). -/
theorem compareStart_first (h2 : 2 ≤ (readablePorts p c.region).length) : runTask .compareStart p =
    ({ p with window := some (compareWindow p c.region c.nextExtent c.nextLine 0) }, []) := by
  have hc : runningCompare p = some c := by simp [runningCompare, runningJob, hj]
  have hstart : startLine .compare c.region c.nextExtent c.nextLine p =
      (p.setWindow (some (lineBegun .compare p c.region c.nextExtent c.nextLine)), []) := by
    simp [startLine, hw, lineBegun]
  show taskCompareStart p = _
  rw [taskCompareStart, hc]
  dsimp only
  rw [if_neg (Nat.not_lt.mpr h2), hstart]
  rfl

/-- With fewer than two copies to read the only job ends before its first line (log 17). -/
theorem runsTo_firstSkipped (hl : p.lineClaim = none) (hin : copyInFlight p = 0) (h2 : (readablePorts p c.region).length < 2) :
    RunsTo 9 [.compareStart] p { post (compareDoneEvent c) p with lineClaim := none, jobs := [], window := none } := by
  have hc : runningCompare p = some c := by simp [runningCompare, runningJob, hj]
  have hskip := compareStart_skips hc h2
  have hrun := runsTo_jobLeft (rest := []) (ev := some (compareDoneEvent c)) (claim := none) (p := p) (.inr rfl)
    (fun _ _ _ => by simp [hl]) (by simp)
  rw [jobLeft, hw, Option.elim_none, jobEnded_quiet [] (compareDoneEvent c) (fun w h => by simp [hw] at h) hin] at hrun
  rw [hj, List.tail_cons] at hskip
  exact RunsTo.stepLt rfl (by omega) hskip hrun

end

section
variable {p : Part} {c : CompareJob} (hi : engineIdle p)
include hi

/-- The one job of an idle engine starts (R119). -/
theorem headStart_compare : runTask .headStart { p with jobs := [{ kind := .compare c, started := false }] } =
    ({ p with jobs := [{ kind := .compare c, started := true }] }, [.compareStart]) := by
  obtain ⟨-, hw, -, -⟩ := hi
  simp [runTask, taskHeadStart, hw]

theorem runsTo_compare_starts (h2 : 2 ≤ (readablePorts p c.region).length) :
    RunsTo 2 [.headStart] { p with jobs := [{ kind := .compare c, started := false }] }
      { p with
        jobs := [{ kind := .compare c, started := true }]
        window := some (compareWindow p c.region c.nextExtent c.nextLine 0) } := by
  have hhead := headStart_compare (c := c) hi
  obtain ⟨-, hw, -, -⟩ := hi
  have hstart := compareStart_first (p := { p with jobs := [{ kind := .compare c, started := true }] }) rfl hw h2
  exact RunsTo.step rfl hhead (RunsTo.step rfl hstart (.nil _))

theorem runsTo_compare_ends (h2 : (readablePorts p c.region).length < 2) :
    RunsTo 10 [.headStart] { p with jobs := [{ kind := .compare c, started := false }] } (post (compareDoneEvent c) p) := by
  have hhead := headStart_compare (c := c) hi
  obtain ⟨hj, hw, hl, hin⟩ := hi
  have hrun := runsTo_firstSkipped (p := { p with jobs := [{ kind := .compare c, started := true }] }) rfl hw hl hin h2
  have hback : ({ post (compareDoneEvent c) p with lineClaim := none, jobs := [], window := none } : Part) =
      post (compareDoneEvent c) p := by
    rw [← hj, ← hw, ← hl]
    rfl
  exact hback ▸ RunsTo.step rfl hhead hrun

end

/-- Settles O46: the checks in order, then the job appended behind others, and the job at an idle engine. -/
theorem compareChecksAndEffect : Obligations.CompareChecksAndEffect := by
  intro seq region first count s h
  refine ⟨fun hr => repliesWith_of_run rfl h (by simp [cmdCompare, hr, refuse]), fun r hr => ⟨fun hbad => ?_,
    fun hlive hmode hcount hrange => ⟨fun hfull => ?_, fun hroom => ?_⟩⟩⟩
  · have hfits : compareFits (s.part.region r) first.toNat count.toNat = false := by
      rw [Bool.eq_false_iff, Ne, compareFits_iff]
      rintro ⟨hlive, hmode, hcount, hrange⟩
      rcases hbad with hb | hb | hb | hb
      · exact hb hlive
      · exact hb hmode
      · exact hcount hb
      · omega
    exact repliesWith_of_run rfl h (by simp [cmdCompare, hr, hfits, refuse])
  · have hfits := (compareFits_iff ..).mpr ⟨hlive, hmode, hcount, hrange⟩
    exact repliesWith_of_run rfl h (by simp [cmdCompare, hr, hfits, refuse, Config.compareCapacity, hfull])
  · have hfits := (compareFits_iff ..).mpr ⟨hlive, hmode, hcount, hrange⟩
    refine ⟨settle ({ s.part with jobs := s.part.jobs ++ [newCompare r first.toNat count.toNat] }, [.headStart]),
      repliesWith_of_run rfl h (by simp [cmdCompare, hr, hfits, Config.compareCapacity, Nat.not_le.mpr hroom]),
      sameOutside_trans (jobs_same _ _) (settle_same _), fun hh => settle_headStart_held (headHeld_append hh _),
      fun hi ports a hports ha => ?_⟩
    subst hports ha
    have hj : s.part.jobs = [] := hi.1
    rw [hj]
    exact ⟨fun h2 => settle_of_runsTo (runsTo_compare_starts hi h2) (by omega),
      fun h2 => settle_of_runsTo (runsTo_compare_ends hi h2) (by omega)⟩

/-! ## JOB_CANCEL (R139) -/

/-- The running compare job with reads outstanding: its window is CLOSING, and nothing starts (R120, R123). -/
theorem settle_leaveRunning_closing {rest : List Job} {b : EventBody} {w : Window} {p : Part} (hw : p.window = some w)
    (hin : copyInFlight p ≠ 0) (hn : claimHoldsNone p) : settle (leaveRunning rest (some b) p) =
      { post b (withdrawClaims p) with
        jobs := rest
        lineClaim := none
        window := some { w with phase := .closing, data := [], claims := [] } } := by
  have hevents : (withdrawClaims p).events = p.events := by rw [(withdrawClaims_only p).part]
  have hended : jobEnded rest (some b) p =
      { post b (withdrawClaims p) with
        jobs := rest
        lineClaim := none
        window := some { w with phase := .closing, data := [], claims := [] } } := by
    rw [jobEnded, windowLeft, if_neg hin, hw, post, hevents]
    rfl
  have hrun := runsTo_jobLeft (rest := rest) (ev := some b) (claim := none) (p := p) (.inl (by rw [hended]; rfl)) hn (by simp)
  rw [jobLeft, hw, Option.elim_some, drainChecked_kept (.inr (by simp [hended, windowOn])), hended] at hrun
  rw [Option.map_none, Option.toList_none, List.append_nil] at hrun
  exact settle_of_runsTo hrun (by omega)

theorem cancelJob_same (i : Nat) (j : Job) (c : CompareJob) (p : Part) : sameOutside p (cancelJob i j c p) := by
  unfold cancelJob
  split
  · exact sameOutside_trans (leaveRunning_same ..) (settle_same _)
  · exact sameOutside_trans (sameOutside_trans (post_same _ p) (jobs_same _ _)) (settle_same _)

/-- Settles O47: the refusals, then the job that waits and the one that runs. -/
theorem jobCancelChecksAndEffect : Obligations.JobCancelChecksAndEffect := by
  intro seq position s h
  refine ⟨fun hlen => ?_, fun j hj => ⟨fun q hq => ?_, fun c hc => ?_⟩⟩
  · exact repliesWith_of_run rfl h (by simp [cmdJobCancel, hlen, refuse])
  · exact repliesWith_of_run rfl h (by simp [cmdJobCancel, hj, hq, refuse])
  · refine ⟨cancelJob position.toNat j c s.part, repliesWith_of_run rfl h (by simp [cmdJobCancel, hj, hc, done]),
      cancelJob_same .., fun hs hh => ?_, fun hs => ?_, fun hs w hw hin hn => ?_⟩
    · rw [cancelJob, if_neg (by simp [hs])]
      exact settle_headStart_held (headHeld_eraseIdx (p := post (compareDoneEvent c) s.part) hh hj hs)
    · obtain ⟨hclaim, hlen, hfirst⟩ := settle_leaveRunning (s.part.jobs.eraseIdx position.toNat) (compareDoneEvent c) s.part none
        (a := leaveRunning (s.part.jobs.eraseIdx position.toNat) (some (compareDoneEvent c)) s.part) (by simp)
      obtain ⟨hi, -⟩ := List.getElem?_eq_some_iff.mp hj
      rw [cancelJob, if_pos hs]
      refine ⟨hfirst _ _ (postsFirst_posts [compareDoneEvent c] s.part.events), ?_, hclaim⟩
      rw [List.length_eraseIdx_of_lt hi] at hlen
      omega
    · rw [cancelJob, if_pos hs]
      exact settle_leaveRunning_closing hw hin hn

end Sys2Proof.Machine
end
